-- ==== Sys2Proof/Word.lean ====
section
/-! DEFINITION. Words and the one container of the model. A `Map` is a list of key and value pairs; the operations that keep it in
canonical form (keys strictly rising, no entry equal to the default) stand in Machine/Bits.lean. -/

namespace Sys2Proof

/-- A byte (R2). -/
abbrev Byte := BitVec 8
/-- A word, 32 bits (R2). -/
abbrev Word := BitVec 32
/-- A double, 64 bits (R2). -/
abbrev Dword := BitVec 64
/-- One bit per lane of a crew (R163). -/
abbrev Mask := BitVec 32
/-- Sparse data by key. -/
abbrev Map (α : Type) := List (Nat × α)

end Sys2Proof
end

