-- ==== Sys2Proof/Syntax.lean ====
section
/-! DEFINITION. Syntax of the Damuth: the eight instruction formats of R110 to R120, the operand record of an engine step,
and `Instr`, one constructor for every row of the opcode table. The switch marker M (R109) is common to every format and
is not a field of `Instr`: it stands beside the instruction in `Fetched` and in the issue register of the state. -/

namespace Sys2Proof

/-- K format, 16 bits (R110). -/
structure KF where
  s : BitVec 5
  d : BitVec 5
deriving DecidableEq, Repr

/-- T format (R112); `e` is the extension word, present exactly when one source field holds the literal sentinel (R107, R114). -/
structure TF where
  s2 : BitVec 6
  k2 : BitVec 2
  s1 : BitVec 6
  k1 : BitVec 2
  d : BitVec 6
  e : Option (BitVec 32)
deriving DecidableEq, Repr

/-- I format (R115). -/
structure IF where
  imm : BitVec 16
  d : BitVec 6
deriving DecidableEq, Repr

/-- M format (R116). -/
structure MF where
  os : BitVec 3
  sp : BitVec 2
  b : BitVec 5
  a : BitVec 6
  d : BitVec 6
deriving DecidableEq, Repr

/-- B format (R117). -/
structure BF where
  off : BitVec 16
  c : BitVec 6
deriving DecidableEq, Repr

/-- X format (R118); `ash` is the field AS. -/
structure XF where
  fm : BitVec 5
  b : BitVec 6
  bs : BitVec 1
  a : BitVec 6
  ash : BitVec 1
  acc : BitVec 3
deriving DecidableEq, Repr

/-- Q format (R119). -/
structure QF where
  sub : BitVec 4
  p2 : BitVec 6
  p1 : BitVec 6
  d : BitVec 6
deriving DecidableEq, Repr

/-- S format (R120). -/
structure SF where
  code : BitVec 16
  d : BitVec 6
deriving DecidableEq, Repr

/-- Every instruction and every engine step of the opcode table, one constructor per row. The rows without a word (engine
steps and events) take their operands from the operand latch of the state (`EvArg`). ILL, FENCE, PFETCH and BRK keep
bits [31:10] of their word in the issue register (`Fetched.aux`). -/
inductive Instr where
  | iadd (f : TF)
  | isub (f : TF)
  | imul (f : TF)
  | imulh (f : TF)
  | umulh (f : TF)
  | imad (f : TF)
  | imin (f : TF)
  | imax (f : TF)
  | umin (f : TF)
  | umax (f : TF)
  | iabs (f : TF)
  | idiv (f : TF)
  | udiv (f : TF)
  | irem (f : TF)
  | urem (f : TF)
  | iadds (f : TF)
  | and (f : TF)
  | or (f : TF)
  | xor (f : TF)
  | andn (f : TF)
  | shl (f : TF)
  | shr (f : TF)
  | sar (f : TF)
  | rotl (f : TF)
  | popc (f : TF)
  | clz (f : TF)
  | brev (f : TF)
  | bfx (f : TF)
  | bfi (f : TF)
  | sel (f : TF)
  | mov (f : TF)
  | movs (f : TF)
  | iseteq (f : TF)
  | isetne (f : TF)
  | isetlt (f : TF)
  | isetle (f : TF)
  | usetlt (f : TF)
  | usetle (f : TF)
  | mskeq (f : TF)
  | mskne (f : TF)
  | msklt (f : TF)
  | mskle (f : TF)
  | umsklt (f : TF)
  | ballot (f : TF)
  | iadd64 (f : TF)
  | isub64 (f : TF)
  | imul64 (f : TF)
  | lea (f : TF)
  | shfl (f : TF)
  | shflx (f : TF)
  | bcast (f : TF)
  | redadd (f : TF)
  | redmin (f : TF)
  | redmax (f : TF)
  | argmin (f : TF)
  | argmax (f : TF)
  | scanadd (f : TF)
  | confl (f : TF)
  | ksumf (f : TF)
  | ksum (f : TF)
  | ldi (f : IF)
  | ldih (f : IF)
  | rdsr (f : IF)
  | wrsr (f : IF)
  | fadd (f : TF)
  | fsub (f : TF)
  | fmul (f : TF)
  | fma (f : TF)
  | fmin (f : TF)
  | fmax (f : TF)
  | fabs (f : TF)
  | fneg (f : TF)
  | fdiv (f : TF)
  | fsqrt (f : TF)
  | frcp (f : TF)
  | frsq (f : TF)
  | fexp2 (f : TF)
  | flog2 (f : TF)
  | fsin (f : TF)
  | fcos (f : TF)
  | fseteq (f : TF)
  | fsetlt (f : TF)
  | fsetle (f : TF)
  | fsetun (f : TF)
  | fmskeq (f : TF)
  | fmsklt (f : TF)
  | fmskle (f : TF)
  | fmskun (f : TF)
  | fclass (f : TF)
  | frint (f : TF)
  | ffloor (f : TF)
  | fceil (f : TF)
  | ftrunc (f : TF)
  | ferradd (f : TF)
  | ferrmul (f : TF)
  | fredx (f : TF)
  | dadd (f : TF)
  | dsub (f : TF)
  | dmul (f : TF)
  | dfma (f : TF)
  | dmin (f : TF)
  | dmax (f : TF)
  | ddiv (f : TF)
  | dsqrt (f : TF)
  | dsetlt (f : TF)
  | dseteq (f : TF)
  | dsetle (f : TF)
  | dabs (f : TF)
  | cvt (f : TF)
  | icvtf (f : TF)
  | ucvtf (f : TF)
  | fcvti (f : TF)
  | fcvtn (f : TF)
  | dcvtf (f : TF)
  | fcvtd (f : TF)
  | packh (f : TF)
  | packb (f : TF)
  | unpkh (f : TF)
  | unpkb (f : TF)
  | bfpenc (f : TF)
  | bfpdec (f : TF)
  | hfma2 (f : TF)
  | bfma2 (f : TF)
  | hadd2 (f : TF)
  | hmul2 (f : TF)
  | kMov (f : KF)
  | kIadd (f : KF)
  | kIsub (f : KF)
  | kAnd (f : KF)
  | kOr (f : KF)
  | kXor (f : KF)
  | kShli (f : KF)
  | kShri (f : KF)
  | kIaddi (f : KF)
  | kFadd (f : KF)
  | kFsub (f : KF)
  | kFmul (f : KF)
  | kFmax (f : KF)
  | kFmin (f : KF)
  | kLdw (f : KF)
  | ldbs (f : MF)
  | ldbz (f : MF)
  | ldhs (f : MF)
  | ldhz (f : MF)
  | ldw (f : MF)
  | ldd (f : MF)
  | ldq (f : MF)
  | ldf (f : MF)
  | stb (f : MF)
  | sth (f : MF)
  | stw (f : MF)
  | std (f : MF)
  | stq (f : MF)
  | stf (f : MF)
  | ldg (f : MF)
  | stg (f : MF)
  | ldgf (f : MF)
  | tlook (f : MF)
  | tset (f : MF)
  | tdrop (f : MF)
  | ldc (f : MF)
  | aadd (f : MF)
  | aaddf (f : MF)
  | aaddd (f : MF)
  | amin (f : MF)
  | amax (f : MF)
  | aumin (f : MF)
  | aumax (f : MF)
  | aand (f : MF)
  | aor (f : MF)
  | axor (f : MF)
  | axchg (f : MF)
  | acas (f : MF)
  | aincw (f : MF)
  | aaddn (f : MF)
  | aaddfn (f : MF)
  | bra (f : BF)
  | brz (f : BF)
  | bru (f : BF)
  | brs (f : BF)
  | brx (f : TF)
  | call (f : BF)
  | ret (f : TF)
  | bar (f : TF)
  | bara (f : TF)
  | barw (f : TF)
  | barc (f : TF)
  | bari (f : TF)
  | sleep (f : SF)
  | sleepClk (f : SF)
  | sleepCount (f : SF)
  | mma (f : XF)
  | mmasp (f : XF)
  | mzero (f : XF)
  | mlda (f : XF)
  | mwaitc (f : XF)
  | mwaitd (f : XF)
  | cpy (f : QF)
  | cpyk (f : QF)
  | cpyt (f : QF)
  | permit (f : QF)
  | permitRel (f : QF)
  | cpyc (f : QF)
  | cpycPull (f : QF)
  | cpywt (f : QF)
  | evpost (f : QF)
  | evpostN (f : QF)
  | evcan (f : QF)
  | evkey (f : QF)
  | evkeySelf (f : QF)
  | rsto (f : QF)
  | rload (f : QF)
  | ratomAdd (f : QF)
  | ratomAdd64 (f : QF)
  | ratomAddf (f : QF)
  | ratomAddd (f : QF)
  | ratomMin (f : QF)
  | ratomMax (f : QF)
  | ratomUmin (f : QF)
  | ratomUmax (f : QF)
  | ratomAnd (f : QF)
  | ratomOr (f : QF)
  | ratomXor (f : QF)
  | ratomXchg (f : QF)
  | ratomCas (f : QF)
  | ratomIncw (f : QF)
  | rflag (f : QF)
  | rflagAdd (f : QF)
  | rdrainS (f : QF)
  | ropen (f : QF)
  | coll (f : QF)
  | collDef (f : QF)
  | collUndef (f : QF)
  | rclose (f : QF)
  | qsend (f : QF)
  | qrecv (f : QF)
  | qtryRecv (f : QF)
  | qtrySend (f : QF)
  | tmark (f : SF)
  | pmark (f : SF)
  | watchset (f : SF)
  | trap (f : TF)
  | xir (f : TF)
  | svc (f : TF)
  | exmWrite
  | clockReadLatch
  | kNop
  | pfetch
  | fence
  | tinv
  | tokw
  | tokp
  | ldcBankLoaded
  | exit
  | yield
  | yieldExpiry
  | sleepWake
  | matrixGroupExecute
  | matrixTileUpdate
  | cpyComplete
  | cpykDescriptorEnd
  | cpytLand
  | cpycAccept
  | cpycTransferEnd
  | evend
  | rdrain
  | drainComplete
  | brk
  | nop
  | rett
  | rettSkip
  | ill
  | ctxsw
  | ctxswHalt
  | registerResultReturn
  | faultDelivery
  | trapEntry
  | faultRecordAnswer
  | firmwareRecordFree
  | firmwarePageMap
  | crewRetire
  | launchComplete
  | unitDispatch
  | placementWaitExpiry
  | preempt
  | saveDrainExpiry
  | cohortRestore
  | issueAgeExpiry
  | breakpointStop
  | launch
  | timeline
  | post
  | postStoreDelayed
  | waitflag
  | waitflagPoll
  | signal
  | copy
  | partitionSet
  | partitionResize
  | partitionFerry
  | partitionQueue
  | partitionClear
  | partitionInval
  | partitionAttest
  | checkpoint
  | checkpointRestore
  | spanStart
  | roundEnd
  | wcLineAgeDrain
  | writePacket
  | flagPacket
  | closePacket
  | loadPacket
  | atomicPacket
  | evpostPacket
  | evcanPacket
  | loadrep
  | atomrep
  | evrep
  | openrep
  | canrep
  | queryrep
  | openPacket
  | lossPacket
  | resync
  | query
  | route
  | flagTimeout
  | firmwareFlagRecovery
  | remoteReplyTimeout
  | combiningWindowClose
  | flitReceive
  | nakReceive
  | creditRefresh
  | linkLaneRepair
  | linkRetrainTimeout
  | flitResendLimit
  | collDefinePacket
  | collChunk
  | collCredit
  | collReport
  | collRelease
  | collAbort
  | collChunkSend
  | collTimeout
  | collDefTimeout
  | firmwareCollReset
  | collBreakTimeout
  | ferryOverflowGrow
  | chancycleDetect
  | bufferReq
  | traceReq
  | seriesReq
  | regionReq
  | breakReq
  | armbrkReq
  | stopReq
  | stepReq
  | resumeReq
  | dumpReq
  | patchReq
  | killReq
  | wakeReq
  | counterTick
  | tracePointerPublish
  | pageWalk
  | mainPowerGood
  | coldReset
  | stagedImageFlag
  | trainingComplete
  | fullServiceChangeover
  | powerCapThrottle
  | thermalThrottle
  | thermalTrip
  | standbyPowerLoss
  | sidebandPowerCap
  | unassignedOpcode
  | fetchFault
  | copyByteCountdown
  | countedAccessComplete
  | queueEntryBadentry
  | ctxswCrewReturn
  | queueCopyComplete
  | checkpointTransferEnd
  | standbyPowerGood
  | mainPowerLoss
deriving DecidableEq, Repr

/-- A decoded instruction: the instruction, its marker bit M (R109), bits [31:10] of the word for the four
instructions whose fields stand in the issue register (zero for every other), and the extension word of ILL (zero without one). -/
structure Fetched where
  instr : Instr
  m : BitVec 1
  aux : BitVec 22
  ext : BitVec 32 := 0
deriving DecidableEq, Repr

/-- Why a word is no instruction: the ILLOP causes that the word alone shows (R131, R134). -/
inductive Illegal where
  /-- the byte list ends before the instruction does -/
  | shortInput
  /-- an OP of R134 -/
  | unassignedOpcode
  /-- a fixed or reserved field does not hold its value (R122, R111) -/
  | reservedField
  /-- both source fields hold the sentinel (R114) -/
  | twoSentinels
deriving DecidableEq, Repr

end Sys2Proof
end

