-- ==== Sys2Proof/WellFormed.lean ====
section
/-! DEFINITION. Well-formed instructions: every field that the opcode table fixes for the row holds its fixed value (R122), and an
extension word stands exactly where one sentinel does (R114). What depends on the crew (its register count, its launch, its
level) is checked when the instruction issues. -/

namespace Sys2Proof

/-- Field `k:s` holds the literal sentinel 0b100000 of kind L (R114). -/
def isSentinel (k : BitVec 2) (s : BitVec 6) : Bool := k == 3 && s == 32

/-- At most one sentinel, and the extension word exactly when there is one (R107, R114). -/
def TF.extOk (f : TF) : Bool :=
  let a := isSentinel f.k1 f.s1
  let b := isSentinel f.k2 f.s2
  !(a && b) && (f.e.isSome == (a || b))

/-- The fields that the row fixes hold their values. -/
def Instr.wf : Instr → Bool
  | .iadd f => f.extOk
  | .isub f => f.extOk
  | .imul f => f.extOk
  | .imulh f => f.extOk
  | .umulh f => f.extOk
  | .imad f => f.extOk
  | .imin f => f.extOk
  | .imax f => f.extOk
  | .umin f => f.extOk
  | .umax f => f.extOk
  | .iabs f => f.extOk && f.s2 == 0 && f.k2 == 0
  | .idiv f => f.extOk
  | .udiv f => f.extOk
  | .irem f => f.extOk
  | .urem f => f.extOk
  | .iadds f => f.extOk
  | .and f => f.extOk
  | .or f => f.extOk
  | .xor f => f.extOk
  | .andn f => f.extOk
  | .shl f => f.extOk
  | .shr f => f.extOk
  | .sar f => f.extOk
  | .rotl f => f.extOk
  | .popc f => f.extOk && f.s2 == 0 && f.k2 == 0
  | .clz f => f.extOk && f.s2 == 0 && f.k2 == 0
  | .brev f => f.extOk && f.s2 == 0 && f.k2 == 0
  | .bfx f => f.extOk
  | .bfi f => f.extOk
  | .sel f => f.extOk
  | .mov f => f.extOk && f.s2 == 0 && f.k2 == 0
  | .movs f => f.extOk && f.s2 == 0 && f.k2 == 0
  | .iseteq f => f.extOk
  | .isetne f => f.extOk
  | .isetlt f => f.extOk
  | .isetle f => f.extOk
  | .usetlt f => f.extOk
  | .usetle f => f.extOk
  | .mskeq f => f.extOk
  | .mskne f => f.extOk
  | .msklt f => f.extOk
  | .mskle f => f.extOk
  | .umsklt f => f.extOk
  | .ballot f => f.extOk && f.s2 == 0 && f.k2 == 0
  | .iadd64 f => f.extOk
  | .isub64 f => f.extOk
  | .imul64 f => f.extOk
  | .lea f => f.extOk
  | .shfl f => f.extOk && f.k1 == 0
  | .shflx f => f.extOk && f.k1 == 0
  | .bcast f => f.extOk && f.k1 == 0
  | .redadd f => f.extOk && f.s2 == 0 && f.k2 == 0
  | .redmin f => f.extOk && f.s2 == 0 && f.k2 == 0
  | .redmax f => f.extOk && f.s2 == 0 && f.k2 == 0
  | .argmin f => f.extOk && f.s2 == 0 && f.k2 == 0
  | .argmax f => f.extOk && f.s2 == 0 && f.k2 == 0
  | .scanadd f => f.extOk && f.s2 == 0 && f.k2 == 0
  | .confl f => f.extOk && f.s2 == 0 && f.k2 == 0
  | .ksumf f => f.extOk
  | .ksum f => f.extOk
  | .ldi _ => true
  | .ldih _ => true
  | .rdsr f => f.imm &&& 61440 == 0
  | .wrsr f => f.imm &&& 61440 == 0
  | .fadd f => f.extOk
  | .fsub f => f.extOk
  | .fmul f => f.extOk
  | .fma f => f.extOk
  | .fmin f => f.extOk
  | .fmax f => f.extOk
  | .fabs f => f.extOk && f.s2 == 0 && f.k2 == 0
  | .fneg f => f.extOk && f.s2 == 0 && f.k2 == 0
  | .fdiv f => f.extOk
  | .fsqrt f => f.extOk && f.s2 == 0 && f.k2 == 0
  | .frcp f => f.extOk && f.s2 == 0 && f.k2 == 0
  | .frsq f => f.extOk && f.s2 == 0 && f.k2 == 0
  | .fexp2 f => f.extOk && f.s2 == 0 && f.k2 == 0
  | .flog2 f => f.extOk && f.s2 == 0 && f.k2 == 0
  | .fsin f => f.extOk && f.s2 == 0 && f.k2 == 0
  | .fcos f => f.extOk && f.s2 == 0 && f.k2 == 0
  | .fseteq f => f.extOk
  | .fsetlt f => f.extOk
  | .fsetle f => f.extOk
  | .fsetun f => f.extOk
  | .fmskeq f => f.extOk
  | .fmsklt f => f.extOk
  | .fmskle f => f.extOk
  | .fmskun f => f.extOk
  | .fclass f => f.extOk && f.s2 == 0 && f.k2 == 0
  | .frint f => f.extOk && f.s2 == 0 && f.k2 == 0
  | .ffloor f => f.extOk && f.s2 == 0 && f.k2 == 0
  | .fceil f => f.extOk && f.s2 == 0 && f.k2 == 0
  | .ftrunc f => f.extOk && f.s2 == 0 && f.k2 == 0
  | .ferradd f => f.extOk
  | .ferrmul f => f.extOk
  | .fredx f => f.extOk && f.s2 == 0 && f.k2 == 0
  | .dadd f => f.extOk
  | .dsub f => f.extOk
  | .dmul f => f.extOk
  | .dfma f => f.extOk
  | .dmin f => f.extOk
  | .dmax f => f.extOk
  | .ddiv f => f.extOk
  | .dsqrt f => f.extOk && f.s2 == 0 && f.k2 == 0
  | .dsetlt f => f.extOk
  | .dseteq f => f.extOk
  | .dsetle f => f.extOk
  | .dabs f => f.extOk && f.s2 == 0 && f.k2 == 0
  | .cvt f => f.extOk && f.k2 == 3
  | .icvtf f => f.extOk && f.s2 == 0 && f.k2 == 0
  | .ucvtf f => f.extOk && f.s2 == 0 && f.k2 == 0
  | .fcvti f => f.extOk && f.s2 == 0 && f.k2 == 0
  | .fcvtn f => f.extOk && f.s2 == 0 && f.k2 == 0
  | .dcvtf f => f.extOk && f.s2 == 0 && f.k2 == 0
  | .fcvtd f => f.extOk && f.s2 == 0 && f.k2 == 0
  | .packh f => f.extOk
  | .packb f => f.extOk
  | .unpkh f => f.extOk && f.s2 == 0 && f.k2 == 0
  | .unpkb f => f.extOk && f.s2 == 0 && f.k2 == 0
  | .bfpenc f => f.extOk && f.k1 == 0
  | .bfpdec f => f.extOk
  | .hfma2 f => f.extOk
  | .bfma2 f => f.extOk
  | .hadd2 f => f.extOk
  | .hmul2 f => f.extOk
  | .kMov _ => true
  | .kIadd _ => true
  | .kIsub _ => true
  | .kAnd _ => true
  | .kOr _ => true
  | .kXor _ => true
  | .kShli _ => true
  | .kShri _ => true
  | .kIaddi _ => true
  | .kFadd _ => true
  | .kFsub _ => true
  | .kFmul _ => true
  | .kFmax _ => true
  | .kFmin _ => true
  | .kLdw f => f.s &&& 1 == 0
  | .ldbs _ => true
  | .ldbz _ => true
  | .ldhs _ => true
  | .ldhz _ => true
  | .ldw _ => true
  | .ldd _ => true
  | .ldq _ => true
  | .ldf f => f.sp == 0
  | .stb f => f.sp &&& 2 == 0
  | .sth f => f.sp &&& 2 == 0
  | .stw f => f.sp &&& 2 == 0
  | .std f => f.sp &&& 2 == 0
  | .stq f => f.sp &&& 2 == 0
  | .stf f => f.sp == 0
  | .ldg f => f.sp == 0
  | .stg f => f.sp == 0
  | .ldgf f => f.sp == 0
  | .tlook f => f.os == 0 && f.sp == 1 && f.b == 31
  | .tset f => f.os == 0 && f.sp == 1 && f.b == 31
  | .tdrop f => f.os == 0 && f.sp == 1 && f.b == 31 && f.d == 0
  | .ldc f => f.os == 0 && f.sp &&& 2 == 0 && f.a == 0 && f.d &&& 48 == 0
  | .aadd f => f.sp &&& 2 == 0
  | .aaddf f => f.sp &&& 2 == 0
  | .aaddd f => f.sp &&& 2 == 0
  | .amin f => f.sp &&& 2 == 0
  | .amax f => f.sp &&& 2 == 0
  | .aumin f => f.sp &&& 2 == 0
  | .aumax f => f.sp &&& 2 == 0
  | .aand f => f.sp &&& 2 == 0
  | .aor f => f.sp &&& 2 == 0
  | .axor f => f.sp &&& 2 == 0
  | .axchg f => f.sp &&& 2 == 0
  | .acas f => f.sp &&& 2 == 0
  | .aincw f => f.sp &&& 2 == 0
  | .aaddn f => f.sp &&& 2 == 0
  | .aaddfn f => f.sp &&& 2 == 0
  | .bra f => f.c == 0
  | .brz _ => true
  | .bru _ => true
  | .brs _ => true
  | .brx f => f.extOk && f.s2 == 0 && f.k2 == 0 && f.d == 0
  | .call _ => true
  | .ret f => f.extOk && f.s2 == 0 && f.k2 == 0 && f.k1 == 0 && f.d == 0
  | .bar f => f.extOk && f.s2 == 0 && f.k2 == 0 && f.d == 0
  | .bara f => f.extOk && f.s2 == 0 && f.k2 == 0
  | .barw f => f.extOk && f.d == 0 && f.e.isNone
  | .barc f => f.extOk && f.s2 == 0 && f.k2 == 0 && f.d == 0
  | .bari f => f.extOk && f.d &&& 62 == 0
  | .sleep f => f.code == 0
  | .sleepClk f => f.code == 4096
  | .sleepCount f => f.code &&& 61440 == 8192 && f.d == 0
  | .mma _ => true
  | .mmasp f => f.ash == 1
  | .mzero f => f.fm == 0 && f.b == 0 && f.bs == 0 && f.a == 0 && f.ash == 0
  | .mlda f => f.fm &&& 16 == 0 && f.b == 0 && f.bs == 0 && f.ash == 0
  | .mwaitc f => f.fm == 0 && f.b &&& 62 == 0 && f.ash == 0 && f.acc == 0
  | .mwaitd f => f.fm == 0 && f.b &&& 62 == 0 && f.ash == 0 && f.acc == 0
  | .cpy f => f.sub &&& 8 == 0
  | .cpyk f => f.sub == 0 && f.d == 0
  | .cpyt f => f.sub == 0 && f.d == 0
  | .permit f => f.sub == 0
  | .permitRel f => f.sub == 1 && f.p2 == 0
  | .cpyc f => f.sub == 0
  | .cpycPull f => f.sub == 1
  | .cpywt f => f.sub == 0 && f.d == 0
  | .evpost f => f.sub == 0
  | .evpostN f => f.sub == 1 && f.d == 0
  | .evcan f => f.sub == 0 && f.p2 == 0
  | .evkey f => f.sub == 0 && f.p2 == 0
  | .evkeySelf f => f.sub == 1 && f.p2 == 0 && f.p1 == 0
  | .rsto _ => true
  | .rload f => f.sub &&& 8 == 0
  | .ratomAdd f => f.sub == 0
  | .ratomAdd64 f => f.sub == 1
  | .ratomAddf f => f.sub == 2
  | .ratomAddd f => f.sub == 3
  | .ratomMin f => f.sub == 4
  | .ratomMax f => f.sub == 5
  | .ratomUmin f => f.sub == 6
  | .ratomUmax f => f.sub == 7
  | .ratomAnd f => f.sub == 8
  | .ratomOr f => f.sub == 9
  | .ratomXor f => f.sub == 10
  | .ratomXchg f => f.sub == 11
  | .ratomCas f => f.sub == 12
  | .ratomIncw f => f.sub == 13
  | .rflag f => f.sub &&& 14 == 0
  | .rflagAdd f => f.sub &&& 14 == 2
  | .rdrainS f => f.sub == 1 && f.p2 == 0 && f.p1 == 0
  | .ropen f => f.sub == 0
  | .coll f => f.sub == 0 && f.p2 == 0
  | .collDef f => f.sub == 1 && f.p2 == 0
  | .collUndef f => f.sub == 2 && f.p2 == 0
  | .rclose f => f.sub == 0 && f.p2 == 0 && f.p1 == 0
  | .qsend f => f.sub == 0
  | .qrecv f => f.sub == 0
  | .qtryRecv f => f.sub == 0
  | .qtrySend f => f.sub == 1
  | .tmark _ => true
  | .pmark _ => true
  | .watchset f => f.code &&& 65528 == 0
  | .trap f => f.extOk && f.s2 == 0 && f.k2 == 0 && f.d == 0
  | .xir f => f.extOk && f.s2 == 0 && f.k2 == 0 && f.k1 == 0 && f.d == 0
  | .svc f => f.extOk
  | .exmWrite => true
  | .clockReadLatch => true
  | .kNop => true
  | .pfetch => true
  | .fence => true
  | .tinv => true
  | .tokw => true
  | .tokp => true
  | .ldcBankLoaded => true
  | .exit => true
  | .yield => true
  | .yieldExpiry => true
  | .sleepWake => true
  | .matrixGroupExecute => true
  | .matrixTileUpdate => true
  | .cpyComplete => true
  | .cpykDescriptorEnd => true
  | .cpytLand => true
  | .cpycAccept => true
  | .cpycTransferEnd => true
  | .evend => true
  | .rdrain => true
  | .drainComplete => true
  | .brk => true
  | .nop => true
  | .rett => true
  | .rettSkip => true
  | .ill => true
  | .ctxsw => true
  | .ctxswHalt => true
  | .registerResultReturn => true
  | .faultDelivery => true
  | .trapEntry => true
  | .faultRecordAnswer => true
  | .firmwareRecordFree => true
  | .firmwarePageMap => true
  | .crewRetire => true
  | .launchComplete => true
  | .unitDispatch => true
  | .placementWaitExpiry => true
  | .preempt => true
  | .saveDrainExpiry => true
  | .cohortRestore => true
  | .issueAgeExpiry => true
  | .breakpointStop => true
  | .launch => true
  | .timeline => true
  | .post => true
  | .postStoreDelayed => true
  | .waitflag => true
  | .waitflagPoll => true
  | .signal => true
  | .copy => true
  | .partitionSet => true
  | .partitionResize => true
  | .partitionFerry => true
  | .partitionQueue => true
  | .partitionClear => true
  | .partitionInval => true
  | .partitionAttest => true
  | .checkpoint => true
  | .checkpointRestore => true
  | .spanStart => true
  | .roundEnd => true
  | .wcLineAgeDrain => true
  | .writePacket => true
  | .flagPacket => true
  | .closePacket => true
  | .loadPacket => true
  | .atomicPacket => true
  | .evpostPacket => true
  | .evcanPacket => true
  | .loadrep => true
  | .atomrep => true
  | .evrep => true
  | .openrep => true
  | .canrep => true
  | .queryrep => true
  | .openPacket => true
  | .lossPacket => true
  | .resync => true
  | .query => true
  | .route => true
  | .flagTimeout => true
  | .firmwareFlagRecovery => true
  | .remoteReplyTimeout => true
  | .combiningWindowClose => true
  | .flitReceive => true
  | .nakReceive => true
  | .creditRefresh => true
  | .linkLaneRepair => true
  | .linkRetrainTimeout => true
  | .flitResendLimit => true
  | .collDefinePacket => true
  | .collChunk => true
  | .collCredit => true
  | .collReport => true
  | .collRelease => true
  | .collAbort => true
  | .collChunkSend => true
  | .collTimeout => true
  | .collDefTimeout => true
  | .firmwareCollReset => true
  | .collBreakTimeout => true
  | .ferryOverflowGrow => true
  | .chancycleDetect => true
  | .bufferReq => true
  | .traceReq => true
  | .seriesReq => true
  | .regionReq => true
  | .breakReq => true
  | .armbrkReq => true
  | .stopReq => true
  | .stepReq => true
  | .resumeReq => true
  | .dumpReq => true
  | .patchReq => true
  | .killReq => true
  | .wakeReq => true
  | .counterTick => true
  | .tracePointerPublish => true
  | .pageWalk => true
  | .mainPowerGood => true
  | .coldReset => true
  | .stagedImageFlag => true
  | .trainingComplete => true
  | .fullServiceChangeover => true
  | .powerCapThrottle => true
  | .thermalThrottle => true
  | .thermalTrip => true
  | .standbyPowerLoss => true
  | .sidebandPowerCap => true
  | .unassignedOpcode => true
  | .fetchFault => true
  | .copyByteCountdown => true
  | .countedAccessComplete => true
  | .queueEntryBadentry => true
  | .ctxswCrewReturn => true
  | .queueCopyComplete => true
  | .checkpointTransferEnd => true
  | .standbyPowerGood => true
  | .mainPowerLoss => true

/-- The instruction has a word of its own (it is no engine step or event of the table). -/
def Instr.hasWord : Instr → Bool
  | .iadd _ => true
  | .isub _ => true
  | .imul _ => true
  | .imulh _ => true
  | .umulh _ => true
  | .imad _ => true
  | .imin _ => true
  | .imax _ => true
  | .umin _ => true
  | .umax _ => true
  | .iabs _ => true
  | .idiv _ => true
  | .udiv _ => true
  | .irem _ => true
  | .urem _ => true
  | .iadds _ => true
  | .and _ => true
  | .or _ => true
  | .xor _ => true
  | .andn _ => true
  | .shl _ => true
  | .shr _ => true
  | .sar _ => true
  | .rotl _ => true
  | .popc _ => true
  | .clz _ => true
  | .brev _ => true
  | .bfx _ => true
  | .bfi _ => true
  | .sel _ => true
  | .mov _ => true
  | .movs _ => true
  | .iseteq _ => true
  | .isetne _ => true
  | .isetlt _ => true
  | .isetle _ => true
  | .usetlt _ => true
  | .usetle _ => true
  | .mskeq _ => true
  | .mskne _ => true
  | .msklt _ => true
  | .mskle _ => true
  | .umsklt _ => true
  | .ballot _ => true
  | .iadd64 _ => true
  | .isub64 _ => true
  | .imul64 _ => true
  | .lea _ => true
  | .shfl _ => true
  | .shflx _ => true
  | .bcast _ => true
  | .redadd _ => true
  | .redmin _ => true
  | .redmax _ => true
  | .argmin _ => true
  | .argmax _ => true
  | .scanadd _ => true
  | .confl _ => true
  | .ksumf _ => true
  | .ksum _ => true
  | .ldi _ => true
  | .ldih _ => true
  | .rdsr _ => true
  | .wrsr _ => true
  | .fadd _ => true
  | .fsub _ => true
  | .fmul _ => true
  | .fma _ => true
  | .fmin _ => true
  | .fmax _ => true
  | .fabs _ => true
  | .fneg _ => true
  | .fdiv _ => true
  | .fsqrt _ => true
  | .frcp _ => true
  | .frsq _ => true
  | .fexp2 _ => true
  | .flog2 _ => true
  | .fsin _ => true
  | .fcos _ => true
  | .fseteq _ => true
  | .fsetlt _ => true
  | .fsetle _ => true
  | .fsetun _ => true
  | .fmskeq _ => true
  | .fmsklt _ => true
  | .fmskle _ => true
  | .fmskun _ => true
  | .fclass _ => true
  | .frint _ => true
  | .ffloor _ => true
  | .fceil _ => true
  | .ftrunc _ => true
  | .ferradd _ => true
  | .ferrmul _ => true
  | .fredx _ => true
  | .dadd _ => true
  | .dsub _ => true
  | .dmul _ => true
  | .dfma _ => true
  | .dmin _ => true
  | .dmax _ => true
  | .ddiv _ => true
  | .dsqrt _ => true
  | .dsetlt _ => true
  | .dseteq _ => true
  | .dsetle _ => true
  | .dabs _ => true
  | .cvt _ => true
  | .icvtf _ => true
  | .ucvtf _ => true
  | .fcvti _ => true
  | .fcvtn _ => true
  | .dcvtf _ => true
  | .fcvtd _ => true
  | .packh _ => true
  | .packb _ => true
  | .unpkh _ => true
  | .unpkb _ => true
  | .bfpenc _ => true
  | .bfpdec _ => true
  | .hfma2 _ => true
  | .bfma2 _ => true
  | .hadd2 _ => true
  | .hmul2 _ => true
  | .kMov _ => true
  | .kIadd _ => true
  | .kIsub _ => true
  | .kAnd _ => true
  | .kOr _ => true
  | .kXor _ => true
  | .kShli _ => true
  | .kShri _ => true
  | .kIaddi _ => true
  | .kFadd _ => true
  | .kFsub _ => true
  | .kFmul _ => true
  | .kFmax _ => true
  | .kFmin _ => true
  | .kLdw _ => true
  | .ldbs _ => true
  | .ldbz _ => true
  | .ldhs _ => true
  | .ldhz _ => true
  | .ldw _ => true
  | .ldd _ => true
  | .ldq _ => true
  | .ldf _ => true
  | .stb _ => true
  | .sth _ => true
  | .stw _ => true
  | .std _ => true
  | .stq _ => true
  | .stf _ => true
  | .ldg _ => true
  | .stg _ => true
  | .ldgf _ => true
  | .tlook _ => true
  | .tset _ => true
  | .tdrop _ => true
  | .ldc _ => true
  | .aadd _ => true
  | .aaddf _ => true
  | .aaddd _ => true
  | .amin _ => true
  | .amax _ => true
  | .aumin _ => true
  | .aumax _ => true
  | .aand _ => true
  | .aor _ => true
  | .axor _ => true
  | .axchg _ => true
  | .acas _ => true
  | .aincw _ => true
  | .aaddn _ => true
  | .aaddfn _ => true
  | .bra _ => true
  | .brz _ => true
  | .bru _ => true
  | .brs _ => true
  | .brx _ => true
  | .call _ => true
  | .ret _ => true
  | .bar _ => true
  | .bara _ => true
  | .barw _ => true
  | .barc _ => true
  | .bari _ => true
  | .sleep _ => true
  | .sleepClk _ => true
  | .sleepCount _ => true
  | .mma _ => true
  | .mmasp _ => true
  | .mzero _ => true
  | .mlda _ => true
  | .mwaitc _ => true
  | .mwaitd _ => true
  | .cpy _ => true
  | .cpyk _ => true
  | .cpyt _ => true
  | .permit _ => true
  | .permitRel _ => true
  | .cpyc _ => true
  | .cpycPull _ => true
  | .cpywt _ => true
  | .evpost _ => true
  | .evpostN _ => true
  | .evcan _ => true
  | .evkey _ => true
  | .evkeySelf _ => true
  | .rsto _ => true
  | .rload _ => true
  | .ratomAdd _ => true
  | .ratomAdd64 _ => true
  | .ratomAddf _ => true
  | .ratomAddd _ => true
  | .ratomMin _ => true
  | .ratomMax _ => true
  | .ratomUmin _ => true
  | .ratomUmax _ => true
  | .ratomAnd _ => true
  | .ratomOr _ => true
  | .ratomXor _ => true
  | .ratomXchg _ => true
  | .ratomCas _ => true
  | .ratomIncw _ => true
  | .rflag _ => true
  | .rflagAdd _ => true
  | .rdrainS _ => true
  | .ropen _ => true
  | .coll _ => true
  | .collDef _ => true
  | .collUndef _ => true
  | .rclose _ => true
  | .qsend _ => true
  | .qrecv _ => true
  | .qtryRecv _ => true
  | .qtrySend _ => true
  | .tmark _ => true
  | .pmark _ => true
  | .watchset _ => true
  | .trap _ => true
  | .xir _ => true
  | .svc _ => true
  | .exmWrite => false
  | .clockReadLatch => false
  | .kNop => true
  | .pfetch => true
  | .fence => true
  | .tinv => true
  | .tokw => true
  | .tokp => true
  | .ldcBankLoaded => false
  | .exit => true
  | .yield => true
  | .yieldExpiry => false
  | .sleepWake => false
  | .matrixGroupExecute => false
  | .matrixTileUpdate => false
  | .cpyComplete => false
  | .cpykDescriptorEnd => false
  | .cpytLand => false
  | .cpycAccept => false
  | .cpycTransferEnd => false
  | .evend => true
  | .rdrain => true
  | .drainComplete => false
  | .brk => true
  | .nop => true
  | .rett => true
  | .rettSkip => true
  | .ill => true
  | .ctxsw => true
  | .ctxswHalt => true
  | .registerResultReturn => false
  | .faultDelivery => false
  | .trapEntry => false
  | .faultRecordAnswer => false
  | .firmwareRecordFree => false
  | .firmwarePageMap => false
  | .crewRetire => false
  | .launchComplete => false
  | .unitDispatch => false
  | .placementWaitExpiry => false
  | .preempt => false
  | .saveDrainExpiry => false
  | .cohortRestore => false
  | .issueAgeExpiry => false
  | .breakpointStop => false
  | .launch => false
  | .timeline => false
  | .post => false
  | .postStoreDelayed => false
  | .waitflag => false
  | .waitflagPoll => false
  | .signal => false
  | .copy => false
  | .partitionSet => false
  | .partitionResize => false
  | .partitionFerry => false
  | .partitionQueue => false
  | .partitionClear => false
  | .partitionInval => false
  | .partitionAttest => false
  | .checkpoint => false
  | .checkpointRestore => false
  | .spanStart => false
  | .roundEnd => false
  | .wcLineAgeDrain => false
  | .writePacket => false
  | .flagPacket => false
  | .closePacket => false
  | .loadPacket => false
  | .atomicPacket => false
  | .evpostPacket => false
  | .evcanPacket => false
  | .loadrep => false
  | .atomrep => false
  | .evrep => false
  | .openrep => false
  | .canrep => false
  | .queryrep => false
  | .openPacket => false
  | .lossPacket => false
  | .resync => false
  | .query => false
  | .route => false
  | .flagTimeout => false
  | .firmwareFlagRecovery => false
  | .remoteReplyTimeout => false
  | .combiningWindowClose => false
  | .flitReceive => false
  | .nakReceive => false
  | .creditRefresh => false
  | .linkLaneRepair => false
  | .linkRetrainTimeout => false
  | .flitResendLimit => false
  | .collDefinePacket => false
  | .collChunk => false
  | .collCredit => false
  | .collReport => false
  | .collRelease => false
  | .collAbort => false
  | .collChunkSend => false
  | .collTimeout => false
  | .collDefTimeout => false
  | .firmwareCollReset => false
  | .collBreakTimeout => false
  | .ferryOverflowGrow => false
  | .chancycleDetect => false
  | .bufferReq => false
  | .traceReq => false
  | .seriesReq => false
  | .regionReq => false
  | .breakReq => false
  | .armbrkReq => false
  | .stopReq => false
  | .stepReq => false
  | .resumeReq => false
  | .dumpReq => false
  | .patchReq => false
  | .killReq => false
  | .wakeReq => false
  | .counterTick => false
  | .tracePointerPublish => false
  | .pageWalk => false
  | .mainPowerGood => false
  | .coldReset => false
  | .stagedImageFlag => false
  | .trainingComplete => false
  | .fullServiceChangeover => false
  | .powerCapThrottle => false
  | .thermalThrottle => false
  | .thermalTrip => false
  | .standbyPowerLoss => false
  | .sidebandPowerCap => false
  | .unassignedOpcode => false
  | .fetchFault => false
  | .copyByteCountdown => false
  | .countedAccessComplete => false
  | .queueEntryBadentry => false
  | .ctxswCrewReturn => false
  | .queueCopyComplete => false
  | .checkpointTransferEnd => false
  | .standbyPowerGood => false
  | .mainPowerLoss => false

/-- Bits [31:10] that stand in the issue register: free for ILL, OS alone for FENCE (R212), B and A for PFETCH (R212),
the code for BRK (R413), zero for every other instruction. -/
def auxOk : Instr → BitVec 22 → Bool
  | .ill, _ => true
  | .fence, x => x &&& 0x7FFFF == 0x0
  | .pfetch, x => x &&& 0x3E003F == 0x0
  | .brk, x => x &&& 0x3F == 0x0
  | _, x => x == 0

/-- Sentinels of the source fields in bits [31:10] of a T word (R114). -/
def auxSentinels (x : BitVec 22) : Nat :=
  (if isSentinel (x.extractLsb' 6 2) (x.extractLsb' 8 6) then 1 else 0) + (if isSentinel (x.extractLsb' 14 2) (x.extractLsb' 16 6) then 1 else 0)

/-- ILL holds an extension word when it has a sentinel and has no two; no other instruction holds one here. -/
def Fetched.extOk (r : Fetched) : Bool :=
  match r.instr with
  | .ill => auxSentinels r.aux == 1 || (auxSentinels r.aux == 0 && r.ext == 0)
  | _ => r.ext == 0

/-- A decoded instruction that a word stands for. -/
def Fetched.wf (r : Fetched) : Bool := r.instr.hasWord && r.instr.wf && auxOk r.instr r.aux && r.extOk

end Sys2Proof
end

