-- ==== Sys2Proof/Decode.lean ====
section
/-! DEFINITION. The decoder, total on any bytes (R107, R131 to R134), and after it the encoder, both from R110 to R120 and the opcode
map R132. -/

namespace Sys2Proof

/-- The fields of a K word. -/
def KF.ofWord (w : BitVec 16) : KF :=
  { s := w.extractLsb' 11 5, d := w.extractLsb' 6 5 }

/-- The word of a K instruction. -/
def KF.word (f : KF) (op : BitVec 4) (m : BitVec 1) : BitVec 16 :=
  f.s ++ f.d ++ op ++ m ++ 0#1

/-- The fields of a T word. -/
def TF.ofWord (w : BitVec 32) (e : Option (BitVec 32)) : TF :=
  { s2 := w.extractLsb' 26 6, k2 := w.extractLsb' 24 2, s1 := w.extractLsb' 18 6, k1 := w.extractLsb' 16 2, d := w.extractLsb' 10 6, e := e }

/-- The word of a T instruction. -/
def TF.word (f : TF) (op : BitVec 8) (m : BitVec 1) : BitVec 32 :=
  f.s2 ++ f.k2 ++ f.s1 ++ f.k1 ++ f.d ++ op ++ m ++ 1#1

/-- The fields of a I word. -/
def IF.ofWord (w : BitVec 32) : IF :=
  { imm := w.extractLsb' 16 16, d := w.extractLsb' 10 6 }

/-- The word of a I instruction. -/
def IF.word (f : IF) (op : BitVec 8) (m : BitVec 1) : BitVec 32 :=
  f.imm ++ f.d ++ op ++ m ++ 1#1

/-- The fields of a M word. -/
def MF.ofWord (w : BitVec 32) : MF :=
  { os := w.extractLsb' 29 3, sp := w.extractLsb' 27 2, b := w.extractLsb' 22 5, a := w.extractLsb' 16 6, d := w.extractLsb' 10 6 }

/-- The word of a M instruction. -/
def MF.word (f : MF) (op : BitVec 8) (m : BitVec 1) : BitVec 32 :=
  f.os ++ f.sp ++ f.b ++ f.a ++ f.d ++ op ++ m ++ 1#1

/-- The fields of a B word. -/
def BF.ofWord (w : BitVec 32) : BF :=
  { off := w.extractLsb' 16 16, c := w.extractLsb' 10 6 }

/-- The word of a B instruction. -/
def BF.word (f : BF) (op : BitVec 8) (m : BitVec 1) : BitVec 32 :=
  f.off ++ f.c ++ op ++ m ++ 1#1

/-- The fields of a X word. -/
def XF.ofWord (w : BitVec 32) : XF :=
  { fm := w.extractLsb' 27 5, b := w.extractLsb' 21 6, bs := w.extractLsb' 20 1, a := w.extractLsb' 14 6, ash := w.extractLsb' 13 1, acc := w.extractLsb' 10 3 }

/-- The word of a X instruction. -/
def XF.word (f : XF) (op : BitVec 8) (m : BitVec 1) : BitVec 32 :=
  f.fm ++ f.b ++ f.bs ++ f.a ++ f.ash ++ f.acc ++ op ++ m ++ 1#1

/-- The fields of a Q word. -/
def QF.ofWord (w : BitVec 32) : QF :=
  { sub := w.extractLsb' 28 4, p2 := w.extractLsb' 22 6, p1 := w.extractLsb' 16 6, d := w.extractLsb' 10 6 }

/-- The word of a Q instruction. -/
def QF.word (f : QF) (op : BitVec 8) (m : BitVec 1) : BitVec 32 :=
  f.sub ++ f.p2 ++ f.p1 ++ f.d ++ op ++ m ++ 1#1

/-- The fields of a S word. -/
def SF.ofWord (w : BitVec 32) : SF :=
  { code := w.extractLsb' 16 16, d := w.extractLsb' 10 6 }

/-- The word of a S instruction. -/
def SF.word (f : SF) (op : BitVec 8) (m : BitVec 1) : BitVec 32 :=
  f.code ++ f.d ++ op ++ m ++ 1#1

/-- A word whose bits [31:10] stand in the issue register. -/
def auxWord (x : BitVec 22) (op : BitVec 8) (m : BitVec 1) : BitVec 32 := x ++ op ++ m ++ 1#1

/-- Which source fields hold the sentinel in a T word (R112, R114): the number of extension words it asks for. -/
def sentinels (w : BitVec 32) : Nat :=
  (if isSentinel (w.extractLsb' 16 2) (w.extractLsb' 18 6) then 1 else 0) +
  (if isSentinel (w.extractLsb' 24 2) (w.extractLsb' 26 6) then 1 else 0)

/-- OP belongs to a T-format instruction (R133), XIR among them: DESIGN CHOICE (log entry 47), an extension word follows a sentinel in K1 or K2 of XIR too, though R233 says that a
well-formed XIR has none. -/
def isTOp (op : BitVec 8) : Bool :=
  (op ≤ 0x3B) || (0x40 ≤ op && op ≤ 0x7C) || op == 0xB4 || op == 0xB6 || (0xB8 ≤ op && op ≤ 0xBC) || (0xF8 ≤ op && op ≤ 0xFE)

/-- OP is assigned (R132, R134). -/
def isAssigned (op : BitVec 8) : Bool :=
  !((0x7D ≤ op && op ≤ 0x7F) || (0x9A ≤ op && op ≤ 0x9F) || op == 0xAF || op == 0xBF || (0xC6 ≤ op && op ≤ 0xCF) ||
    (0xD6 ≤ op && op ≤ 0xDF) || (0xE4 ≤ op && op ≤ 0xE7) || op == 0xF7 || op == 0xFF)

/-- Length in bytes of the instruction whose first word is `w` (R107, R134). DESIGN CHOICE (log entry 47): an XIR word with a sentinel has 8 bytes, so its E is fetched, shown in
`tva`, and passed by `rett.skip`, and the word traps ILLOP (R107, R233). -/
def wordLen (w : BitVec 32) : Nat :=
  if w.extractLsb' 0 1 == 0 then 2
  else if isTOp (w.extractLsb' 2 8) && 0 < sentinels w then 8
  else 4

/-- The K instruction with operation `op4` (R111). -/
def kInstr (op4 : BitVec 4) (f : KF) : Instr :=
  match op4.toNat with
  | 0 => .kMov f
  | 1 => .kIadd f
  | 2 => .kIsub f
  | 3 => .kAnd f
  | 4 => .kOr f
  | 5 => .kXor f
  | 6 => .kShli f
  | 7 => .kShri f
  | 8 => .kIaddi f
  | 9 => .kFadd f
  | 10 => .kFsub f
  | 11 => .kFmul f
  | 12 => .kFmax f
  | 13 => .kFmin f
  | 14 => .kLdw f
  | _ => .kNop

/-- The instruction that OP names, with the sub-operation taken from the word (R132 and the engine chapters); `none` for an
unassigned OP. Its fields are not judged here. -/
def wordInstr (w : BitVec 32) (e : Option (BitVec 32)) : Option Instr :=
  match (w.extractLsb' 2 8).toNat with
  | 0x00 => some (.iadd (TF.ofWord w e))
  | 0x01 => some (.isub (TF.ofWord w e))
  | 0x02 => some (.imul (TF.ofWord w e))
  | 0x03 => some (.imulh (TF.ofWord w e))
  | 0x04 => some (.umulh (TF.ofWord w e))
  | 0x05 => some (.imad (TF.ofWord w e))
  | 0x06 => some (.imin (TF.ofWord w e))
  | 0x07 => some (.imax (TF.ofWord w e))
  | 0x08 => some (.umin (TF.ofWord w e))
  | 0x09 => some (.umax (TF.ofWord w e))
  | 0x0A => some (.iabs (TF.ofWord w e))
  | 0x0B => some (.idiv (TF.ofWord w e))
  | 0x0C => some (.udiv (TF.ofWord w e))
  | 0x0D => some (.irem (TF.ofWord w e))
  | 0x0E => some (.urem (TF.ofWord w e))
  | 0x0F => some (.iadds (TF.ofWord w e))
  | 0x10 => some (.and (TF.ofWord w e))
  | 0x11 => some (.or (TF.ofWord w e))
  | 0x12 => some (.xor (TF.ofWord w e))
  | 0x13 => some (.andn (TF.ofWord w e))
  | 0x14 => some (.shl (TF.ofWord w e))
  | 0x15 => some (.shr (TF.ofWord w e))
  | 0x16 => some (.sar (TF.ofWord w e))
  | 0x17 => some (.rotl (TF.ofWord w e))
  | 0x18 => some (.popc (TF.ofWord w e))
  | 0x19 => some (.clz (TF.ofWord w e))
  | 0x1A => some (.brev (TF.ofWord w e))
  | 0x1B => some (.bfx (TF.ofWord w e))
  | 0x1C => some (.bfi (TF.ofWord w e))
  | 0x1D => some (.sel (TF.ofWord w e))
  | 0x1E => some (.mov (TF.ofWord w e))
  | 0x1F => some (.movs (TF.ofWord w e))
  | 0x20 => some (.iseteq (TF.ofWord w e))
  | 0x21 => some (.isetne (TF.ofWord w e))
  | 0x22 => some (.isetlt (TF.ofWord w e))
  | 0x23 => some (.isetle (TF.ofWord w e))
  | 0x24 => some (.usetlt (TF.ofWord w e))
  | 0x25 => some (.usetle (TF.ofWord w e))
  | 0x26 => some (.mskeq (TF.ofWord w e))
  | 0x27 => some (.mskne (TF.ofWord w e))
  | 0x28 => some (.msklt (TF.ofWord w e))
  | 0x29 => some (.mskle (TF.ofWord w e))
  | 0x2A => some (.umsklt (TF.ofWord w e))
  | 0x2B => some (.ballot (TF.ofWord w e))
  | 0x2C => some (.iadd64 (TF.ofWord w e))
  | 0x2D => some (.isub64 (TF.ofWord w e))
  | 0x2E => some (.imul64 (TF.ofWord w e))
  | 0x2F => some (.lea (TF.ofWord w e))
  | 0x30 => some (.shfl (TF.ofWord w e))
  | 0x31 => some (.shflx (TF.ofWord w e))
  | 0x32 => some (.bcast (TF.ofWord w e))
  | 0x33 => some (.redadd (TF.ofWord w e))
  | 0x34 => some (.redmin (TF.ofWord w e))
  | 0x35 => some (.redmax (TF.ofWord w e))
  | 0x36 => some (.argmin (TF.ofWord w e))
  | 0x37 => some (.argmax (TF.ofWord w e))
  | 0x38 => some (.scanadd (TF.ofWord w e))
  | 0x39 => some (.confl (TF.ofWord w e))
  | 0x3A => some (.ksumf (TF.ofWord w e))
  | 0x3B => some (.ksum (TF.ofWord w e))
  | 0x3C => some (.ldi (IF.ofWord w))
  | 0x3D => some (.ldih (IF.ofWord w))
  | 0x3E => some (.rdsr (IF.ofWord w))
  | 0x3F => some (.wrsr (IF.ofWord w))
  | 0x40 => some (.fadd (TF.ofWord w e))
  | 0x41 => some (.fsub (TF.ofWord w e))
  | 0x42 => some (.fmul (TF.ofWord w e))
  | 0x43 => some (.fma (TF.ofWord w e))
  | 0x44 => some (.fmin (TF.ofWord w e))
  | 0x45 => some (.fmax (TF.ofWord w e))
  | 0x46 => some (.fabs (TF.ofWord w e))
  | 0x47 => some (.fneg (TF.ofWord w e))
  | 0x48 => some (.fdiv (TF.ofWord w e))
  | 0x49 => some (.fsqrt (TF.ofWord w e))
  | 0x4A => some (.frcp (TF.ofWord w e))
  | 0x4B => some (.frsq (TF.ofWord w e))
  | 0x4C => some (.fexp2 (TF.ofWord w e))
  | 0x4D => some (.flog2 (TF.ofWord w e))
  | 0x4E => some (.fsin (TF.ofWord w e))
  | 0x4F => some (.fcos (TF.ofWord w e))
  | 0x50 => some (.fseteq (TF.ofWord w e))
  | 0x51 => some (.fsetlt (TF.ofWord w e))
  | 0x52 => some (.fsetle (TF.ofWord w e))
  | 0x53 => some (.fsetun (TF.ofWord w e))
  | 0x54 => some (.fmskeq (TF.ofWord w e))
  | 0x55 => some (.fmsklt (TF.ofWord w e))
  | 0x56 => some (.fmskle (TF.ofWord w e))
  | 0x57 => some (.fmskun (TF.ofWord w e))
  | 0x58 => some (.fclass (TF.ofWord w e))
  | 0x59 => some (.frint (TF.ofWord w e))
  | 0x5A => some (.ffloor (TF.ofWord w e))
  | 0x5B => some (.fceil (TF.ofWord w e))
  | 0x5C => some (.ftrunc (TF.ofWord w e))
  | 0x5D => some (.ferradd (TF.ofWord w e))
  | 0x5E => some (.ferrmul (TF.ofWord w e))
  | 0x5F => some (.fredx (TF.ofWord w e))
  | 0x60 => some (.dadd (TF.ofWord w e))
  | 0x61 => some (.dsub (TF.ofWord w e))
  | 0x62 => some (.dmul (TF.ofWord w e))
  | 0x63 => some (.dfma (TF.ofWord w e))
  | 0x64 => some (.dmin (TF.ofWord w e))
  | 0x65 => some (.dmax (TF.ofWord w e))
  | 0x66 => some (.ddiv (TF.ofWord w e))
  | 0x67 => some (.dsqrt (TF.ofWord w e))
  | 0x68 => some (.dsetlt (TF.ofWord w e))
  | 0x69 => some (.dseteq (TF.ofWord w e))
  | 0x6A => some (.dsetle (TF.ofWord w e))
  | 0x6B => some (.dabs (TF.ofWord w e))
  | 0x6C => some (.cvt (TF.ofWord w e))
  | 0x6D => some (.icvtf (TF.ofWord w e))
  | 0x6E => some (.ucvtf (TF.ofWord w e))
  | 0x6F => some (.fcvti (TF.ofWord w e))
  | 0x70 => some (.fcvtn (TF.ofWord w e))
  | 0x71 => some (.dcvtf (TF.ofWord w e))
  | 0x72 => some (.fcvtd (TF.ofWord w e))
  | 0x73 => some (.packh (TF.ofWord w e))
  | 0x74 => some (.packb (TF.ofWord w e))
  | 0x75 => some (.unpkh (TF.ofWord w e))
  | 0x76 => some (.unpkb (TF.ofWord w e))
  | 0x77 => some (.bfpenc (TF.ofWord w e))
  | 0x78 => some (.bfpdec (TF.ofWord w e))
  | 0x79 => some (.hfma2 (TF.ofWord w e))
  | 0x7A => some (.bfma2 (TF.ofWord w e))
  | 0x7B => some (.hadd2 (TF.ofWord w e))
  | 0x7C => some (.hmul2 (TF.ofWord w e))
  | 0x80 => some (.ldbs (MF.ofWord w))
  | 0x81 => some (.ldbz (MF.ofWord w))
  | 0x82 => some (.ldhs (MF.ofWord w))
  | 0x83 => some (.ldhz (MF.ofWord w))
  | 0x84 => some (.ldw (MF.ofWord w))
  | 0x85 => some (.ldd (MF.ofWord w))
  | 0x86 => some (.ldq (MF.ofWord w))
  | 0x87 => some (.ldf (MF.ofWord w))
  | 0x88 => some (.stb (MF.ofWord w))
  | 0x89 => some (.sth (MF.ofWord w))
  | 0x8A => some (.stw (MF.ofWord w))
  | 0x8B => some (.std (MF.ofWord w))
  | 0x8C => some (.stq (MF.ofWord w))
  | 0x8D => some (.stf (MF.ofWord w))
  | 0x8E => some (.ldg (MF.ofWord w))
  | 0x8F => some (.stg (MF.ofWord w))
  | 0x90 => some (.ldgf (MF.ofWord w))
  | 0x91 => some (.pfetch)
  | 0x92 => some (.fence)
  | 0x93 => some (.tlook (MF.ofWord w))
  | 0x94 => some (.tset (MF.ofWord w))
  | 0x95 => some (.tdrop (MF.ofWord w))
  | 0x96 => some (.tinv)
  | 0x97 => some (.tokw)
  | 0x98 => some (.tokp)
  | 0x99 => some (.ldc (MF.ofWord w))
  | 0xA0 => some (.aadd (MF.ofWord w))
  | 0xA1 => some (.aaddf (MF.ofWord w))
  | 0xA2 => some (.aaddd (MF.ofWord w))
  | 0xA3 => some (.amin (MF.ofWord w))
  | 0xA4 => some (.amax (MF.ofWord w))
  | 0xA5 => some (.aumin (MF.ofWord w))
  | 0xA6 => some (.aumax (MF.ofWord w))
  | 0xA7 => some (.aand (MF.ofWord w))
  | 0xA8 => some (.aor (MF.ofWord w))
  | 0xA9 => some (.axor (MF.ofWord w))
  | 0xAA => some (.axchg (MF.ofWord w))
  | 0xAB => some (.acas (MF.ofWord w))
  | 0xAC => some (.aincw (MF.ofWord w))
  | 0xAD => some (.aaddn (MF.ofWord w))
  | 0xAE => some (.aaddfn (MF.ofWord w))
  | 0xB0 => some (.bra (BF.ofWord w))
  | 0xB1 => some (.brz (BF.ofWord w))
  | 0xB2 => some (.bru (BF.ofWord w))
  | 0xB3 => some (.brs (BF.ofWord w))
  | 0xB4 => some (.brx (TF.ofWord w e))
  | 0xB5 => some (.call (BF.ofWord w))
  | 0xB6 => some (.ret (TF.ofWord w e))
  | 0xB7 => some (.exit)
  | 0xB8 => some (.bar (TF.ofWord w e))
  | 0xB9 => some (.bara (TF.ofWord w e))
  | 0xBA => some (.barw (TF.ofWord w e))
  | 0xBB => some (.barc (TF.ofWord w e))
  | 0xBC => some (.bari (TF.ofWord w e))
  | 0xBD => some (.yield)
  | 0xBE => if w.extractLsb' 28 4 == 0 then some (.sleep (SF.ofWord w)) else if w.extractLsb' 28 4 == 1 then some (.sleepClk (SF.ofWord w)) else some (.sleepCount (SF.ofWord w))
  | 0xC0 => some (.mma (XF.ofWord w))
  | 0xC1 => some (.mmasp (XF.ofWord w))
  | 0xC2 => some (.mzero (XF.ofWord w))
  | 0xC3 => some (.mlda (XF.ofWord w))
  | 0xC4 => some (.mwaitc (XF.ofWord w))
  | 0xC5 => some (.mwaitd (XF.ofWord w))
  | 0xD0 => some (.cpy (QF.ofWord w))
  | 0xD1 => some (.cpyk (QF.ofWord w))
  | 0xD2 => some (.cpyt (QF.ofWord w))
  | 0xD3 => if w.extractLsb' 28 4 == 0 then some (.permit (QF.ofWord w)) else some (.permitRel (QF.ofWord w))
  | 0xD4 => if w.extractLsb' 28 4 == 0 then some (.cpyc (QF.ofWord w)) else some (.cpycPull (QF.ofWord w))
  | 0xD5 => some (.cpywt (QF.ofWord w))
  | 0xE0 => if w.extractLsb' 28 4 == 0 then some (.evpost (QF.ofWord w)) else some (.evpostN (QF.ofWord w))
  | 0xE1 => some (.evcan (QF.ofWord w))
  | 0xE2 => some (.evend)
  | 0xE3 => if w.extractLsb' 28 4 == 0 then some (.evkey (QF.ofWord w)) else some (.evkeySelf (QF.ofWord w))
  | 0xE8 => some (.rsto (QF.ofWord w))
  | 0xE9 => some (.rload (QF.ofWord w))
  | 0xEA => if w.extractLsb' 28 4 == 0 then some (.ratomAdd (QF.ofWord w)) else if w.extractLsb' 28 4 == 1 then some (.ratomAdd64 (QF.ofWord w)) else if w.extractLsb' 28 4 == 2 then some (.ratomAddf (QF.ofWord w)) else if w.extractLsb' 28 4 == 3 then some (.ratomAddd (QF.ofWord w)) else if w.extractLsb' 28 4 == 4 then some (.ratomMin (QF.ofWord w)) else if w.extractLsb' 28 4 == 5 then some (.ratomMax (QF.ofWord w)) else if w.extractLsb' 28 4 == 6 then some (.ratomUmin (QF.ofWord w)) else if w.extractLsb' 28 4 == 7 then some (.ratomUmax (QF.ofWord w)) else if w.extractLsb' 28 4 == 8 then some (.ratomAnd (QF.ofWord w)) else if w.extractLsb' 28 4 == 9 then some (.ratomOr (QF.ofWord w)) else if w.extractLsb' 28 4 == 10 then some (.ratomXor (QF.ofWord w)) else if w.extractLsb' 28 4 == 11 then some (.ratomXchg (QF.ofWord w)) else if w.extractLsb' 28 4 == 12 then some (.ratomCas (QF.ofWord w)) else some (.ratomIncw (QF.ofWord w))
  | 0xEB => if w.extractLsb' 29 1 == 0 then some (.rflag (QF.ofWord w)) else some (.rflagAdd (QF.ofWord w))
  | 0xEC => if w.extractLsb' 28 4 == 0 then some (.rdrain) else some (.rdrainS (QF.ofWord w))
  | 0xED => some (.ropen (QF.ofWord w))
  | 0xEE => if w.extractLsb' 28 4 == 0 then some (.coll (QF.ofWord w)) else if w.extractLsb' 28 4 == 1 then some (.collDef (QF.ofWord w)) else some (.collUndef (QF.ofWord w))
  | 0xEF => some (.rclose (QF.ofWord w))
  | 0xF0 => some (.qsend (QF.ofWord w))
  | 0xF1 => some (.qrecv (QF.ofWord w))
  | 0xF2 => if w.extractLsb' 28 4 == 0 then some (.qtryRecv (QF.ofWord w)) else some (.qtrySend (QF.ofWord w))
  | 0xF3 => some (.tmark (SF.ofWord w))
  | 0xF4 => some (.brk)
  | 0xF5 => some (.pmark (SF.ofWord w))
  | 0xF6 => some (.watchset (SF.ofWord w))
  | 0xF8 => some (.nop)
  | 0xF9 => some (.trap (TF.ofWord w e))
  | 0xFA => if w.extractLsb' 26 6 == 0 then some (.rett) else some (.rettSkip)
  | 0xFB => some (.ill)
  | 0xFC => some (.xir (TF.ofWord w e))
  | 0xFD => some (.svc (TF.ofWord w e))
  | 0xFE => if w.extractLsb' 26 6 == 0 then some (.ctxsw) else some (.ctxswHalt)
  | _ => none

/-- Decode a first word and the extension word that follows it. -/
def decodeWord (w e : BitVec 32) : Except Illegal Fetched :=
  if w.extractLsb' 0 1 == 0 then
    let h := w.extractLsb' 0 16
    let f := KF.ofWord h
    let i := kInstr (h.extractLsb' 2 4) f
    if i.wf && (i != .kNop || (f.s == 0 && f.d == 0)) then .ok { instr := i, m := h.extractLsb' 1 1, aux := 0 }
    else .error .reservedField
  else if !isAssigned (w.extractLsb' 2 8) then .error .unassignedOpcode
  else if isTOp (w.extractLsb' 2 8) && sentinels w == 2 then .error .twoSentinels
  else
    match wordInstr w (if 0 < sentinels w then some e else none) with
    | none => .error .unassignedOpcode
    | some i =>
      let x := w.extractLsb' 10 22
      match i with
      | .ill => .ok { instr := i, m := w.extractLsb' 1 1, aux := x, ext := if 0 < sentinels w then e else 0 }
      | .fence => if auxOk i x then .ok { instr := i, m := w.extractLsb' 1 1, aux := x } else .error .reservedField
      | .pfetch => if auxOk i x then .ok { instr := i, m := w.extractLsb' 1 1, aux := x } else .error .reservedField
      | .brk => if auxOk i x then .ok { instr := i, m := w.extractLsb' 1 1, aux := x } else .error .reservedField
      | i => if i.wf && nullOk i x then .ok { instr := i, m := w.extractLsb' 1 1, aux := 0 } else .error .reservedField
where
  /-- An instruction without fields has one word; the others are judged by their fields. -/
  nullOk (i : Instr) (x : BitVec 22) : Bool :=
    match i with
    | .tinv => x == 0x3F000
    | .tokw => x == 0x0
    | .tokp => x == 0x0
    | .exit => x == 0x0
    | .yield => x == 0x0
    | .evend => x == 0x0
    | .rdrain => x == 0x0
    | .nop => x == 0x0
    | .rett => x == 0xC000
    | .rettSkip => x == 0x1C000
    | .ctxsw => x == 0xC000
    | .ctxswHalt => x == 0x1C000
    | _ => true

/-- Little-endian word of the first four bytes of a list, absent bytes read as zero (R1). -/
def leWord : List (BitVec 8) → BitVec 32
  | a :: b :: c :: d :: _ => d ++ c ++ b ++ a
  | [a, b, c] => 0#8 ++ c ++ b ++ a
  | [a, b] => 0#16 ++ b ++ a
  | [a] => 0#24 ++ a
  | [] => 0

/-- Decode the instruction at the head of a list of bytes; answers it and the bytes after it. -/
def decode (bs : List (BitVec 8)) : Except Illegal (Fetched × List (BitVec 8)) :=
  let w := leWord bs
  let n := if bs.length < 2 then 2 else wordLen w
  if bs.length < n then .error .shortInput
  else (decodeWord w (leWord (bs.drop 4))).map (fun r => (r, bs.drop n))

/-- The words of an instruction: its first word (a K word in bits [15:0]) and its extension word (R107 to R121). -/
def encodeWord (r : Fetched) : BitVec 32 × Option (BitVec 32) :=
  let m := r.m
  match r.instr with
  | .iadd f => (f.word 0x00 m, f.e)
  | .isub f => (f.word 0x01 m, f.e)
  | .imul f => (f.word 0x02 m, f.e)
  | .imulh f => (f.word 0x03 m, f.e)
  | .umulh f => (f.word 0x04 m, f.e)
  | .imad f => (f.word 0x05 m, f.e)
  | .imin f => (f.word 0x06 m, f.e)
  | .imax f => (f.word 0x07 m, f.e)
  | .umin f => (f.word 0x08 m, f.e)
  | .umax f => (f.word 0x09 m, f.e)
  | .iabs f => (f.word 0x0A m, f.e)
  | .idiv f => (f.word 0x0B m, f.e)
  | .udiv f => (f.word 0x0C m, f.e)
  | .irem f => (f.word 0x0D m, f.e)
  | .urem f => (f.word 0x0E m, f.e)
  | .iadds f => (f.word 0x0F m, f.e)
  | .and f => (f.word 0x10 m, f.e)
  | .or f => (f.word 0x11 m, f.e)
  | .xor f => (f.word 0x12 m, f.e)
  | .andn f => (f.word 0x13 m, f.e)
  | .shl f => (f.word 0x14 m, f.e)
  | .shr f => (f.word 0x15 m, f.e)
  | .sar f => (f.word 0x16 m, f.e)
  | .rotl f => (f.word 0x17 m, f.e)
  | .popc f => (f.word 0x18 m, f.e)
  | .clz f => (f.word 0x19 m, f.e)
  | .brev f => (f.word 0x1A m, f.e)
  | .bfx f => (f.word 0x1B m, f.e)
  | .bfi f => (f.word 0x1C m, f.e)
  | .sel f => (f.word 0x1D m, f.e)
  | .mov f => (f.word 0x1E m, f.e)
  | .movs f => (f.word 0x1F m, f.e)
  | .iseteq f => (f.word 0x20 m, f.e)
  | .isetne f => (f.word 0x21 m, f.e)
  | .isetlt f => (f.word 0x22 m, f.e)
  | .isetle f => (f.word 0x23 m, f.e)
  | .usetlt f => (f.word 0x24 m, f.e)
  | .usetle f => (f.word 0x25 m, f.e)
  | .mskeq f => (f.word 0x26 m, f.e)
  | .mskne f => (f.word 0x27 m, f.e)
  | .msklt f => (f.word 0x28 m, f.e)
  | .mskle f => (f.word 0x29 m, f.e)
  | .umsklt f => (f.word 0x2A m, f.e)
  | .ballot f => (f.word 0x2B m, f.e)
  | .iadd64 f => (f.word 0x2C m, f.e)
  | .isub64 f => (f.word 0x2D m, f.e)
  | .imul64 f => (f.word 0x2E m, f.e)
  | .lea f => (f.word 0x2F m, f.e)
  | .shfl f => (f.word 0x30 m, f.e)
  | .shflx f => (f.word 0x31 m, f.e)
  | .bcast f => (f.word 0x32 m, f.e)
  | .redadd f => (f.word 0x33 m, f.e)
  | .redmin f => (f.word 0x34 m, f.e)
  | .redmax f => (f.word 0x35 m, f.e)
  | .argmin f => (f.word 0x36 m, f.e)
  | .argmax f => (f.word 0x37 m, f.e)
  | .scanadd f => (f.word 0x38 m, f.e)
  | .confl f => (f.word 0x39 m, f.e)
  | .ksumf f => (f.word 0x3A m, f.e)
  | .ksum f => (f.word 0x3B m, f.e)
  | .ldi f => (f.word 0x3C m, none)
  | .ldih f => (f.word 0x3D m, none)
  | .rdsr f => (f.word 0x3E m, none)
  | .wrsr f => (f.word 0x3F m, none)
  | .fadd f => (f.word 0x40 m, f.e)
  | .fsub f => (f.word 0x41 m, f.e)
  | .fmul f => (f.word 0x42 m, f.e)
  | .fma f => (f.word 0x43 m, f.e)
  | .fmin f => (f.word 0x44 m, f.e)
  | .fmax f => (f.word 0x45 m, f.e)
  | .fabs f => (f.word 0x46 m, f.e)
  | .fneg f => (f.word 0x47 m, f.e)
  | .fdiv f => (f.word 0x48 m, f.e)
  | .fsqrt f => (f.word 0x49 m, f.e)
  | .frcp f => (f.word 0x4A m, f.e)
  | .frsq f => (f.word 0x4B m, f.e)
  | .fexp2 f => (f.word 0x4C m, f.e)
  | .flog2 f => (f.word 0x4D m, f.e)
  | .fsin f => (f.word 0x4E m, f.e)
  | .fcos f => (f.word 0x4F m, f.e)
  | .fseteq f => (f.word 0x50 m, f.e)
  | .fsetlt f => (f.word 0x51 m, f.e)
  | .fsetle f => (f.word 0x52 m, f.e)
  | .fsetun f => (f.word 0x53 m, f.e)
  | .fmskeq f => (f.word 0x54 m, f.e)
  | .fmsklt f => (f.word 0x55 m, f.e)
  | .fmskle f => (f.word 0x56 m, f.e)
  | .fmskun f => (f.word 0x57 m, f.e)
  | .fclass f => (f.word 0x58 m, f.e)
  | .frint f => (f.word 0x59 m, f.e)
  | .ffloor f => (f.word 0x5A m, f.e)
  | .fceil f => (f.word 0x5B m, f.e)
  | .ftrunc f => (f.word 0x5C m, f.e)
  | .ferradd f => (f.word 0x5D m, f.e)
  | .ferrmul f => (f.word 0x5E m, f.e)
  | .fredx f => (f.word 0x5F m, f.e)
  | .dadd f => (f.word 0x60 m, f.e)
  | .dsub f => (f.word 0x61 m, f.e)
  | .dmul f => (f.word 0x62 m, f.e)
  | .dfma f => (f.word 0x63 m, f.e)
  | .dmin f => (f.word 0x64 m, f.e)
  | .dmax f => (f.word 0x65 m, f.e)
  | .ddiv f => (f.word 0x66 m, f.e)
  | .dsqrt f => (f.word 0x67 m, f.e)
  | .dsetlt f => (f.word 0x68 m, f.e)
  | .dseteq f => (f.word 0x69 m, f.e)
  | .dsetle f => (f.word 0x6A m, f.e)
  | .dabs f => (f.word 0x6B m, f.e)
  | .cvt f => (f.word 0x6C m, f.e)
  | .icvtf f => (f.word 0x6D m, f.e)
  | .ucvtf f => (f.word 0x6E m, f.e)
  | .fcvti f => (f.word 0x6F m, f.e)
  | .fcvtn f => (f.word 0x70 m, f.e)
  | .dcvtf f => (f.word 0x71 m, f.e)
  | .fcvtd f => (f.word 0x72 m, f.e)
  | .packh f => (f.word 0x73 m, f.e)
  | .packb f => (f.word 0x74 m, f.e)
  | .unpkh f => (f.word 0x75 m, f.e)
  | .unpkb f => (f.word 0x76 m, f.e)
  | .bfpenc f => (f.word 0x77 m, f.e)
  | .bfpdec f => (f.word 0x78 m, f.e)
  | .hfma2 f => (f.word 0x79 m, f.e)
  | .bfma2 f => (f.word 0x7A m, f.e)
  | .hadd2 f => (f.word 0x7B m, f.e)
  | .hmul2 f => (f.word 0x7C m, f.e)
  | .kMov f => (0#16 ++ f.word 0 m, none)
  | .kIadd f => (0#16 ++ f.word 1 m, none)
  | .kIsub f => (0#16 ++ f.word 2 m, none)
  | .kAnd f => (0#16 ++ f.word 3 m, none)
  | .kOr f => (0#16 ++ f.word 4 m, none)
  | .kXor f => (0#16 ++ f.word 5 m, none)
  | .kShli f => (0#16 ++ f.word 6 m, none)
  | .kShri f => (0#16 ++ f.word 7 m, none)
  | .kIaddi f => (0#16 ++ f.word 8 m, none)
  | .kFadd f => (0#16 ++ f.word 9 m, none)
  | .kFsub f => (0#16 ++ f.word 10 m, none)
  | .kFmul f => (0#16 ++ f.word 11 m, none)
  | .kFmax f => (0#16 ++ f.word 12 m, none)
  | .kFmin f => (0#16 ++ f.word 13 m, none)
  | .kLdw f => (0#16 ++ f.word 14 m, none)
  | .kNop => (0#16 ++ (0#10 ++ 15#4 ++ m ++ 0#1), none)
  | .ldbs f => (f.word 0x80 m, none)
  | .ldbz f => (f.word 0x81 m, none)
  | .ldhs f => (f.word 0x82 m, none)
  | .ldhz f => (f.word 0x83 m, none)
  | .ldw f => (f.word 0x84 m, none)
  | .ldd f => (f.word 0x85 m, none)
  | .ldq f => (f.word 0x86 m, none)
  | .ldf f => (f.word 0x87 m, none)
  | .stb f => (f.word 0x88 m, none)
  | .sth f => (f.word 0x89 m, none)
  | .stw f => (f.word 0x8A m, none)
  | .std f => (f.word 0x8B m, none)
  | .stq f => (f.word 0x8C m, none)
  | .stf f => (f.word 0x8D m, none)
  | .ldg f => (f.word 0x8E m, none)
  | .stg f => (f.word 0x8F m, none)
  | .ldgf f => (f.word 0x90 m, none)
  | .pfetch => (auxWord r.aux 0x91 m, none)
  | .fence => (auxWord r.aux 0x92 m, none)
  | .tlook f => (f.word 0x93 m, none)
  | .tset f => (f.word 0x94 m, none)
  | .tdrop f => (f.word 0x95 m, none)
  | .tinv => (auxWord 0x3F000 0x96 m, none)
  | .tokw => (auxWord 0x0 0x97 m, none)
  | .tokp => (auxWord 0x0 0x98 m, none)
  | .ldc f => (f.word 0x99 m, none)
  | .aadd f => (f.word 0xA0 m, none)
  | .aaddf f => (f.word 0xA1 m, none)
  | .aaddd f => (f.word 0xA2 m, none)
  | .amin f => (f.word 0xA3 m, none)
  | .amax f => (f.word 0xA4 m, none)
  | .aumin f => (f.word 0xA5 m, none)
  | .aumax f => (f.word 0xA6 m, none)
  | .aand f => (f.word 0xA7 m, none)
  | .aor f => (f.word 0xA8 m, none)
  | .axor f => (f.word 0xA9 m, none)
  | .axchg f => (f.word 0xAA m, none)
  | .acas f => (f.word 0xAB m, none)
  | .aincw f => (f.word 0xAC m, none)
  | .aaddn f => (f.word 0xAD m, none)
  | .aaddfn f => (f.word 0xAE m, none)
  | .bra f => (f.word 0xB0 m, none)
  | .brz f => (f.word 0xB1 m, none)
  | .bru f => (f.word 0xB2 m, none)
  | .brs f => (f.word 0xB3 m, none)
  | .brx f => (f.word 0xB4 m, f.e)
  | .call f => (f.word 0xB5 m, none)
  | .ret f => (f.word 0xB6 m, f.e)
  | .exit => (auxWord 0x0 0xB7 m, none)
  | .bar f => (f.word 0xB8 m, f.e)
  | .bara f => (f.word 0xB9 m, f.e)
  | .barw f => (f.word 0xBA m, f.e)
  | .barc f => (f.word 0xBB m, f.e)
  | .bari f => (f.word 0xBC m, f.e)
  | .yield => (auxWord 0x0 0xBD m, none)
  | .sleep f => (f.word 0xBE m, none)
  | .sleepClk f => (f.word 0xBE m, none)
  | .sleepCount f => (f.word 0xBE m, none)
  | .mma f => (f.word 0xC0 m, none)
  | .mmasp f => (f.word 0xC1 m, none)
  | .mzero f => (f.word 0xC2 m, none)
  | .mlda f => (f.word 0xC3 m, none)
  | .mwaitc f => (f.word 0xC4 m, none)
  | .mwaitd f => (f.word 0xC5 m, none)
  | .cpy f => (f.word 0xD0 m, none)
  | .cpyk f => (f.word 0xD1 m, none)
  | .cpyt f => (f.word 0xD2 m, none)
  | .permit f => (f.word 0xD3 m, none)
  | .permitRel f => (f.word 0xD3 m, none)
  | .cpyc f => (f.word 0xD4 m, none)
  | .cpycPull f => (f.word 0xD4 m, none)
  | .cpywt f => (f.word 0xD5 m, none)
  | .evpost f => (f.word 0xE0 m, none)
  | .evpostN f => (f.word 0xE0 m, none)
  | .evcan f => (f.word 0xE1 m, none)
  | .evend => (auxWord 0x0 0xE2 m, none)
  | .evkey f => (f.word 0xE3 m, none)
  | .evkeySelf f => (f.word 0xE3 m, none)
  | .rsto f => (f.word 0xE8 m, none)
  | .rload f => (f.word 0xE9 m, none)
  | .ratomAdd f => (f.word 0xEA m, none)
  | .ratomAdd64 f => (f.word 0xEA m, none)
  | .ratomAddf f => (f.word 0xEA m, none)
  | .ratomAddd f => (f.word 0xEA m, none)
  | .ratomMin f => (f.word 0xEA m, none)
  | .ratomMax f => (f.word 0xEA m, none)
  | .ratomUmin f => (f.word 0xEA m, none)
  | .ratomUmax f => (f.word 0xEA m, none)
  | .ratomAnd f => (f.word 0xEA m, none)
  | .ratomOr f => (f.word 0xEA m, none)
  | .ratomXor f => (f.word 0xEA m, none)
  | .ratomXchg f => (f.word 0xEA m, none)
  | .ratomCas f => (f.word 0xEA m, none)
  | .ratomIncw f => (f.word 0xEA m, none)
  | .rflag f => (f.word 0xEB m, none)
  | .rflagAdd f => (f.word 0xEB m, none)
  | .rdrain => (auxWord 0x0 0xEC m, none)
  | .rdrainS f => (f.word 0xEC m, none)
  | .ropen f => (f.word 0xED m, none)
  | .coll f => (f.word 0xEE m, none)
  | .collDef f => (f.word 0xEE m, none)
  | .collUndef f => (f.word 0xEE m, none)
  | .rclose f => (f.word 0xEF m, none)
  | .qsend f => (f.word 0xF0 m, none)
  | .qrecv f => (f.word 0xF1 m, none)
  | .qtryRecv f => (f.word 0xF2 m, none)
  | .qtrySend f => (f.word 0xF2 m, none)
  | .tmark f => (f.word 0xF3 m, none)
  | .brk => (auxWord r.aux 0xF4 m, none)
  | .pmark f => (f.word 0xF5 m, none)
  | .watchset f => (f.word 0xF6 m, none)
  | .nop => (auxWord 0x0 0xF8 m, none)
  | .trap f => (f.word 0xF9 m, f.e)
  | .rett => (auxWord 0xC000 0xFA m, none)
  | .rettSkip => (auxWord 0x1C000 0xFA m, none)
  | .ill => (auxWord r.aux 0xFB m, if 0 < auxSentinels r.aux then some r.ext else none)
  | .xir f => (f.word 0xFC m, f.e)
  | .svc f => (f.word 0xFD m, f.e)
  | .ctxsw => (auxWord 0xC000 0xFE m, none)
  | .ctxswHalt => (auxWord 0x1C000 0xFE m, none)
  | _ => (0, none)

/-- Length of an instruction in bytes (R107). -/
def Fetched.len (r : Fetched) : Nat :=
  let w := encodeWord r
  if w.1.extractLsb' 0 1 == 0 then 2 else if w.2.isSome then 8 else 4

/-- The four bytes of a word, lowest address first (R1). -/
def wordBytes (w : BitVec 32) : List (BitVec 8) :=
  [w.extractLsb' 0 8, w.extractLsb' 8 8, w.extractLsb' 16 8, w.extractLsb' 24 8]

/-- The bytes of an instruction, lowest address first (R1, R107). -/
def encode (r : Fetched) : List (BitVec 8) :=
  let w := encodeWord r
  (wordBytes w.1).take (if r.len == 2 then 2 else 4) ++ (match w.2 with | some e => wordBytes e | none => [])

/-- The bytes of an instruction whose bits, numbered as the opcode table numbers them, are `w`: the halfwords in ascending order,
each little-endian, and zeros above `nbits` up to the longest instruction of 8 bytes. -/
def tableBytes (nbits w : Nat) : List (BitVec 8) :=
  let v := w % 2 ^ nbits
  (List.range 8).map (fun k => BitVec.ofNat 8 (v / 2 ^ (8 * k)))

/-- The instruction that the decoder reads from an instruction whose bits are `w`. -/
def decodeTableWord (nbits w : Nat) : Option Instr :=
  match decode (tableBytes nbits w) with
  | .ok (r, _) => some r.instr
  | .error _ => none

end Sys2Proof
end

