-- ==== Sys2Proof/Config.lean ====
section
/-! DEFINITION. What the spec leaves open and one device fixes, and the free values: constants without a body, so that nothing can be proved of
their values (log entry 4). A free value is one of these applied to the counter `free` of the state, which the step advances. -/

namespace Sys2Proof

/-- A free choice between two allowed outcomes (R17, R127, R274, R371). -/
opaque Config.freeBool : Nat → Bool
/-- A free word (R362, and fields the spec names without giving their value). -/
opaque Config.freeWord : Nat → BitVec 32
/-- A free number, for a choice the spec bounds (R274: which prefix of the outstanding operations). -/
opaque Config.freeNat : Nat → Nat
/-- The SM2 signature with the device identity key (R446), r then s. -/
opaque Config.sm2Sign : List (BitVec 8) → BitVec 512
/-- Whether an SM2 signature verifies (R444): public key, signature, message. -/
opaque Config.sm2Verify : List (BitVec 8) → List (BitVec 8) → List (BitVec 8) → Bool
/-- The signer hash fused into SD0 (R444). -/
opaque Config.signerHash : BitVec 256
/-- The value of an elementary function (0 exp2, 1 log2, 2 sine, 3 cosine) at ± m × 2^e where 1,024 places do not decide the rounding (log entry 7). -/
opaque Config.elemLast : Nat → Bool → Nat → Int → BitVec 32
/-- One less than the flits that the buffer of a port's channel takes in, which the retrain marks announce (R335). -/
opaque Config.linkBuf : Nat → Nat → BitVec 11
/-- The device's serial number, read over the sideband (R447). -/
opaque Config.serial : Nat
/-- The device's identity certificate, read over the sideband (R446, R447). -/
opaque Config.certificate : List (BitVec 8)
/-- What the maker put into a byte of flash (R444). -/
opaque Config.flashByte : Nat → BitVec 8
/-- Whether a throttle withholds the cycle that begins at a value of `clock` (R448). -/
opaque Config.withheld : Nat → Bool

end Sys2Proof
end

