-- ==== Sys2Proof/Machine/State.lean ====
section
/-! DEFINITION. The state of one Damuth device as plain data, the reasons a step can stop, and the state after a cold reset. Every list keyed by
a number is a `Map` in canonical form (keys strictly rising). The spec's reset values and the model's own are listed in INVENTORY.md. -/

namespace Sys2Proof.Machine

/-- A packet of the Guene fabric (R333). `dst` is the device the packet is sent to. -/
structure Packet where
  typ : Byte := 0
  cls : Nat := 0
  hop : Nat := 0
  band : Nat := 0
  src : BitVec 12 := 0
  dst : BitVec 12 := 0
  slot : BitVec 16 := 0
  len : Nat := 0
  opx : BitVec 4 := 0
  faddr : Dword := 0
  stamp : Dword := 0
  count : Word := 0
  key : BitVec 16 := 0
  tag : BitVec 16 := 0
  mask : BitVec 128 := 0
  data : List Byte := []
deriving DecidableEq, Repr

/-- Operands of an engine step: which crew, launch, queue, slot or entry it is about, and the packet or bytes it brings (log entry 3). -/
structure EvArg where
  crew : Nat := 0
  a : Nat := 0
  b : Nat := 0
  c : Nat := 0
  d : Nat := 0
  bytes : List Byte := []
  pkt : Packet := {}
deriving DecidableEq, Repr

/-- The issue register: marker bit, bits [31:10] of the word being issued (R109), and the extension word of ILL (log entry 5). -/
structure IssueReg where
  m : BitVec 1 := 0
  aux : BitVec 22 := 0
  ext : BitVec 32 := 0
deriving DecidableEq, Repr

/-- Lane states of the frontier table (R161). -/
inductive LaneState where
  | live | held | ended | absent
deriving DecidableEq, Repr

/-- One entry of the frontier table (R161). -/
structure LaneEntry where
  st : LaneState := .absent
  resume : BitVec 56 := 0
deriving DecidableEq, Repr

/-- One trap bank: the trap registers (R243, R240) with the full trapping address and the address after it (R255). `seq` is the number of the
instruction that trapped, by which other faults of it are known (R252). -/
structure TrapBank where
  tsr : Word := 0
  tpc : Word := 0
  tmask : Word := 0
  pcm : Word := 0
  xirf : Word := 0
  tva : Dword := 0
  pcAt : BitVec 56 := 0
  pcNext : BitVec 56 := 0
  seq : Nat := 0
deriving DecidableEq, Repr

/-- The register files that a result or a hazard names (R128). -/
inductive RegFile where
  | vector | scalar | accum
deriving DecidableEq, Repr

/-- One register, in one lane for a vector register, that an outstanding result writes (R17, R127). `contended` is set once another
instruction, or another result, has written the register meanwhile. -/
structure PTarget where
  file : RegFile
  idx : Nat
  lane : Nat
  val : Word
  contended : Bool := false
deriving DecidableEq, Repr

/-- What an outstanding result waits for, for the stall reason (R404). -/
inductive PendKind where
  | memory | matrix | status
deriving DecidableEq, Repr

/-- An outstanding register-targeted result (R17, R126). `ready` once its values are known; `drains` unless a save leaves it (R255). `regs` are the registers it is
to write in no lane, since every lane of their instruction faulted: they are tracked until it returns (R128). -/
structure Pend where
  id : Nat
  kind : PendKind
  ready : Bool
  drains : Bool
  targets : List PTarget
  regs : List (RegFile × Nat) := []
deriving DecidableEq, Repr

/-- A held fault (R248, R255). `due` once it may be delivered; `lanes` gives the address of each faulting lane (R257), `stamps` the stamps of the instruction's lanes at its issue
(R22). `precise` marks the precise trap of an instruction whose missing pages were refused: it is taken after their trap (R252). -/
structure HeldFault where
  addr : BitVec 56
  next : BitVec 56
  cause : Byte
  tva : Dword
  tmask : Mask
  pcm : Mask
  seq : Nat
  depth : Nat
  returning : Bool
  due : Bool
  wr : Bool := false
  lanes : List (Nat × Nat) := []
  stamps : Map Dword := []
  precise : Bool := false
  xirf : Mask := 0
deriving DecidableEq, Repr

/-- A trap that waits for the crew's outstanding results (R245). `stamps` are those of the instruction's lanes at its issue (R22), `seq` is its number. -/
structure TrapReq where
  cause : Byte
  tva : Dword := 0
  tmask : Mask := 0
  pcm : Mask := 0
  xirf : Mask := 0
  impr : Bool := false
  pcAt : BitVec 56 := 0
  pcNext : BitVec 56 := 0
  stamps : Map Dword := []
  seq : Nat := 0
deriving DecidableEq, Repr

/-- The waits of R41 that an instruction enters at issue. -/
inductive WaitKind where
  | token | ferry | copyLimit | copyEntries | copyStatus | matrix | memory | issueConflict
deriving DecidableEq, Repr

/-- The wait a crew stands in beside the marker wait (R41). -/
inductive Wait where
  /-- no wait -/
  | none
  /-- the next instruction waits at issue and is tried again -/
  | atIssue (k : WaitKind)
  /-- waits until the object at `off` leaves generation `gen` (R175) -/
  | barrier (off gen : Nat) (conv : Bool)
  /-- sleeps until `clock` reaches `w` (R170) -/
  | sleep (w : Nat)
  /-- after a YIELD at clock `at` (R169) -/
  | yield (since : Nat)
  /-- RDRAIN: waits until its lines are taken in (R346) -/
  | drain
  /-- an arrival that reached the object at `off` while its phase awaits only bytes: it counts in the next phase; `d` receives BARA's generation (R174) -/
  | arrive (off : Nat) (conv : Bool) (d : Option Nat)
deriving DecidableEq, Repr

/-- Why a crew is halted (R40, R417): DOUBLE, or stopped with a reason. -/
inductive Halt where
  | running
  | double
  | stopped (reason : Nat)
deriving DecidableEq, Repr

/-- A park of a crew on fault records: basic-level PGNP (R252) or EVCAP (R312). `left` counts the records not yet
answered, `replay` holds the lanes that miss a page, `seq` is the number of the instruction. -/
structure Park where
  left : Nat
  cause : Byte
  tva : Dword
  tmask : Mask
  pcm : Mask
  impr : Bool
  precise : Bool
  addr : BitVec 56
  next : BitVec 56
  replay : Mask := 0
  refused : Bool := false
  seq : Nat := 0
  stamps : Map Dword := []
deriving DecidableEq, Repr

/-- Trace state of a crew (R408, R409): traced, first SYNC written, SYNC due before the next packet, clock of the last packet, packets
since the last SYNC, reference PC. -/
structure TraceSt where
  traced : Bool := false
  started : Bool := false
  syncDue : Bool := false
  lastPkt : Nat := 0
  sinceSync : Nat := 0
  refPc : BitVec 56 := 0
deriving DecidableEq, Repr

/-- How far an XIR has come whose words another crew's instruction may part (R239): its fields and marker bit, the groups still to issue, the lanes whose words completed, the lanes
that held illegal words, whether that other instruction is still to issue, the results that were outstanding when it issued (R238), and the clock of its issue. -/
structure XirSt where
  f : TF
  m : BitVec 1
  rest : List (Word × Mask)
  done : Mask
  bad : Mask
  gap : Bool
  pend : List Pend := []
  since : Nat := 0
deriving DecidableEq, Repr

/-- A crew, resident, halted or saved (R28, R40). `saving` is the clock at which a save of it began (R255), `alone` marks a save by CTXSW (R256). `stepping` is 1 from a STEP until an instruction has issued, 2 until the
crew then stops, and 3 when a STOP found the crew saved (R407, R418). `v` is keyed by 32 × register + lane, `banks` by 64 × bank + word, `acc` by
256 × accumulator + 64 × quarter + 8 × i + j; per-lane registers are keyed by lane. `readySince` is the clock from which it has been ready, and while its instruction holds the slot the
clock at which that ends (R182, R403); `issuedAt` is the clock of that issue (R404). `stopNext` is a stop, with its reason, index and code, that lands once the XIR under way has
issued (R239, R417). `bcast` is set only in the crew as an instruction sees it: what each lane reads of a scalar with an outstanding producer (R127), keyed by
32 × register + lane. -/
structure Crew where
  lid : Nat := 0
  lcid : Nat := 0
  part : Nat := 0
  teamKey : Nat := 0
  crewIx : Word := 0
  team : Word := 0
  cohort : Word := 0
  shelfg : Word := 0
  gcrew : Word := 0
  nregs : Nat := 8
  naccs : Nat := 0
  strict : Bool := false
  timeline : Bool := false
  expert : BitVec 10 := 0
  text : BitVec 56 := 0
  vecBase : Option (BitVec 56) := none
  v : Map Word := []
  sreg : Map Word := []
  banks : Map Word := []
  acc : Map (BitVec 80) := []
  pc : BitVec 56 := 0
  exm : Mask := 0
  fr : Map LaneEntry := []
  sh1 : Map LaneEntry := []
  sh2 : Map LaneEntry := []
  clockLatch : Option Word := none
  stamp : Map Dword := []
  evhandle : Map Dword := []
  span : Word := 0
  round : Word := 0
  wstart : Dword := 0
  lookahead : Dword := 0
  rnd : BitVec 2 := 0
  fflags : Map Word := []
  cbank : BitVec 4 := 0
  hazEn : BitVec 1 := 0
  bank1 : TrapBank := {}
  bank2 : TrapBank := {}
  tdepth : BitVec 2 := 0
  macc : BitVec 16 := 0xFFFF
  pend : List Pend := []
  counted : List Nat := []
  held : List HeldFault := []
  seq : Nat := 0
  wait : Wait := .none
  markerWait : Bool := false
  park : Option Park := none
  waits : List Wait := []
  trapReq : Option TrapReq := none
  halt : Halt := .running
  saved : Bool := false
  saving : Option Nat := none
  alone : Bool := false
  ctxHalt : Bool := false
  ldcBusy : List (Nat × Nat) := []
  readySince : Nat := 0
  issuedAt : Nat := 0
  stopNext : Option (Nat × Nat × Nat) := none
  parkedAt : Nat := 0
  stepping : Nat := 0
  trace : TraceSt := {}
  xir : Option XirSt := none
  bcast : Map Word := []
deriving DecidableEq, Repr

/-- A team: its isle, its place in the order of dispatch, its scratchpad, the offsets of its convergent objects (R30, R176) and those that a barrier instruction has named (log entry 8).
`old` marks a team of an earlier round of a timeline, whose crew has retired (R301). -/
structure Team where
  lid : Nat := 0
  ix : Nat := 0
  isle : Nat := 0
  disp : Nat := 0
  size : Nat := 0
  scratch : Map Byte := []
  conv : List Nat := []
  objs : List Nat := []
  old : Bool := false
  saved : Bool := false
  saving : Bool := false
  savedTags : Map Word := []
  savedChans : List (Nat × Nat × Word × Option (Byte × Nat)) := []
deriving DecidableEq, Repr

/-- One tag entry (R225). -/
structure Tag where
  team : Nat
  tag : Word
deriving DecidableEq, Repr

/-- A dependence of a launch (R397). `map`, `np` and `part` are the completion bitmap, the team count and the partition of the producer it was resolved to (R398). -/
structure Dep where
  plid : Nat := 0
  map : Nat := 0
  np : Nat := 0
  part : Nat := 0
  a : Int := 0
  w : Nat := 0
  b : Int := 0
deriving DecidableEq, Repr

/-- A launch descriptor (R395). -/
structure Desc where
  kind : Nat := 0
  gang : Bool := false
  strict : Bool := false
  job : Nat := 0
  expert : BitVec 10 := 0
  regs : Nat := 0
  sregs : Nat := 0
  accs : Nat := 0
  team : Nat := 0
  cohort : Nat := 0
  shelfg : Nat := 0
  scratch : Nat := 0
  nsg : Nat := 0
  text : Nat := 0
  entry : Nat := 0
  trapv : Nat := 0
  htab : Nat := 0
  hcount : Nat := 0
  p : Nat := 0
  q : Nat := 0
  stamp : Nat := 0
  ctx : Nat := 0
  lid : Nat := 0
  age : Nat := 0
  w : Nat := 0
  lookahead : Nat := 0
  tltab : Nat := 0
  tlcomm : Nat := 0
  map : Nat := 0
  dep0 : Dep := {}
  dep1 : Dep := {}
deriving DecidableEq, Repr

/-- An unretired launch: its descriptor, the queue entry that started it, and how far it has come (R45, R391, R393, R399). `dispatched` and `retired` hold
team indexes, in a timeline launch positions of the current round; `readyAt` gives the clock at which a cohort or position became ready, `noRoom` that since which it has found no room (R38, R402); `oneByOne` the shelf groups placed without gang (R39); `groupShelf` the shelf of a
shelf group (R39); `restored` marks one that a checkpoint restored in low-water service (R447); `traceAll` and `traced` the crews whose trace is enabled (R407). -/
structure Launch where
  desc : Desc := {}
  part : Nat := 0
  queue : Nat := 0
  entry : Nat := 0
  crec : Nat := 0
  cstamp : Dword := 0
  norec : Bool := false
  physical : Bool := false
  prio : Nat := 0
  accept : Nat := 0
  tokPos : Nat := 0
  passed : List Nat := []
  dispatched : List Nat := []
  retired : List Nat := []
  readyAt : Map Nat := []
  noRoom : Map Nat := []
  groupShelf : Map Nat := []
  traceAll : Bool := false
  traced : List Nat := []
  pre : Bool := false
  late : Bool := false
  nogang : Bool := false
  oneByOne : List Nat := []
  restored : Bool := false
deriving DecidableEq, Repr

/-- An event of a timeline launch (R306). `place` is where the shelf holds it: 0 ring, 1 far list, 2 spilled (R311, R312). -/
structure EvRec where
  time : Nat
  tail : Nat
  handler : Nat
  uflags : Nat
  placeAddr : Nat
  host : Bool
  remote : Bool
  nohandle : Bool
  slot : Nat
  gen : Nat
  payload : List Byte
  recIx : Nat
  order : Nat
  place : Nat
deriving DecidableEq, Repr

/-- State of a slot table entry (R309). -/
inductive SlotState where
  | free | pending | current | retired | cancelled
deriving DecidableEq, Repr

/-- The shoal store of one shelf for one launch (R309 to R312, R396). -/
structure Shoal where
  base : Nat := 0
  recs : Nat := 0
  slots : Nat := 0
  spillBase : Nat := 0
  spillSize : Nat := 0
  b0 : Nat := 0
  tab : Map (SlotState × Nat) := []
  evs : List EvRec := []
deriving DecidableEq, Repr

/-- One lane of a round's crew in the round table (R314). `pos` is the crew's place in the round's crew order, `child` its child counter, `back` the child
indexes that a remote post took and gave back when it faulted (R319); the event keeps its record until it has ended. -/
structure RoundLane where
  pos : Nat
  lane : Nat
  shelf : Nat
  time : Nat
  tail : Nat
  handle : Nat
  handler : Nat
  prio : Nat
  ordinal : Nat
  child : Nat
  payload : List Byte
  recIx : Nat
  spilled : Bool
  ended : Bool
  back : List Nat := []
deriving DecidableEq, Repr

/-- A timeline launch under way (R304, R305, R307, R313 to R315, R328). `fresh` lists the storing numbers of host posts stored since the span started,
`handlers` the entries of its handler table that are not empty, `hostUntil` the tail of its queue when it started, `endedAt` the time when its last span ended. -/
structure Timeline where
  n : Nat := 1
  g : Nat := 0
  members : List (BitVec 12) := []
  hostSeq : Nat := 0
  span : Nat := 0
  round : Nat := 0
  t : Nat := 0
  wend : Nat := 0
  open_ : Bool := false
  done : Bool := false
  fresh : List Nat := []
  order : Nat := 0
  table : List RoundLane := []
  ncrews : Nat := 0
  handlers : Map Nat := []
  hostUntil : Word := 0
  endedAt : Nat := 0
  shoals : Map Shoal := []
deriving DecidableEq, Repr

/-- Which copy instruction an in-flight copy serves (R282). -/
inductive CopyKind where
  | cpy | cpyk | cpyt | cpyc
deriving DecidableEq, Repr

/-- An in-flight copy (R283). `src`, `dst` and `stamps` are keyed by lane, for CPY; rows and pitches give the shape of the others. `early` and `late` list
the faults of lanes, found at issue and afterwards. `moved` bytes have performed in row-major order, `landed` of them have been counted down. `snap`
gives the lowest lane or byte that performed with the N code and format of its source page. `parked` lists the pages whose records are not answered, `refused`
the pages refused. `ended` is the status word of a copy whose bytes have all performed, while it returns to its scalar: the entry is in use until it is written (R283). -/
structure CopyOp where
  id : Nat := 0
  kind : CopyKind := .cpy
  crew : Nat := 0
  team : Nat := 0
  isle : Nat := 0
  part : Nat := 0
  gcrew : Word := 0
  lid : Nat := 0
  strict : Bool := false
  pcAt : BitVec 56 := 0
  stamp : Dword := 0
  stamps : Map Dword := []
  pendId : Nat := 0
  mask : Mask := 0
  src : Map Nat := []
  dst : Map Nat := []
  early : List (Nat × Byte × Nat) := []
  late : List (Nat × Byte × Nat) := []
  done : Mask := 0
  begun : Map (Nat × Nat) := []
  held : Map Byte := []
  put : List Nat := []
  srcSp : Bool := false
  dstSp : Bool := false
  w : Nat := 0
  rows : Nat := 0
  rowBytes : Nat := 0
  saddr : Nat := 0
  daddr : Nat := 0
  spitch : Nat := 0
  dpitch : Nat := 0
  bar : Nat := 0
  outcnt : Bool := false
  expect : Bool := false
  descOff : Nat := 0
  chan : Nat := 0
  first : Nat := 0
  remote : Nat := 0
  rbar : Nat := 0
  rexp : Bool := false
  push : Bool := true
  accepted : Bool := false
  moved : Nat := 0
  landed : Nat := 0
  snap : Option (Nat × Nat × Nat) := none
  parked : List Nat := []
  refused : List Nat := []
  failed : Option (Byte × Nat) := none
  ended : Option Word := none
deriving DecidableEq, Repr

/-- A copy channel held by a team (R292). `next` is the byte number after the last queued byte. -/
structure Chan where
  team : Nat
  slot : Nat
  count : Nat
  next : Nat
  fault : Option (Byte × Nat)
deriving DecidableEq, Repr

/-- A matrix operation in a unit's queue, or executed and awaiting its tile update (R259, R271, R280). Register operands are held as read
at issue, keyed by 32 × register + lane. `executed` pairs a quarter with its group; `results` is keyed by 64 × quarter + 8 × i + j; a fault is a quarter,
a cause and a line start. `early` holds operand bytes that the unit has read before the quarter's other bytes, by scratchpad offset (R91). -/
structure MatOp where
  id : Nat := 0
  isle : Nat := 0
  slot : Nat := 0
  crew : Nat := 0
  team : Nat := 0
  pcAt : BitVec 56 := 0
  seq : Nat := 0
  sparse : Bool := false
  zero : Bool := false
  acc : Nat := 0
  quarters : List Nat := []
  mask : Mask := 0
  stamps : Map Dword := []
  rnd : BitVec 2 := 0
  fmtA : Nat := 0
  fmtB : Nat := 0
  regA : Map Word := []
  regB : Map Word := []
  aDesc : Option Dword := none
  bDesc : Option Dword := none
  rot : Bool := false
  depth : Nat := 0
  next : BitVec 56 := 0
  executed : List (Nat × Nat) := []
  updated : List Nat := []
  results : Map (BitVec 80) := []
  faults : List (Nat × Byte × Nat) := []
  early : Map Byte := []
deriving DecidableEq, Repr

/-- An MLDA that waits for the operations outstanding on its accumulator (R271, R274). `cands` lists, per element as in `MatOp`, the values after
each prefix of them, oldest first. -/
structure MldaOp where
  crew : Nat
  id : Nat
  acc : Nat
  ops : List Nat
  regD : Nat
  mode : Nat
  cols : List Nat
  rnd : BitVec 2
  quarters : List Nat
  cands : Map (List (BitVec 80))
deriving DecidableEq, Repr

/-- One lane of a write-combining line: which instruction of which crew it came from (R343), with the stamps of its lanes (R22). -/
structure WcOwner where
  crew : Nat
  seq : Nat
  pcAt : BitVec 56
  tmask : Mask
  lanes : Mask
  depth : Nat
  stamps : Map Dword := []
deriving DecidableEq, Repr

/-- A write-combining line (R344). -/
structure WcLine where
  isle : Nat
  dev : BitVec 12
  slot : BitVec 16
  line : Nat
  stamp : Dword
  bytes : Map Byte
  born : Nat
  owners : List WcOwner
  key : BitVec 16
deriving DecidableEq, Repr

/-- A window entry (R338). `phys` marks the firmware's own, whose BASE is physical (log entry 13). -/
structure Window where
  en : Bool := false
  rd : Bool := false
  wr : Bool := false
  at_ : Bool := false
  base : Nat := 0
  key : BitVec 16 := 0
  size : Nat := 0
  part : Nat := 0
  phys : Bool := false
deriving DecidableEq, Repr

/-- What the outside world does to the device beside packets, links and power: the firmware or the host writes a window (R338), the firmware lists the managers (R329), an error of
memory appears in a line, correctable or not (R435), or the host enlarges a shelf's record area (R312). -/
inductive Outside where
  | window (n : Nat) (w : Window)
  | managers (ids : List (BitVec 12))
  | flaw (line : Nat) (hard : Bool)
  | records (lid shelf n : Nat)
deriving DecidableEq, Repr

/-- One entry of the agenda: after `delay` cycles, what the outside world does, then the engine step `instr` with operands `arg`. With neither, the next issue of the
crew that `arg` names (log entry 3). -/
structure AgendaItem where
  delay : Nat
  instr : Option Instr
  arg : EvArg
  out : Option Outside := none
deriving DecidableEq, Repr

/-- State of a slot at either end (R341). -/
inductive StreamState where
  | free | open_ | damaged | closed
deriving DecidableEq, Repr

/-- A slot at the source router (R340, R341). `lastLoss` is the time of its last LOSS notice, 0 for none; `starved` says that the firmware has heard of a starved flag (R349); `key` is the
fabric key of the partition that opened it (R339). -/
structure TxSlot where
  st : StreamState := .free
  sent : Word := 0
  tag : BitVec 16 := 0
  hw : Bool := false
  lastLoss : Nat := 0
  starved : Bool := false
  key : BitVec 16 := 0
deriving DecidableEq, Repr

/-- A slot at the receiver (R340, R341). `key` is the fabric key of the OPEN that took it (R339). -/
structure RxSlot where
  st : StreamState := .free
  src : BitVec 12 := 0
  tag : BitVec 16 := 0
  arrived : Word := 0
  timeout : Nat := 0
  hw : Bool := false
  key : BitVec 16 := 0
deriving DecidableEq, Repr

/-- A held flag or CLOSE (R342, R348). -/
structure PFlag where
  slot : Nat
  target : Word
  pkt : Packet
  since : Nat
  starved : Bool
deriving DecidableEq, Repr

/-- What a remote request asks for. -/
inductive ReqKind where
  | load | atom | open_ | evpost | evcan | query
deriving DecidableEq, Repr

/-- A remote request awaiting its reply (R353, R354, R340, R319, R321). `lanes` gives each lane's byte offset in the reply, and `evpost` its destination registers. -/
structure RemoteReq where
  tag : Nat
  kind : ReqKind
  crew : Nat
  gcrew : Word
  lid : Nat
  part : Nat
  pendId : Nat
  seq : Nat
  pcAt : BitVec 56
  pcNext : BitVec 56
  dst : BitVec 12
  lanes : List (Nat × Nat)
  tmask : Mask
  regD : Nat
  w : Nat
  addr : Nat
  since : Nat
  stamp : Dword
  stamps : Map Dword := []
  depth : Nat
  operands : List (Nat × Dword)
  sub : Nat
deriving DecidableEq, Repr

/-- An entry of a combining table (R355). `members` are the packets that joined, in arrival order. -/
structure CombEntry where
  id : Nat
  port : Nat
  dst : BitVec 12
  addr : Nat
  wide : Bool
  since : Nat
  closed : Bool
  sentSlot : Nat
  members : List Packet
deriving DecidableEq, Repr

/-- A flit on its way out (R332, R333): channel, KIND, payload, the packet it belongs to, and how often it has been resent (R336). -/
structure OutFlit where
  ch : Nat
  kind : Nat
  payload : List Byte
  pkt : Packet
  tries : Nat := 0
deriving DecidableEq, Repr

/-- One port of the fabric (R332 to R337). `outq` waits for credit, `replay` pairs sent flits with their SEQ until they are acknowledged, `wire` holds flits
that have left and that nobody has carried away, `part` the payloads of partial packets by channel. Channel counts and buffer sizes are keyed by channel; `turn` is the
channel served last (R331), `repair` a lane that is to be repaired with its error count and the SEQ of the flit that was the oldest unacknowledged one (R336), `nakUntil` the time when the replay under way has passed, `errs` the lanes' error counts in the last `seen` flits (R336), `flits` the flits sent (0), received (1) and resent (2)
since reset (R421). -/
structure Link where
  up : Bool := true
  retraining : Bool := false
  repair : Option (Nat × Nat × Option Nat) := none
  retrainAt : Nat := 0
  spareUsed : Bool := false
  narrow : Bool := false
  txSeq : Nat := 0
  rxSeq : Nat := 0
  outq : List OutFlit := []
  replay : List (Nat × OutFlit) := []
  wire : List (List Byte) := []
  lastNak : Option Nat := none
  nakUntil : Nat := 0
  turn : Nat := 19
  errs : Map Nat := []
  seen : Nat := 0
  flits : Map Nat := []
  refreshAt : Nat := 0
  sentOn : Map Nat := []
  ccount : Map Nat := []
  freed : Map Nat := []
  buf : Map Nat := []
  part : Map (List Byte) := []
deriving DecidableEq, Repr

/-- State of a communicator slot (R360). -/
inductive CommState where
  | free | defining | ready | broken | closing
deriving DecidableEq, Repr

/-- An operation queued on a communicator (R362). `sent` lists the chunks sent, by 256 × chunk + destination rank, `wrote` the chunks written to DST, by
256 × chunk + source rank, `res` the chunks of an ALLREDUCE reduced here. `parked` lists pages whose records are not answered. -/
structure CollOp where
  seq : Nat := 0
  opc : Nat := 0
  dtype : Nat := 0
  red : Nat := 0
  root : Nat := 0
  nc : Nat := 0
  len : Nat := 0
  src : Nat := 0
  dst : Nat := 0
  stamp : Dword := 0
  crew : Nat := 0
  pendId : Nat := 0
  lid : Nat := 0
  part : Nat := 0
  gcrew : Word := 0
  pcAt : BitVec 56 := 0
  born : Nat := 0
  res : Map (List Byte) := []
  sent : List Nat := []
  wrote : List Nat := []
  reported : Bool := false
  parked : List Nat := []
deriving DecidableEq, Repr

/-- A receive slot that holds a chunk: its first packet, and the data of its packets by byte offset in the segment (R365, R366). -/
structure RecvSlot where
  first : Packet
  got : Map (List Byte)
deriving DecidableEq, Repr

/-- A communicator slot (R360 to R366, R372). `slots` are the receive slots in use by sender rank, `busy` the ranks whose slot for this member is not free,
`reps` the reports held as (SEQ, kind, rank), `seen` the first chunk or report of a SEQ not yet issued here, `defWait` and `closeWait` the crew and result that wait,
`defParts` the pieces of DEFINEs that agreed, by rank. The tide engine's reductions stand outside the queue (R373): `tideOut` holds values still to be sent as (key, rank, value), `tideIn` the
values held, `tideBorn` the time of this member's own. -/
structure Comm where
  st : CommState := .free
  prio : Nat := 1
  n : Nat := 0
  chunk : Nat := 0
  rank : Nat := 0
  timeout : Nat := 0
  job : Nat := 0
  members : List (BitVec 12) := []
  part : Nat := 0
  definedBy : List Nat := []
  defParts : List (Nat × Nat) := []
  seq : Nat := 0
  ops : List CollOp := []
  slots : Map RecvSlot := []
  busy : List Nat := []
  reps : List (Nat × Nat × Nat) := []
  seen : Map Packet := []
  defWait : Option (Nat × Nat) := none
  defBorn : Nat := 0
  closeWait : Option (Nat × Nat) := none
  tideBorn : Option Nat := none
  tideOut : List (Nat × Nat × Option Nat) := []
  tideIn : List (Nat × Nat × Option Nat) := []
deriving DecidableEq, Repr

/-- The firmware's exchange after a failure of a communicator (R372): the slot as it stood, whether this member's break report is sent, the reports held at rank 0, and the
clock of this member's record once there is one. It outlives the slot. -/
structure Break where
  comm : Comm
  sent : Bool := false
  reps : List Nat := []
  failAt : Option Nat := none
deriving DecidableEq, Repr

/-- One element of a ferry (R378, R384). One in overflow has its bytes in memory at `at_`, one on chip holds them itself. -/
structure FElem where
  bytes : List Byte
  stamp : Dword
  seq : Word
  at_ : Option Nat := none
deriving DecidableEq, Repr

/-- A parked crew that its ferry has served (R382, R386): the instruction it is parked on, the status word and the element, which it has once it issues. -/
structure FTurn where
  crew : Nat
  send : Bool
  pcAt : BitVec 56
  off : Nat
  status : Word
  elem : Option FElem
deriving DecidableEq, Repr

/-- A ferry (R376, R378, R381). `lastMove` is the clock of the last element moved, 0 for none, `growAt` that of the last growth of `granted`,
`turns` the parked crews that are served and have not issued since. -/
structure Ferry where
  en : Bool := false
  fabric : Bool := false
  prod : Nat := 0
  cons : Nat := 0
  cap : Nat := 0
  home : Nat := 0
  esize : Nat := 0
  ovbase : Nat := 0
  ovcap : Nat := 0
  everClosed : Bool := false
  elems : List FElem := []
  turns : List FTurn := []
  accepted : Word := 0
  granted : Nat := 0
  lastMove : Nat := 0
  growAt : Nat := 0
deriving DecidableEq, Repr

/-- A partition (R25, R401, R427, R449). `mask` holds its atolls, `want` those it is to have once they are idle; `taken` counts the pool entries taken, `spare` holds unused
tables by their size. -/
structure Part where
  mask : BitVec 64 := 0
  want : BitVec 64 := 0
  mode : BitVec 4 := 0
  key : BitVec 16 := 0
  root : Nat := 0
  btab : Nat := 0
  pool : Nat := 0
  psize : Nat := 0
  ptail : Nat := 0
  phead : Nat := 0
  taken : Nat := 0
  spare : Map (List Nat) := []
deriving DecidableEq, Repr

/-- A work queue (R387, R389). `epoch` counts its declarations while entries taken before were still under way; it tells their numbers apart. -/
structure Queue where
  base : Nat := 0
  tailw : Nat := 0
  headw : Nat := 0
  size : Nat := 4
  weight : Nat := 1
  prio : Nat := 0
  part : Nat := 0
  head : Word := 0
  stopped : Nat := 0
  closing : Bool := false
  physical : Bool := false
  epoch : Nat := 0
deriving DecidableEq, Repr

/-- A queue entry taken and not yet completed, other than a launch (R391). `body` holds its 128 bytes; `aux` how far it has come; `fin` its code and WHEN once
only the completion record is missing; `parked` marks a wait for the answer to a fault record. -/
structure Cmd where
  queue : Nat
  n : Nat
  kind : Nat
  part : Nat
  physical : Bool
  stamp : Dword
  crec : Nat
  norec : Bool
  body : List Byte
  aux : Nat := 0
  lid : Nat := 0
  fin : Option (Nat × Nat) := none
  parked : Bool := false
deriving DecidableEq, Repr

/-- A watched region (R415). -/
structure Region where
  base : Nat
  len : Nat
  part : Nat
  lid : Option Nat
deriving DecidableEq, Repr

/-- A breakpoint (R407). -/
structure Brk where
  lid : Nat
  off : Word
  crew : Word
  isleStop : Bool
deriving DecidableEq, Repr

/-- A shelf's trace buffer (R411, R412). `w` is the writer's pointer, `published` what its pointer word holds. -/
structure TBuf where
  base : Nat
  size : Nat
  wAddr : Nat
  rAddr : Nat
  w : Word
  published : Word
deriving DecidableEq, Repr

/-- A trace packet of the cycle under way (R425): its shelf, the `gcrew` it names, the crew that loses a BRANCH, SYNC or TMARK packet, and its bytes. -/
structure TPkt where
  shelf : Nat
  gcrew : Word
  crew : Option Nat
  bytes : List Byte
deriving DecidableEq, Repr

/-- The counter series (R421). `last` holds the counts at its last tick, `due` the ticks whose frames are still to be written, each with the counts at it. -/
structure Series where
  base : Nat := 0
  frames : Nat := 0
  k : Nat := 0
  wAddr : Nat := 0
  rAddr : Nat := 0
  w : Word := 0
  dropped : Word := 0
  last : Map Nat := []
  due : List (Nat × Map Nat) := []
deriving DecidableEq, Repr

/-- A ring placed by the firmware: base, tail word, head word, entries taken (R406, R441). -/
structure Ring where
  base : Nat := 0
  tailw : Nat := 0
  headw : Nat := 0
  head : Word := 0
  stopped : Nat := 0
deriving DecidableEq, Repr

/-- A fault record (R253). -/
structure FRec where
  stamp : Dword := 0
  typ : Byte := 0
  hw : Bool := false
  impr : Bool := false
  gcrew : Word := 0
  lid : Word := 0
  part : Nat := 0
  addr : Dword := 0
  pc : Dword := 0
  lanes : Mask := 0
  pcm : Mask := 0
  detail : Dword := 0
deriving DecidableEq, Repr

/-- Who waits for the answer to a fault record: nobody, a crew, an in-flight copy, a queue command, an operation of a communicator, a
communicator slot that failed. -/
inductive RecOwner where
  | nobody
  | crew (key : Nat)
  | copy (id : Nat)
  | cmd (queue n : Nat)
  | coll (slot seq : Nat)
  | comm (slot : Nat)
  | page (line : Nat)
deriving DecidableEq, Repr

/-- The fault record queue (R253, R254). `waiting` are records whose owners are parked until a slot frees; `open_` the numbers written whose
answers are not yet acquired, `got` answers acquired but not acted on: the STATE, the record and its owner. -/
structure FaultQ where
  base : Nat := 0
  log2 : Nat := 6
  seq : Nat := 0
  dropped : Nat := 0
  waiting : List (FRec × RecOwner) := []
  open_ : Map (FRec × RecOwner) := []
  got : List (Nat × FRec × RecOwner) := []
deriving DecidableEq, Repr

/-- What a checkpoint image holds of the chip, beside the stacks (R105, R439, log entry 14). -/
structure Snapshot where
  device : BitVec 12 := 0
  pflags : List PFlag := []
  txSlots : Map TxSlot := []
  rxSlots : Map RxSlot := []
  ferries : Map Ferry := []
  timelines : Map Timeline := []
  comms : Map Comm := []
  parts : Map Part := []
  queues : Map Queue := []
  launches : Map Launch := []
  teams : Map Team := []
  crews : Map Crew := []
deriving DecidableEq, Repr, Inhabited

/-- The state of one device. `counts` holds what the watch engine has counted since reset, by the word of the
frame that it goes to (R404, R421), `countAt` the counts at the last multiple of 2^k cycles, by k from 10 to 24, `lost` the trace packets dropped since a shelf's last LOSS (R412), `tracePend` the packets of the cycle under way in the order in which they arose (R425).
`slotBusy` gives, by 4 × isle + slot, the clock until which the last instruction of a crew that has left holds its issue slot (R182).
`reached` lists, for a frame queued for retirement, the partition and virtual page by which an access reached it (R27). `power` is the power averaged over 10 ms, in W, and `temps` the sensors'
temperatures in °C (R447, R448); `began` is `clock` at the start of the stage; `flagArea` is the pending-flag overflow area (R348, R441); `snaps` lists the on-chip states that checkpoints have
written, the newest first (R439). -/
structure State where
  free : Nat := 0
  agenda : List AgendaItem := []
  cur : Nat := 0
  polled : Nat := 0
  arg : EvArg := {}
  ir : IssueReg := {}
  clock : Nat := 0
  stage : Byte := 0x02
  powerCap : Nat := 1900
  capThrottle : Bool := false
  thermThrottle : Bool := false
  power : Nat := 0
  temps : Map Nat := []
  began : Nat := 0
  svnFuse : Nat := 0
  flash : Map Byte := []
  mLog : BitVec 256 := 0
  mCount : Nat := 0
  mFw : BitVec 256 := 0
  mem : Map Byte := []
  poison : Map Bool := []
  corrCount : Map Nat := []
  ecc : Map Bool := []
  badPages : List (Nat × Nat) := []
  reached : List (Nat × Nat × Nat) := []
  tlbIsle : List (Nat × Nat × Nat × Nat × Dword) := []
  tlbAtoll : List (Nat × Nat × Nat × Nat × Dword) := []
  parts : Map Part := []
  queues : Map Queue := []
  cmds : List Cmd := []
  launches : Map Launch := []
  accepts : Nat := 0
  wrr : Map (Nat × Nat) := []
  nextDisp : Nat := 0
  ghosts : Map Crew := []
  timelines : Map Timeline := []
  teams : Map Team := []
  crews : Map Crew := []
  tags : Map Tag := []
  chans : Map Chan := []
  copies : List CopyOp := []
  nextCopy : Nat := 0
  matq : List MatOp := []
  mldas : List MldaOp := []
  nextGroup : Nat := 0
  predictor : Map Nat := []
  lineOwner : Map Nat := []
  wcb : List WcLine := []
  deviceId : BitVec 12 := 1
  routes : Map Word := []
  managers : List (BitVec 12) := []
  windows : Map Window := []
  txSlots : Map TxSlot := []
  rxSlots : Map RxSlot := []
  pflags : List PFlag := []
  reqs : List RemoteReq := []
  comb : List CombEntry := []
  links : Map Link := []
  netOut : List Packet := []
  netIn : List Packet := []
  discards : Nat := 0
  comms : Map Comm := []
  breaks : Map Break := []
  lastComm : Nat := 63
  ferries : Map Ferry := []
  cycleRec : List (Nat × Nat) := []
  regions : Map Region := []
  brks : Map Brk := []
  armed : List Nat := []
  isleStops : List (Nat × Nat × List Nat) := []
  stepReq : Option (Nat × Nat) := none
  tbufs : Map TBuf := []
  series : Series := {}
  counts : Map Nat := []
  countAt : Map (Map Nat) := []
  lost : Map Nat := []
  slotBusy : Map Nat := []
  tracePend : List TPkt := []
  watchRing : Ring := {}
  faultq : FaultQ := {}
  ckpt : Option (Nat × Nat × Nat × Option Nat) := none
  ckptEarly : List Nat := []
  flagArea : Nat := 0
  snaps : List Snapshot := []
deriving DecidableEq, Repr

/-- The machine right after a device cold reset: bring-up stage 2 (R441), `clock` 0 (R195), nothing resident, no partition, queue, launch or
ferry declared. The values the spec does not give are those of INVENTORY.md and log entries 1 to 6. -/
def State.reset : State := {}

/-- Why the machine stops. -/
inductive Fault where
  /-- raised by every instruction of the table when `cur` names no crew that the device holds: an instruction issues only for a crew (R28, R44).
  Safe: the machine stops where the hardware issues nothing. -/
  | noCrew
deriving DecidableEq, Repr

/-- Why a meaning refuses. -/
inductive Refusal where
  /-- an arm of exec that is not modelled yet. Safe: the model says nothing about the instruction. -/
  | notModelled (mnemonic : String)
deriving DecidableEq, Repr

end Sys2Proof.Machine

namespace Sys2Proof

/-- The bytes of the on-chip part of a checkpoint image, in the harbour firmware's layout, which the spec does not give (R439): a free value. -/
opaque Config.chipBytes : Machine.Snapshot → List Byte
/-- What the firmware makes of on-chip bytes that no checkpoint wrote (R447): a free value, since the spec does not give their layout. -/
opaque Config.chipState : List Byte → Machine.Snapshot

end Sys2Proof
end

