-- ==== Sys2Proof/Machine/Bits.lean ====
section
/-! DEFINITION. Operations on maps, bytes, masks and fixed-width numbers that every other file uses. -/

namespace Sys2Proof.Machine

/-- The entry at key `k`. -/
def mfind {α : Type} : Map α → Nat → Option α
  | [], _ => none
  | (j, x) :: r, k => if j = k then some x else mfind r k

/-- The entry at key `k`, or the default. -/
def mget {α : Type} (d : α) (m : Map α) (k : Nat) : α := (mfind m k).getD d

/-- Put `x` at key `k`, keeping the keys rising. -/
def minsert {α : Type} : Map α → Nat → α → Map α
  | [], k, x => [(k, x)]
  | (j, y) :: r, k, x => if k < j then (k, x) :: (j, y) :: r else if j = k then (k, x) :: r else (j, y) :: minsert r k x

/-- Remove the entry at key `k`. -/
def merase {α : Type} : Map α → Nat → Map α
  | [], _ => []
  | (j, y) :: r, k => if j = k then merase r k else (j, y) :: merase r k

/-- Put `x` at key `k` in a map whose unlisted keys read `d`: the default is never listed. -/
def mset {α : Type} [DecidableEq α] (d : α) (m : Map α) (k : Nat) (x : α) : Map α :=
  if x = d then merase m k else minsert m k x

/-- Canonical form: keys strictly rising and no entry equal to the default. -/
def mcanon {α : Type} [DecidableEq α] (d : α) : Map α → Bool
  | [] => true
  | [(_, x)] => x != d
  | (j, x) :: (k, y) :: r => j < k && x != d && mcanon d ((k, y) :: r)

/-- Keys strictly rising. -/
def mrising {α : Type} : Map α → Bool
  | [] => true
  | [_] => true
  | (j, _) :: (k, y) :: r => j < k && mrising ((k, y) :: r)

/-- Apply `g` to the entry at `k` if there is one. -/
def mmodify {α : Type} : Map α → Nat → (α → α) → Map α
  | [], _, _ => []
  | (j, x) :: r, k, g => if j = k then (j, g x) :: r else (j, x) :: mmodify r k g

/-- The lanes of a mask, in ascending order (R7). -/
def lanes (m : Mask) : List Nat := (List.range 32).filter (fun L => m.getLsbD L)

/-- The mask of one lane. -/
def bit (L : Nat) : Mask := BitVec.ofNat 32 (2 ^ L)

/-- The mask of the lanes for which `p` holds. -/
def maskOf (p : Nat → Bool) : Mask :=
  (List.range 32).foldl (fun m L => if p L then m ||| bit L else m) 0

/-- The lowest lane of a mask, 0 for the empty mask. -/
def lowest (m : Mask) : Nat := (lanes m).headD 0

/-- Sign-extend a word to a double. -/
def sext64 (w : Word) : Dword := w.signExtend 64

/-- Join two words, the first holding bits [31:0] (R4). -/
def join (lo hi : Word) : Dword := hi ++ lo

/-- Bits [31:0] and [63:32] of a double. -/
def loWord (d : Dword) : Word := d.setWidth 32
/-- Bits [63:32] of a double. -/
def hiWord (d : Dword) : Word := (d >>> 32).setWidth 32

/-- A word as an integer, two's complement. -/
def S32 (w : Word) : Int := w.toInt

/-- A word from an integer, modulo 2^32. -/
def W32 (i : Int) : Word := BitVec.ofInt 32 i

/-- Bits [hi:lo] of a number. -/
def fld (x hi lo : Nat) : Nat := x / 2 ^ lo % 2 ^ (hi + 1 - lo)

/-- Bytes of a number, lowest first (R1). -/
def natBytes : Nat → Nat → List Byte
  | 0, _ => []
  | n + 1, x => BitVec.ofNat 8 x :: natBytes n (x / 256)

/-- The number whose bytes are these, lowest first (R1). -/
def bytesNat : List Byte → Nat
  | [] => 0
  | b :: r => b.toNat + 256 * bytesNat r

/-- `n` bytes of a list from offset `o`, as a number. -/
def at_ (bs : List Byte) (o n : Nat) : Nat := bytesNat ((bs.drop o).take n)

/-- Whether every listed byte range (offset, count) of a record is zero. -/
def zeroAt (bs : List Byte) (rs : List (Nat × Nat)) : Bool := rs.all (fun r => at_ bs r.1 r.2 == 0)

/-- The first key, counting up from `k`, that a list does not contain. -/
def firstFree (used : List Nat) : Nat → Nat → Nat
  | 0, k => k
  | n + 1, k => if used.contains k then firstFree used n (k + 1) else k

/-- Sort by a key, stable, by insertion. -/
def insertBy {α : Type} (key : α → Nat) (x : α) : List α → List α
  | [] => [x]
  | y :: r => if key x < key y then x :: y :: r else y :: insertBy key x r

/-- Sort by a key, stable. -/
def sortBy {α : Type} (key : α → Nat) (l : List α) : List α := l.foldl (fun acc x => insertBy key x acc) []

/-- One byte of the CRC-32 of R332, bit by bit, lowest bit first. -/
def crcByte : Nat → Nat → Nat
  | 0, c => c
  | n + 1, c => crcByte n (if c % 2 == 1 then (c / 2) ^^^ 0xEDB88320 else c / 2)

/-- CRC-32 of IEEE 802.3 (R332). -/
def crc32 (bs : List Byte) : Nat := (bs.foldl (fun c b => crcByte 8 (c ^^^ b.toNat)) 0xFFFFFFFF) ^^^ 0xFFFFFFFF

/-- The entry with the least key, the first among equals. -/
def least {α : Type} (key : α → Nat) : List α → Option α
  | [] => none
  | x :: r =>
    match least key r with
    | none => some x
    | some y => if key y < key x then some y else some x

/-- The cycles of a time in microseconds on the 700 MHz clock (R3, R195). -/
def us (n : Nat) : Nat := 700 * n

end Sys2Proof.Machine
end

