-- ==== Sys2Proof/Machine/Float.lean ====
section
/-! DEFINITION. Number formats and exact arithmetic (R52 to R73): decoding and rounding in every binary format, sums, products, quotients, roots,
the four elementary functions, conversions and block floating point. Values are exact: a finite value is ± m × 2^e. -/

namespace Sys2Proof.Machine

/-- A binary floating-point format: exponent bits and fraction bits (R53). -/
structure Fmt where
  eb : Nat
  fb : Nat
deriving DecidableEq, Repr

/-- IEEE binary64 (R53). -/
def F64 : Fmt := ⟨11, 52⟩
/-- IEEE binary32 (R53). -/
def F32 : Fmt := ⟨8, 23⟩
/-- IEEE binary16 (R53). -/
def H16 : Fmt := ⟨5, 10⟩
/-- The 16-bit format with 8 exponent bits (R53). -/
def B16 : Fmt := ⟨8, 7⟩
/-- The accumulator format (R53). -/
def A80 : Fmt := ⟨15, 64⟩

/-- Exponent bias (R53). -/
def bias (f : Fmt) : Nat := 2 ^ (f.eb - 1) - 1

/-- A decoded value: NaN (signalling or not), infinity, or ± m × 2^e, where m = 0 is a signed zero (R54). -/
inductive FVal where
  | nan (sig : Bool)
  | inf (neg : Bool)
  | fin (neg : Bool) (m : Nat) (e : Int)
deriving DecidableEq, Repr

/-- Decode the bits of a format (R54). -/
def fdec (f : Fmt) (x : Nat) : FVal :=
  let fr := x % 2 ^ f.fb
  let ex := x / 2 ^ f.fb % 2 ^ f.eb
  let sg := x / 2 ^ (f.fb + f.eb) % 2 == 1
  if ex == 2 ^ f.eb - 1 then
    if fr == 0 then .inf sg else .nan (fr < 2 ^ (f.fb - 1))
  else if ex == 0 then .fin sg fr (1 - (bias f : Int) - f.fb)
  else .fin sg (2 ^ f.fb + fr) ((ex : Int) - bias f - f.fb)

/-- The canonical NaN (R67). -/
def cnan (f : Fmt) : Nat := (2 ^ f.eb - 1) * 2 ^ f.fb + 2 ^ (f.fb - 1)
/-- An infinity. -/
def infBits (f : Fmt) (neg : Bool) : Nat := (if neg then 2 ^ (f.eb + f.fb) else 0) + (2 ^ f.eb - 1) * 2 ^ f.fb
/-- A signed zero. -/
def zeroBits (f : Fmt) (neg : Bool) : Nat := if neg then 2 ^ (f.eb + f.fb) else 0
/-- The largest finite value. -/
def maxBits (f : Fmt) (neg : Bool) : Nat := infBits f neg - 1

/-- The flags of R66. -/
def fNX : Word := 1
/-- Underflow (R66). -/
def fUF : Word := 2
/-- Overflow (R66). -/
def fOF : Word := 4
/-- Divide by zero (R66). -/
def fDZ : Word := 8
/-- Invalid (R66). -/
def fNV : Word := 16

/-- A result with the flags it raises. -/
abbrev FRes := Nat × Word

/-- Round up the magnitude? `r` is the remainder below the last place of size `2^k` units, `q` the truncated magnitude (R64, R65). -/
def roundUp (mode : BitVec 2) (neg : Bool) (q r k : Nat) : Bool :=
  if r == 0 then false
  else if mode == 0 then (2 * r > 2 ^ k) || (2 * r == 2 ^ k && q % 2 == 1)
  else if mode == 1 then false
  else if mode == 2 then !neg
  else neg

/-- The overflow result (R65). -/
def overflowBits (f : Fmt) (mode : BitVec 2) (neg : Bool) : Nat :=
  if mode == 0 then infBits f neg
  else if mode == 1 then maxBits f neg
  else if mode == 2 then (if neg then maxBits f neg else infBits f neg)
  else (if neg then infBits f neg else maxBits f neg)

/-- Round the exact value ± m × 2^e, m > 0, to a format (R65). -/
def fround (f : Fmt) (mode : BitVec 2) (neg : Bool) (m : Nat) (e : Int) : FRes :=
  if m == 0 then (zeroBits f neg, 0)
  else
    let top : Int := e + Nat.log2 m
    let emin : Int := 1 - (bias f : Int)
    let tiny := top < emin
    let qe : Int := (if tiny then emin else top) - f.fb
    let up := (e - qe).toNat
    let k := (qe - e).toNat
    let m' := m * 2 ^ up
    let q := m' / 2 ^ k
    let r := m' % 2 ^ k
    let q' := if roundUp mode neg q r k then q + 1 else q
    let base := if tiny then 0 else (qe + f.fb - emin).toNat * 2 ^ f.fb
    let mag := base + q'
    let nx := r != 0
    if mag ≥ (2 ^ f.eb - 1) * 2 ^ f.fb then (overflowBits f mode neg, fOF ||| fNX)
    else (zeroBits f neg + mag, (if nx then fNX else 0) ||| (if nx && tiny then fUF else 0))

/-- Sign of an exact zero sum (R65): the common sign of two zeros, else by the mode. -/
def zeroSign (mode : BitVec 2) : Bool := mode == 3

/-- An exact dyadic number n × 2^e. -/
abbrev Dy := Int × Int

/-- Align two dyadic numbers and add them. -/
def dyAdd (a b : Dy) : Dy :=
  let e := min a.2 b.2
  (a.1 * 2 ^ (a.2 - e).toNat + b.1 * 2 ^ (b.2 - e).toNat, e)

/-- Product of two dyadic numbers. -/
def dyMul (a b : Dy) : Dy := (a.1 * b.1, a.2 + b.2)

/-- Comparison of two dyadic numbers. -/
def dyLt (a b : Dy) : Bool :=
  let e := min a.2 b.2
  a.1 * 2 ^ (a.2 - e).toNat < b.1 * 2 ^ (b.2 - e).toNat

/-- The signed integer of a finite value's significand. -/
def sgn (neg : Bool) (m : Nat) : Int := if neg then -(m : Int) else m

/-- Round a dyadic number; `z` is the sign of an exact zero. -/
def dyRound (f : Fmt) (mode : BitVec 2) (z : Bool) (a : Dy) : FRes :=
  if a.1 == 0 then (zeroBits f z, 0) else fround f mode (a.1 < 0) a.1.natAbs a.2

/-- The value is a NaN. -/
def isNan : FVal → Bool
  | .nan _ => true
  | _ => false
/-- The value is a signalling NaN. -/
def isSnan : FVal → Bool
  | .nan s => s
  | _ => false
/-- The value is a zero of either sign. -/
def isZero : FVal → Bool
  | .fin _ m _ => m == 0
  | _ => false
/-- The value is an infinity. -/
def isInf : FVal → Bool
  | .inf _ => true
  | _ => false
/-- The sign of a value. -/
def isNeg : FVal → Bool
  | .fin s _ _ => s
  | .inf s => s
  | .nan _ => false

/-- NV when some operand is an sNaN (R66). -/
def nvIf (b : Bool) : Word := if b then fNV else 0

/-- a + b rounded once (R196, R65). -/
def fadd (f : Fmt) (mode : BitVec 2) (a b : FVal) : FRes :=
  match a, b with
  | .nan s, y => (cnan f, nvIf (s || isSnan y))
  | x, .nan s => (cnan f, nvIf (s || isSnan x))
  | .inf s, .inf t => if s == t then (infBits f s, 0) else (cnan f, fNV)
  | .inf s, .fin .. => (infBits f s, 0)
  | .fin .., .inf t => (infBits f t, 0)
  | .fin s m e, .fin t n g =>
    dyRound f mode (if m == 0 && n == 0 && s == t then s else zeroSign mode) (dyAdd (sgn s m, e) (sgn t n, g))

/-- The value with its sign inverted; a NaN stays what it is. -/
def fneg : FVal → FVal
  | .fin s m e => .fin (!s) m e
  | .inf s => .inf (!s)
  | .nan s => .nan s

/-- a × b rounded once (R196). -/
def fmul (f : Fmt) (mode : BitVec 2) (a b : FVal) : FRes :=
  match a, b with
  | .nan s, y => (cnan f, nvIf (s || isSnan y))
  | x, .nan s => (cnan f, nvIf (s || isSnan x))
  | .inf s, y => if isZero y then (cnan f, fNV) else (infBits f (s != isNeg y), 0)
  | x, .inf t => if isZero x then (cnan f, fNV) else (infBits f (t != isNeg x), 0)
  | .fin s m e, .fin t n g => fround f mode (s != t) (m * n) (e + g)

/-- a × b + c rounded once (R196): 0 × ∞ sets NV even beside a quiet NaN. -/
def ffma (f : Fmt) (mode : BitVec 2) (a b c : FVal) : FRes :=
  let bad := (isZero a && isInf b) || (isInf a && isZero b)
  if isNan a || isNan b || isNan c then (cnan f, nvIf (bad || isSnan a || isSnan b || isSnan c))
  else if bad then (cnan f, fNV)
  else
    let ps := isNeg a != isNeg b
    if isInf a || isInf b then
      match c with
      | .inf t => if t == ps then (infBits f ps, 0) else (cnan f, fNV)
      | _ => (infBits f ps, 0)
    else
      match a, b, c with
      | .fin _ m e, .fin _ n g, .fin t k h =>
        dyRound f mode (if m * n == 0 && k == 0 && ps == t then t else zeroSign mode) (dyAdd (sgn ps (m * n), e + g) (sgn t k, h))
      | _, _, .inf t => (infBits f t, 0)
      | _, _, _ => (cnan f, 0)

/-- a / b rounded once (R196). -/
def fdiv (f : Fmt) (mode : BitVec 2) (a b : FVal) : FRes :=
  match a, b with
  | .nan s, y => (cnan f, nvIf (s || isSnan y))
  | x, .nan s => (cnan f, nvIf (s || isSnan x))
  | .inf _, .inf _ => (cnan f, fNV)
  | .inf s, .fin t _ _ => (infBits f (s != t), 0)
  | .fin s _ _, .inf t => (zeroBits f (s != t), 0)
  | .fin s m e, .fin t n g =>
    if n == 0 then (if m == 0 then (cnan f, fNV) else (infBits f (s != t), fDZ))
    else if m == 0 then (zeroBits f (s != t), 0)
    else
      let k := f.fb + 4 + Nat.log2 n
      let q := m * 2 ^ k / n
      let st := if m * 2 ^ k % n == 0 then 0 else 1
      fround f mode (s != t) (2 * q + st) (e - g - k - 1)

/-- Integer square root, one bit of the root at a time: the greatest `s` below `2^n` with `s² ≤ x`. -/
def isqrt (x : Nat) : Nat → Nat → Nat
  | 0, s => s
  | n + 1, s => let t := s + 2 ^ n; if t * t ≤ x then isqrt x n t else isqrt x n s

/-- Square root of a number. -/
def nsqrt (x : Nat) : Nat := isqrt x (Nat.log2 x / 2 + 1) 0

/-- √a rounded once (R196). -/
def fsqrt (f : Fmt) (mode : BitVec 2) (a : FVal) : FRes :=
  match a with
  | .nan s => (cnan f, nvIf s)
  | .inf s => if s then (cnan f, fNV) else (infBits f false, 0)
  | .fin s m e =>
    if m == 0 then (zeroBits f s, 0)
    else if s then (cnan f, fNV)
    else
      let odd := e % 2 != 0
      let m1 := if odd then 2 * m else m
      let e1 := if odd then e - 1 else e
      let k := f.fb + 4
      let x := m1 * 2 ^ (2 * k)
      let r := nsqrt x
      fround f mode false (2 * r + (if r * r == x then 0 else 1)) (e1 / 2 - k - 1)

/-- 1 / √a rounded once (R196). -/
def frsq (f : Fmt) (mode : BitVec 2) (a : FVal) : FRes :=
  match a with
  | .nan s => (cnan f, nvIf s)
  | .inf s => if s then (cnan f, fNV) else (zeroBits f false, 0)
  | .fin s m e =>
    if m == 0 then (infBits f s, fDZ)
    else if s then (cnan f, fNV)
    else
      let odd := e % 2 != 0
      let m1 := if odd then 2 * m else m
      let e1 := if odd then e - 1 else e
      let k := f.fb + 6 + Nat.log2 m1
      let x := 2 ^ (2 * k) / m1
      let r := nsqrt x
      let ex := r * r == x && 2 ^ (2 * k) % m1 == 0
      fround f mode false (2 * r + (if ex then 0 else 1)) (-(e1 / 2) - k - 1)

/-- a < b in the order in which −0 lies below +0; neither is a NaN (R68). -/
def ltSigned (a b : FVal) : Bool :=
  match a, b with
  | .inf s, .inf t => s && !t
  | .inf s, _ => s
  | _, .inf t => !t
  | .fin s m e, .fin t n g => if m == 0 && n == 0 then s && !t else dyLt (sgn s m, e) (sgn t n, g)
  | _, _ => false

/-- a < b with −0 equal to +0; false when either is a NaN (R198). -/
def fltv (a b : FVal) : Bool := !(isNan a) && !(isNan b) && !(isZero a && isZero b) && ltSigned a b
/-- a = b with −0 equal to +0; false when either is a NaN (R198). -/
def feqv (a b : FVal) : Bool := !(isNan a) && !(isNan b) && !(fltv a b) && !(fltv b a)

/-- FMIN or FMAX on bits (R68). -/
def fminmax (f : Fmt) (isMax : Bool) (x y : Nat) : FRes :=
  let a := fdec f x
  let b := fdec f y
  let nv := nvIf (isSnan a || isSnan b)
  if isNan a && isNan b then (cnan f, nv)
  else if isNan a then (y, nv)
  else if isNan b then (x, nv)
  else if isMax then (if ltSigned a b then y else x, nv)
  else (if ltSigned b a then y else x, nv)

/-- The magnitude of ± m × 2^e rounded to an integer, and whether it is inexact. -/
def roundNat (mode : BitVec 2) (neg : Bool) (m : Nat) (e : Int) : Nat × Bool :=
  if 0 ≤ e then (m * 2 ^ e.toNat, false)
  else
    let k := (-e).toNat
    let q := m / 2 ^ k
    let r := m % 2 ^ k
    (if roundUp mode neg q r k then q + 1 else q, r != 0)

/-- Round to an integral value of the format, keeping the sign of a zero (R200). -/
def frint (f : Fmt) (mode : BitVec 2) (nxOn : Bool) (x : Nat) : FRes :=
  match fdec f x with
  | .nan s => (cnan f, nvIf s)
  | .inf s => (infBits f s, 0)
  | .fin s m e =>
    let r := roundNat mode s m e
    ((fround f 0 s r.1 0).1, if r.2 && nxOn then fNX else 0)

/-- FCLASS (R199): the bit of the class. -/
def fclassBit (x : Nat) : Nat :=
  match fdec F32 x with
  | .inf true => 0
  | .inf false => 7
  | .nan true => 8
  | .nan false => 9
  | .fin s m _ =>
    if m == 0 then (if s then 3 else 4)
    else if m < 2 ^ 23 then (if s then 2 else 5)
    else (if s then 1 else 6)

/-! ## The elementary functions (R197)

A function value lies in an interval given by a fixed-point number of `p` places and an error; both ends are rounded, and when they agree that is the
correctly rounded value. Arguments so small that the value differs from 1 or from the argument by less than a quarter of the last place are
rounded from the side on which the value lies. -/

/-- ln 2 in units of 2^-p, from below; Σ 1 / (k 2^k). -/
def ln2Sum (p : Nat) : Nat → Nat
  | 0 => 0
  | k + 1 => ln2Sum p k + 2 ^ p / ((k + 1) * 2 ^ (k + 1))
/-- ln 2 in units of 2^-p, low by at most p + 2 units. -/
def ln2 (p : Nat) : Nat := ln2Sum p p

/-- Σ y^k / k! in units of 2^-p from the term `t` of index `k` on. -/
def expSum (p y : Nat) : Nat → Nat → Nat → Nat → Nat
  | 0, _, _, acc => acc
  | n + 1, k, t, acc => expSum p y n (k + 1) (t * y / 2 ^ p / (k + 1)) (acc + t)

/-- arctan (1 / q) in units of 2^-p: Σ (−1)^k / ((2k + 1) q^(2k+1)). -/
def atanSum (p q : Nat) : Nat → Nat → Nat → Int → Int
  | 0, _, _, acc => acc
  | n + 1, k, t, acc =>
    let c : Int := t / (2 * k + 1)
    atanSum p q n (k + 1) (t / (q * q)) (if k % 2 == 0 then acc + c else acc - c)

/-- π in units of 2^-p, within 8 p units: 16 arctan (1/5) − 4 arctan (1/239). -/
def piFix (p : Nat) : Int :=
  16 * atanSum p 5 (p / 4 + 2) 0 (2 ^ p / 5) 0 - 4 * atanSum p 239 (p / 15 + 2) 0 (2 ^ p / 239) 0

/-- Σ of the sine (`odd`) or cosine series of `y` in units of 2^-p: `t` is the term of degree `k`. -/
def trigSum (p : Nat) (y : Nat) : Nat → Nat → Nat → Bool → Int → Int
  | 0, _, _, _, acc => acc
  | n + 1, k, t, s, acc =>
    trigSum p y n (k + 2) (t * y / 2 ^ p * y / 2 ^ p / ((k + 1) * (k + 2))) (!s) (if s then acc - t else acc + t)

/-- 2 artanh t in units of 2^-p: 2 Σ t^(2k+1) / (2k + 1). -/
def artanhSum (p t : Nat) : Nat → Nat → Nat → Nat → Nat
  | 0, _, _, acc => 2 * acc
  | n + 1, k, u, acc => artanhSum p t n (k + 1) (u * t / 2 ^ p * t / 2 ^ p) (acc + u / (2 * k + 1))

/-- Round the two ends of an interval around `x`, in units of 2^e, with error `err`; `none` when they differ. -/
def roundEnds (mode : BitVec 2) (x : Int) (err : Nat) (e : Int) : Option FRes :=
  let a := dyRound F32 mode false (x - err, e)
  let b := dyRound F32 mode false (x + err, e)
  let nx := fun (r : FRes) => (r.1, r.2 ||| fNX)
  if x - err ≤ 0 && 0 ≤ x + err then none
  else if nx a == nx b then some (nx a) else none

/-- 2^a for a = ± m × 2^e, not an integer, with precision `p` (R197). -/
def exp2At (p : Nat) (mode : BitVec 2) (neg : Bool) (m : Nat) (e : Int) : Option FRes :=
  let x : Int := sgn neg m * 2 ^ (e + p).toNat / 2 ^ (-(e + p)).toNat
  let n := x / 2 ^ p
  let fr := (x % 2 ^ p).toNat
  let y := fr * ln2 p / 2 ^ p
  roundEnds mode (expSum p y (p / 2) 0 (2 ^ p) 0) (4 * p) (n - p)

/-- log2 of m × 2^e, not a power of two, with precision `p` (R197). -/
def log2At (p : Nat) (mode : BitVec 2) (m : Nat) (e : Int) : Option FRes :=
  let k := Nat.log2 m
  let z := m * 2 ^ p / 2 ^ k
  let t := (z - 2 ^ p) * 2 ^ p / (z + 2 ^ p)
  let l := artanhSum p t (p / 3 + 2) 0 t 0 * 2 ^ p / ln2 p
  roundEnds mode ((e + k) * 2 ^ p + l) (16 * p) (-(p : Int))

/-- sin or cos of ± m × 2^e with precision `p` (R197): reduced by multiples of π/2 with `p + 160` places. -/
def trigAt (p : Nat) (mode : BitVec 2) (isCos : Bool) (neg : Bool) (m : Nat) (e : Int) : Option FRes :=
  let w := p + 160
  let x : Int := m * 2 ^ (e + w).toNat / 2 ^ (-(e + w)).toNat
  let h := piFix w / 2
  let n := x / h
  let r := x - n * h
  let y := (r / 2 ^ 160).toNat
  let q := (if isCos then n + 1 else n) % 4
  let v := if q % 2 == 0 then trigSum p y (p / 4 + 8) 1 y false 0 else trigSum p y (p / 4 + 8) 0 (2 ^ p) false 0
  let v1 := if q ≥ 2 then -v else v
  roundEnds mode (if neg && !isCos then -v1 else v1) (2 * p) (-(p : Int))

/-- The first of three precisions at which both ends agree; `z` when none does (log entry 7). -/
def firstSome (z : Word) (g : Nat → Option FRes) : FRes :=
  match g 192 with
  | some r => r
  | none =>
    match g 448 with
    | some r => r
    | none => (g 1024).getD (z.toNat, fNX)

/-- FEXP2 (R197). -/
def fexp2 (mode : BitVec 2) (a : FVal) : FRes :=
  match a with
  | .nan s => (cnan F32, nvIf s)
  | .inf s => (if s then 0 else infBits F32 false, 0)
  | .fin s m e =>
    if m == 0 then (fround F32 0 false 1 0)
    else
      let top : Int := e + Nat.log2 m
      if 8 ≤ top then (if s then fround F32 mode false 1 (-600) else fround F32 mode false 1 600)
      else if top < -27 then fround F32 mode false (if s then 2 ^ 60 - 1 else 2 ^ 60 + 1) (-60)
      else
        let i := roundNat 1 s m e
        if !i.2 then fround F32 mode false 1 (sgn s i.1)
        else firstSome (Config.elemLast 0 s m e) (fun p => exp2At p mode s m e)

/-- FLOG2 (R197). -/
def flog2 (mode : BitVec 2) (a : FVal) : FRes :=
  match a with
  | .nan s => (cnan F32, nvIf s)
  | .inf s => if s then (cnan F32, fNV) else (infBits F32 false, 0)
  | .fin s m e =>
    if m == 0 then (infBits F32 true, fDZ)
    else if s then (cnan F32, fNV)
    else if m == 2 ^ Nat.log2 m then
      let n : Int := e + Nat.log2 m
      dyRound F32 mode false (n, 0)
    else firstSome (Config.elemLast 1 s m e) (fun p => log2At p mode m e)

/-- FSIN (R197). -/
def fsin (mode : BitVec 2) (a : FVal) : FRes :=
  match a with
  | .nan s => (cnan F32, nvIf s)
  | .inf _ => (cnan F32, fNV)
  | .fin s m e =>
    if m == 0 then (zeroBits F32 s, 0)
    else if e + Nat.log2 m < -13 then fround F32 mode s (m * 2 ^ 60 - 1) (e - 60)
    else firstSome (Config.elemLast 2 s m e) (fun p => trigAt p mode false s m e)

/-- FCOS (R197). -/
def fcos (mode : BitVec 2) (a : FVal) : FRes :=
  match a with
  | .nan s => (cnan F32, nvIf s)
  | .inf _ => (cnan F32, fNV)
  | .fin s m e =>
    if m == 0 then fround F32 0 false 1 0
    else if e + Nat.log2 m < -14 then fround F32 mode false (2 ^ 60 - 1) (-60)
    else firstSome (Config.elemLast 3 s m e) (fun p => trigAt p mode true s m e)

/-! ## Conversions (R71) -/

/-- Float to float (R71): one rounding; an sNaN gives the canonical NaN with NV. -/
def cvtFF (src dst : Fmt) (mode : BitVec 2) (x : Nat) : FRes :=
  match fdec src x with
  | .nan s => (cnan dst, nvIf s)
  | .inf s => (infBits dst s, 0)
  | .fin s m e => if m == 0 then (zeroBits dst s, 0) else fround dst mode s m e

/-- Float to integer of width `w`, signed or not (R71); the result is modulo 2^w. -/
def cvtFI (src : Fmt) (w : Nat) (signed : Bool) (mode : BitVec 2) (x : Nat) : FRes :=
  let lo : Int := if signed then -(2 ^ (w - 1)) else 0
  let hi : Int := if signed then 2 ^ (w - 1) - 1 else 2 ^ w - 1
  let out := fun (i : Int) => (i % 2 ^ w).toNat
  match fdec src x with
  | .nan _ => (0, fNV)
  | .inf s => (out (if s then lo else hi), fNV)
  | .fin s m e =>
    let r := roundNat mode s m e
    let i := sgn s r.1
    if i < lo then (out lo, fNV)
    else if hi < i then (out hi, fNV)
    else (out i, if r.2 then fNX else 0)

/-- Integer to float, rounded by R65: zero takes its sign from the mode (R71). -/
def cvtIF (dst : Fmt) (mode : BitVec 2) (i : Int) : FRes := dyRound dst mode (zeroSign mode) (i, 0)

/-! ## Block floating point (R59 to R62) -/

/-- Value of a mantissa under shared exponent E (R60); `none` for a NaN block. -/
def bfpVal (b E : Nat) (m : Int) : FVal :=
  if E == 255 then .nan false else .fin (m < 0) m.natAbs ((E : Int) - 127 - (b - 1))

/-- A decoded block element as F32 bits (R60): always exact. -/
def bfpF32 (b E : Nat) (m : Int) : Nat :=
  match bfpVal b E m with
  | .fin s k e => if k == 0 then 0 else (fround F32 0 s k e).1
  | _ => cnan F32

/-- The 6-bit bit reversal D[j] (R62). -/
def dither (j : Nat) : Nat :=
  32 * (j % 2) + 16 * (j / 2 % 2) + 8 * (j / 4 % 2) + 4 * (j / 8 % 2) + 2 * (j / 16 % 2) + j / 32 % 2

/-- The mantissa q of `x` at scale 2^se: RNE, or dithered with threshold `dth` (R61). -/
def bfpQ (dith : Bool) (dth : Nat) (x : Dy) (se : Int) : Int :=
  let k := x.2 - se
  if 0 ≤ k then x.1 * 2 ^ k.toNat
  else
    let d := (2 : Int) ^ (-k).toNat
    if dith then (64 * x.1 + dth * d) / (64 * d)
    else
      let r := roundNat 0 (x.1 < 0) x.1.natAbs k
      if x.1 < 0 then -(r.1 : Int) else r.1

/-- An element of a block to encode: an exact value or an infinity. -/
abbrev BElem := Option Bool × Dy

/-- The mantissas at exponent E, and whether every one fits (R61). An infinite element never fits. -/
def bfpTry (b : Nat) (dith : Bool) (phi : Nat) (xs : List (Nat × BElem)) (E : Nat) : List Int × Bool :=
  let se : Int := (E : Int) - 127 - (b - 1)
  let qs := xs.map (fun x => bfpQ dith (dither ((x.1 + phi) % 64)) x.2.2 se)
  (qs, xs.all (fun x => x.2.1 == none) && qs.all (fun q => -(2 ^ (b - 1)) ≤ q && q ≤ 2 ^ (b - 1) - 1))

/-- The least exponent from E on that fits (R61), searched for `fuel` exponents. -/
def bfpFind (b : Nat) (dith : Bool) (phi : Nat) (xs : List (Nat × BElem)) : Nat → Nat → Option (Nat × List Int)
  | 0, _ => none
  | n + 1, E => let t := bfpTry b dith phi xs E; if t.2 then some (E, t.1) else bfpFind b dith phi xs n (E + 1)

/-- An encoded block: E, the mantissas, which elements are not encoded exactly, whether it saturated, whether it is a NaN block. -/
structure BBlock where
  E : Nat
  m : List Int
  inexact : List Bool
  sat : Bool
  nan : Bool
deriving DecidableEq, Repr

/-- `bfp_enc` (R61) of the values `vs`. -/
def bfpEncV (b : Nat) (dith : Bool) (t : Nat) (vs : List FVal) : BBlock :=
  if vs.any isNan then { E := 255, m := vs.map (fun _ => 0), inexact := vs.map (fun _ => false), sat := false, nan := true }
  else
    let phi := 17 * t % 64
    let es : List (Nat × BElem) := vs.zipIdx.map (fun v =>
      (v.2, match v.1 with
        | .fin s m e => (none, (sgn s m, e))
        | .inf s => (some s, (0, 0))
        | .nan _ => (none, (0, 0))))
    let exactAt := fun (E : Nat) (q : Int) (x : BElem) =>
      x.1 == none && (dyAdd (q, (E : Int) - 127 - (b - 1)) (-x.2.1, x.2.2)).1 == 0
    match bfpFind b dith phi es 255 0 with
    | some (E, qs) => { E := E, m := qs, inexact := (qs.zip es).map (fun z => !exactAt E z.1 z.2.2), sat := false, nan := false }
    | none =>
      let lo : Int := -(2 ^ (b - 1))
      let hi : Int := 2 ^ (b - 1) - 1
      let qs := ((bfpTry b dith phi es 254).1.zip es).map (fun z =>
        match z.2.2.1 with
        | some s => if s then lo else hi
        | none => max lo (min hi z.1))
      { E := 254, m := qs, inexact := (qs.zip es).map (fun z => !exactAt 254 z.1 z.2.2), sat := true, nan := false }

/-- `bfp_enc` of F32 values. -/
def bfpEnc (b : Nat) (dith : Bool) (t : Nat) (xs : List Nat) : BBlock := bfpEncV b dith t (xs.map (fdec F32))

/-- Mantissa i of a packed bit string (R59), as a signed integer. -/
def bfpMant (b : Nat) (bits i : Nat) : Int :=
  let u := bits / 2 ^ (i * b) % 2 ^ b
  if u < 2 ^ (b - 1) then u else (u : Int) - 2 ^ b

/-- The packed bit string of mantissas (R59). -/
def bfpPack (b : Nat) : List Int → Nat
  | [] => 0
  | m :: r => (m % 2 ^ b).toNat + 2 ^ b * bfpPack b r

end Sys2Proof.Machine
end

