-- ==== Sys2Proof/Machine/Ops.lean ====
section
/-! DEFINITION. Named operations over memory, translation, fault records, the trace writer, a crew's registers and frontier, and the one shared
operation that takes an exception (R243 to R246), with the return from it (R251) beside it. -/

namespace Sys2Proof.Machine

/-! ## Physical memory -/

/-- What an unlisted byte of memory reads as (log entry 1). -/
def Memory.unlisted : Byte := 0
/-- Canonical form of memory: addresses strictly rising, no entry equal to what an unlisted address reads as. -/
def Memory.wf (m : Map Byte) : Bool := mcanon Memory.unlisted m
/-- Read one byte. -/
def Memory.read (m : Map Byte) (a : Nat) : Byte := mget Memory.unlisted m a
/-- Write one byte. -/
def Memory.write (m : Map Byte) (a : Nat) (b : Byte) : Map Byte := mset Memory.unlisted m a b
/-- `n` bytes from address `a`. -/
def Memory.bytes (m : Map Byte) (a n : Nat) : List Byte := (List.range n).map (fun k => Memory.read m (a + k))
/-- Write bytes from address `a` on. -/
def Memory.writes (m : Map Byte) (a : Nat) : List Byte → Map Byte
  | [] => m
  | b :: r => Memory.writes (Memory.write m a b) (a + 1) r

/-- 768 GiB of HBM4 (R426). -/
def hbmSize : Nat := 768 * 2 ^ 30
/-- First address of the second tier (R426). -/
def tierBase : Nat := 2 ^ 44
/-- 2 TiB of second tier (R426). -/
def tierSize : Nat := 2 * 2 ^ 40
/-- An address of HBM4. -/
def isHbm (pa : Nat) : Bool := pa < hbmSize
/-- An address of the second tier. -/
def isTier (pa : Nat) : Bool := tierBase ≤ pa && pa < tierBase + tierSize
/-- `n` bytes from `pa` lie in one region of R426. -/
def inMem (pa n : Nat) : Bool := pa + n ≤ hbmSize || (tierBase ≤ pa && pa + n ≤ tierBase + tierSize)
/-- The stack that holds an HBM4 address, which is its shelf (R426). -/
def stackOf (pa : Nat) : Nat := pa / (48 * 2 ^ 30)

/-- Bytes of physical memory. -/
def rdB (s : State) (pa n : Nat) : List Byte := Memory.bytes s.mem pa n
/-- A number of `n` bytes of physical memory (R1). -/
def rdN (s : State) (pa n : Nat) : Nat := bytesNat (rdB s pa n)
/-- Write bytes to physical memory. -/
def wrB (s : State) (pa : Nat) (bs : List Byte) : State := { s with mem := Memory.writes s.mem pa bs }
/-- Write a number of `n` bytes (R1). -/
def wrN (s : State) (pa n x : Nat) : State := wrB s pa (natBytes n x)

/-- Low-water service, stages 0x04 and 0x05 (R442, R443). -/
def lowWater (s : State) : Bool := s.stage == 0x04 || s.stage == 0x05

/-- The partition record. -/
def partOf (s : State) (p : Nat) : Part := mget {} s.parts p
/-- Bit `k` of a partition's recovery-mode word, 0 in low-water service (R25, R26). -/
def modeBit (s : State) (p k : Nat) : Bool := !(lowWater s) && (partOf s p).mode.getLsbD k

/-! ## Fault records (R253, R254) -/

/-- The 64 bytes of record `n` with STATE `st`. -/
def recBytes (n : Nat) (r : FRec) (st : Nat) : List Byte :=
  natBytes 8 r.stamp.toNat ++ [r.typ, (if r.hw then 1 else 0) ||| (if r.impr then 2 else 0), 0, 0] ++ natBytes 4 r.gcrew.toNat ++
  natBytes 4 r.lid.toNat ++ natBytes 4 r.part ++ natBytes 8 r.addr.toNat ++ natBytes 8 r.pc.toNat ++ natBytes 4 r.lanes.toNat ++
  natBytes 4 r.pcm.toNat ++ natBytes 8 r.detail.toNat ++ natBytes 4 n ++ natBytes 4 st

/-- Address of the slot of record `n`. -/
def recAddr (q : FaultQ) (n : Nat) : Nat := q.base + 64 * (n % 2 ^ q.log2)
/-- The next slot is free: its STATE is not 1. -/
def slotFree (s : State) : Bool := s.faultq.base != 0 && rdN s (recAddr s.faultq s.faultq.seq + 60) 4 != 1

/-- Acquire the answers in the slot that record `n` is to take. -/
def takeAnswers (s : State) (n : Nat) : State :=
  let q := s.faultq
  let here := q.open_.filter (fun p => p.1 % 2 ^ q.log2 == n % 2 ^ q.log2)
  if here.isEmpty then s
  else
    let st := rdN s (recAddr q n + 60) 4
    { s with faultq := { q with
      open_ := q.open_.filter (fun p => p.1 % 2 ^ q.log2 != n % 2 ^ q.log2), got := q.got ++ here.map (fun p => (st, p.2.1, p.2.2)) } }

/-- Write a record into the next slot and release it. -/
def putRec (s : State) (r : FRec) (o : RecOwner) : State :=
  let s := takeAnswers s s.faultq.seq
  let q := s.faultq
  let s1 := wrB s (recAddr q q.seq) (recBytes (q.seq % 2 ^ 32) r 1)
  { s1 with faultq := { q with seq := q.seq + 1, open_ := minsert q.open_ q.seq (r, o) } }

/-- Write what waits for a free slot: a LOST record first, then the records of parked owners (R254). DESIGN CHOICE (log entry 51): the HW bit of LOST is 0. -/
def flushRecs : Nat → State → State
  | 0, s => s
  | n + 1, s =>
    if !(slotFree s) then s
    else if s.faultq.dropped != 0 then
      let s1 := putRec s { typ := 0x86, detail := BitVec.ofNat 64 s.faultq.dropped } .nobody
      flushRecs n { s1 with faultq := { s1.faultq with dropped := 0 } }
    else
      match s.faultq.waiting with
      | [] => s
      | (r, o) :: w => flushRecs n (putRec { s with faultq := { s.faultq with waiting := w } } r o)

/-- A record can be written now. -/
def recRoom (s : State) : Bool := slotFree s && s.faultq.dropped == 0 && s.faultq.waiting.isEmpty

/-- Write a record; one whose owner parks on it waits for a slot when the queue is full, any other is dropped and counted (R254). -/
def postRec (s : State) (r : FRec) (o : RecOwner) : State :=
  let s := flushRecs (s.faultq.waiting.length + 2) s
  if recRoom s then putRec s r o
  else
    match o with
    | .nobody => { s with faultq := { s.faultq with dropped := s.faultq.dropped + 1 } }
    | .page _ => { s with faultq := { s.faultq with dropped := s.faultq.dropped + 1 } }
    | .comm _ => { s with faultq := { s.faultq with dropped := s.faultq.dropped + 1 } }
    | _ => { s with faultq := { s.faultq with waiting := s.faultq.waiting ++ [(r, o)] } }

/-! ## Errors, poison and page retirement (R435, R436) -/

/-- Who makes an access: for records, for the TLBs it looks in, and the address that it reads, which names the page of an error (R27). -/
structure Who where
  gcrew : Word := 0
  lid : Word := 0
  part : Nat := 0
  pc : Dword := 0
  isle : Option Nat := none
  va : Option Nat := none
deriving DecidableEq, Repr

/-- Queue the page of line `line` for retirement with a cause (R436), with the virtual page by which it was reached (R27). -/
def retirePage (s : State) (w : Who) (line cause : Nat) : State :=
  let page := line / 512
  if s.badPages.any (fun p => p.1 == page) then s
  else
    let full := s.badPages.length ≥ 4096
    let n := mget 0 s.corrCount line
    let s1 := if full then s else { s with badPages := s.badPages ++ [(page, cause)] }
    let s1 := match w.va with | some a => { s1 with reached := s1.reached ++ [(page, w.part, a / 65536)] } | none => s1
    postRec s1
      { typ := 0x84, gcrew := w.gcrew, lid := w.lid, part := w.part, pc := w.pc, addr := BitVec.ofNat 64 (line * 128)
        detail := BitVec.ofNat 64 (cause + (if full then 4 else 0) + 2 ^ 32 * n) } (.page line)

/-- A line is poisoned. -/
def isPoison (s : State) (line : Nat) : Bool := mget false s.poison line
/-- Poison a line. -/
def setPoison (s : State) (line : Nat) : State := { s with poison := mset false s.poison line true }
/-- Clear the poison of a line. -/
def clearPoison (s : State) (line : Nat) : State := { s with poison := mset false s.poison line false }

/-- Read one line: a latent error is corrected and counted, or poisons the line, with the cause of retirement `why` (3 for an atomic, R356); answers whether the line is poisoned
(R435, R436). -/
def probeLine (s : State) (w : Who) (line : Nat) (why : Nat := 1) : State × Bool :=
  if isPoison s line then (s, true)
  else
    match mfind s.ecc line with
    | none => (s, false)
    | some true => (retirePage (setPoison { s with ecc := merase s.ecc line } line) w line why, true)
    | some false =>
      let n := mget 0 s.corrCount line + 1
      let s1 := { s with ecc := merase s.ecc line, corrCount := minsert s.corrCount line n }
      (if n == 16 then retirePage s1 w line 2 else s1, false)

/-- The lines of `n` bytes from `pa`. -/
def linesOf (pa n : Nat) : List Nat := (List.range ((pa + n - 1) / 128 + 1 - pa / 128)).map (fun k => pa / 128 + k)

/-- Read the lines of `n` bytes from `pa`; answers whether some line is poisoned. -/
def probe (s : State) (w : Who) (pa n : Nat) (why : Nat := 1) : State × Bool :=
  (linesOf pa n).foldl (fun a l => let r := probeLine a.1 w l why; (r.1, a.2 || r.2)) (s, false)

/-- Some line of the range is poisoned. -/
def anyPoison (s : State) (pa n : Nat) : Bool := (linesOf pa n).any (isPoison s)

/-! ## Translation (R427 to R430) -/

/-- What an access needs of a page. -/
inductive Acc where
  | rd | wr | rw | fe
deriving DecidableEq, Repr

/-- A page: first virtual and physical address, size, attributes (R428). -/
structure Pg where
  va0 : Nat
  pa0 : Nat
  size : Nat
  ord : Bool
  sparse : Bool
  srnd : Bool
  geom : Nat
  fmt : Nat
  tier : Bool
deriving DecidableEq, Repr

/-- The physical address of a virtual address of the page. -/
def Pg.pa (p : Pg) (va : Nat) : Nat := p.pa0 + (va - p.va0)

/-- What a walk finds. -/
inductive WalkOut where
  | leaf (e : Nat) (size : Nat)
  | absent
  | malformed
  | poisoned (pa : Nat)
deriving DecidableEq, Repr

/-- Index position and width of the five levels (R427). -/
def walkLevels : List (Nat × Nat) := [(48, 8), (39, 9), (30, 9), (21, 9), (16, 5)]

/-- A reserved format code (R218). -/
def fmtReserved (f : Nat) : Bool := (4 ≤ f && f ≤ 7) || f == 15

/-- A leaf entry at a level of page size `size` is well-formed (R428, R429). -/
def leafOk (low : Bool) (e size : Nat) : Bool :=
  let pa := fld e 51 16 * 65536
  fld e 15 6 == 0 && fld e 1 1 == 0 && pa % size == 0 && inMem pa size && (fld e 62 62 == 1) == isTier pa &&
  !(fld e 60 60 == 1 && (fld e 55 52 == 0 || fmtReserved (fld e 55 52))) && !(low && isHbm pa)

/-- A table entry at level `l` is malformed, or its next table, of `size` bytes, lies where none may (R429). -/
def tableBad (low : Bool) (l e size : Nat) : Bool :=
  let nt := fld e 51 8 * 256
  l == 4 || fld e 63 52 != 0 || fld e 7 3 != 0 || fld e 1 1 != 0 || nt % size != 0 || !(inMem nt size) || (low && isHbm nt)
/-- Bytes of the first table of the remaining levels (R427). -/
def tableSize (r : List (Nat × Nat)) : Nat := match r with | (_, w) :: _ => 8 * 2 ^ w | [] => 1

/-- The walk (R429): one entry per level from table `t`. -/
def walkAt (s : State) (low : Bool) (va : Nat) : List (Nat × Nat) → Nat → Nat → WalkOut
  | [], _, _ => .malformed
  | (sh, w) :: r, l, t =>
    let ea := t + 8 * (va / 2 ^ sh % 2 ^ w)
    if isPoison s (ea / 128) then .poisoned ea
    else
      let e := rdN s ea 8
      if e % 2 == 0 then .absent
      else if fld e 2 2 == 0 then
        if tableBad low l e (tableSize r) then .malformed else walkAt s low va r (l + 1) (fld e 51 8 * 256)
      else if l < 2 || !(leafOk low e (2 ^ sh)) then .malformed
      else .leaf e (2 ^ sh)

/-- Read the entries of a walk, finding errors in their lines; the walk ends at an absent or malformed entry and at a leaf (R429, R435). -/
def walkProbe (w : Who) (va : Nat) : List (Nat × Nat) → Nat → State → State
  | [], _, s => s
  | (sh, n) :: r, t, s =>
    let ea := t + 8 * (va / 2 ^ sh % 2 ^ n)
    let p := probeLine s w (ea / 128)
    let e := rdN s ea 8
    if p.2 || e % 2 == 0 || fld e 2 2 == 1 || tableBad (lowWater s) (4 - r.length) e (tableSize r) then p.1 else walkProbe w va r (fld e 51 8 * 256) p.1

/-- The page of a leaf entry. DESIGN CHOICE (log entry 49): its attributes apply at both levels of the stack engine, since R24 names no defaults for SPARSE, ORD, tier and store
rounding at the basic level. -/
def leafPg (e size va : Nat) : Pg :=
  { va0 := va / size * size, pa0 := fld e 51 16 * 65536, size := size, ord := fld e 61 61 == 1, sparse := fld e 60 60 == 1
    srnd := fld e 59 59 == 1, geom := fld e 58 56, fmt := fld e 55 52, tier := fld e 62 62 == 1 }

/-- Whether a leaf grants an access: the cause when it does not (R429, R215). -/
def leafDenies (e : Nat) (a : Acc) : Option Byte :=
  let r := fld e 3 3 == 1
  let w := fld e 4 4 == 1
  let x := fld e 5 5 == 1
  let ok := match a with | .rd => r | .wr => w | .rw => r && w | .fe => x
  if !ok then some 0x11 else if fld e 63 63 == 1 then some 0x12 else none

/-- A translation held by a TLB of the accessing isle or its atoll (R430). -/
def tlbFind (s : State) (w : Who) (va : Nat) : Option (Nat × Nat) :=
  match w.isle with
  | none => none
  | some i =>
    let hit := fun (u : Nat) (x : Nat × Nat × Nat × Nat × Dword) => x.1 == u && x.2.1 == w.part && x.2.2.1 == va / x.2.2.2.1 * x.2.2.2.1
    match (s.tlbIsle.find? (hit i)).orElse (fun _ => s.tlbAtoll.find? (hit (i / 4))) with
    | some x => some (x.2.2.2.2.toNat, x.2.2.2.1)
    | none => none

/-- The leaf entry that translates a virtual address of the partition of `w`, whatever it grants. -/
def leafOf (s : State) (w : Who) (va : Nat) : Option Nat :=
  match mfind s.parts w.part with
  | none => none
  | some p =>
    match tlbFind s w va with
    | some (e, _) => some e
    | none => match walkAt s (lowWater s) va walkLevels 0 p.root with | .leaf e _ => some e | _ => none

/-- Translate a virtual address of the partition of `w` for an access (R427 to R430): the page, or the cause. -/
def xlate (s : State) (w : Who) (va : Nat) (a : Acc) : State × Except Byte Pg :=
  let judge := fun (e size : Nat) =>
    match leafDenies e a with
    | some c => Except.error c
    | none => .ok (leafPg e size va)
  match mfind s.parts w.part with
  | none => (s, .error 0x11)
  | some p =>
    match tlbFind s w va with
    | some (e, size) => (s, judge e size)
    | none =>
      let s := walkProbe w va walkLevels p.root s
      match walkAt s (lowWater s) va walkLevels 0 p.root with
      | .absent => (s, .error 0x10)
      | .malformed => (s, .error 0x11)
      | .poisoned _ => (s, .error 0x12)
      | .leaf e size => (s, judge e size)

/-- Read `n` bytes, which lie in one page, at a virtual address. -/
def vread (s : State) (w : Who) (va n : Nat) (a : Acc) : State × Except Byte (List Byte) :=
  match xlate s w va a with
  | (s, .error c) => (s, .error c)
  | (s, .ok p) =>
    let r := probe s { w with va := some va } (p.pa va) n
    if r.2 then (r.1, .error 0x12) else (r.1, .ok (rdB r.1 (p.pa va) n))

/-- Write bytes to physical memory under the poison rule of R435: a line written whole loses its poison, a partial write to a poisoned line faults. -/
def pwrite (s : State) (pa : Nat) (bs : List Byte) : State × Option Byte :=
  let whole := fun (l : Nat) => pa ≤ 128 * l && 128 * l + 128 ≤ pa + bs.length
  if s.poison.isEmpty then (wrB s pa bs, none)
  else if (linesOf pa bs.length).any (fun l => isPoison s l && !(whole l)) then (s, some 0x12)
  else (wrB (((linesOf pa bs.length).filter whole).foldl clearPoison s) pa bs, none)

/-- Write bytes, which lie in one page, at a virtual address; the cause when it faults. -/
def vwrite (s : State) (w : Who) (va : Nat) (bs : List Byte) : State × Option Byte :=
  match xlate s w va .wr with
  | (s, .error c) => (s, some c)
  | (s, .ok p) => pwrite s (p.pa va) bs

/-- Pieces of a byte range that do not cross a 64 KiB boundary: (address, length), at most `fuel` of them. -/
def pieces : Nat → Nat → Nat → List (Nat × Nat)
  | 0, _, _ => []
  | f + 1, va, n => if n == 0 then [] else let k := min n (65536 - va % 65536); (va, k) :: pieces f (va + k) (n - k)

/-- Read any byte range at a virtual address: the bytes, or the cause and the address of the first piece that faults. -/
def vreadAll (s : State) (w : Who) (va n : Nat) : State × Except (Byte × Nat) (List Byte) :=
  (pieces (n / 65536 + 2) va n).foldl (fun acc p =>
    match acc.2 with
    | .error e => (acc.1, .error e)
    | .ok bs =>
      match vread acc.1 w p.1 p.2 .rd with
      | (s, .ok b) => (s, .ok (bs ++ b))
      | (s, .error c) => (s, .error (c, p.1))) (s, .ok [])

/-- Write any byte range at a virtual address; the cause and address of the first piece that faults, with the earlier pieces written. -/
def vwriteAll (s : State) (w : Who) (va : Nat) (bs : List Byte) : State × Option (Byte × Nat) :=
  (pieces (bs.length / 65536 + 2) va bs.length).foldl (fun acc p =>
    match acc.2 with
    | some e => (acc.1, some e)
    | none =>
      match vwrite acc.1 w p.1 ((bs.drop (p.1 - va)).take p.2) with
      | (s, none) => (s, none)
      | (s, some c) => (s, some (c, p.1))) (s, none)

/-! ## Crews -/

/-- Update the crew at key `k`. -/
def updCrew (s : State) (k : Nat) (g : Crew → Crew) : State := { s with crews := mmodify s.crews k g }
/-- The crew at key `k`. -/
def crewAt (s : State) (k : Nat) : Crew := mget {} s.crews k
/-- The launch of a crew. -/
def launchOf (s : State) (c : Crew) : Launch := mget {} s.launches c.lid

/-- The isle of a `gcrew` (R36). -/
def isleOf (g : Word) : Nat := fld g.toNat 12 5
/-- The shelf of a `gcrew` (R36). -/
def shelfOf (g : Word) : Nat := fld g.toNat 12 9
/-- The issue slot of a `gcrew` (R36). -/
def slotOf (g : Word) : Nat := g.toNat % 4

/-- The crew as the maker of an access at address `pc`. -/
def whoOf (c : Crew) (pc : BitVec 56) : Who :=
  { gcrew := c.gcrew, lid := BitVec.ofNat 32 c.lid, part := c.part, pc := pc.setWidth 64, isle := some (isleOf c.gcrew) }

/-- Lane `L` of vector register `r` (R159). -/
def vget (c : Crew) (r L : Nat) : Word := mget 0 c.v (32 * r + L)
/-- Scalar register `r` (R159). -/
def sget (c : Crew) (r : Nat) : Word := mget 0 c.sreg r
/-- A pair of vector registers in a lane (R4). -/
def vget2 (c : Crew) (r L : Nat) : Dword := join (vget c r L) (vget c (r + 1) L)
/-- A pair of scalars (R4). -/
def sget2 (c : Crew) (r : Nat) : Dword := join (sget c r) (sget c (r + 1))

/-- A write meets the outstanding results that name the register: they become contended (R127, R17). -/
def contend (c : Crew) (f : RegFile) (r L : Nat) : Crew :=
  if c.pend.isEmpty then c
  else { c with pend := c.pend.map (fun p => { p with targets := p.targets.map (fun t =>
    if t.file == f && t.idx == r && t.lane == L then { t with contended := true } else t) }) }

/-- Write lane `L` of vector register `r`. -/
def vset (c : Crew) (r L : Nat) (x : Word) : Crew :=
  let c := contend c .vector r L
  { c with v := mset 0 c.v (32 * r + L) x }
/-- Write scalar register `r`. -/
def sset (c : Crew) (r : Nat) (x : Word) : Crew :=
  let c := contend c .scalar r 0
  { c with sreg := mset 0 c.sreg r x }
/-- Write a pair of vector registers in a lane. -/
def vset2 (c : Crew) (r L : Nat) (x : Dword) : Crew := vset (vset c r L (loWord x)) (r + 1) L (hiWord x)
/-- Write a pair of scalars. -/
def sset2 (c : Crew) (r : Nat) (x : Dword) : Crew := sset (sset c r (loWord x)) (r + 1) (hiWord x)

/-- A launch of the timeline kind, or the expert level of engine `e` in the row order of R24 (R395). -/
def expertOf (c : Crew) (e : Nat) : Bool := c.expert.getLsbD e

/-- Crew `c` issues for `n` cycles, of which each takes two of `clock` in low-water service (R182, R442): its slot is held for so long. -/
def heldSlot (s : State) (n : Nat) (c : Crew) : Crew :=
  { c with
    issuedAt := if c.readySince ≤ s.clock then s.clock else c.issuedAt
    readySince := max c.readySince (s.clock + (if lowWater s then 2 else 1) * n) }
/-- The crew's instruction holds its issue slot for `n` cycles (R182, R442). -/
def holdSlot (s : State) (k n : Nat) : State := updCrew s k (heldSlot s n)

/-- The lane's stamp (R20). -/
def stampOf (c : Crew) (L : Nat) : Dword := mget 0 c.stamp L

/-- Lane `L`'s stamp among stamps kept from an instruction's issue (R22). -/
def stampIn (m : Map Dword) (L : Nat) : Dword := mget 0 m L

/-- Entry of the frontier table. -/
def frGet (m : Map LaneEntry) (L : Nat) : LaneEntry := mget {} m L
/-- Replace an entry of a frontier table. -/
def frSet (m : Map LaneEntry) (L : Nat) (e : LaneEntry) : Map LaneEntry := mset {} m L e
/-- The lanes of a table in a state. -/
def lanesIn (m : Map LaneEntry) (st : LaneState) : Mask := maskOf (fun L => (frGet m L).st == st)

/-- Form the next split from the frontier table (R162). -/
def reform (c : Crew) : Crew :=
  let live := lanesIn c.fr .live
  let held := lanesIn c.fr .held
  let c := if live == 0 && held != 0 then { c with fr := (lanes held).foldl (fun m L => frSet m L { frGet m L with st := .live }) c.fr } else c
  let live := lanesIn c.fr .live
  match least (fun L => (frGet c.fr L).resume.toNat) (lanes live) with
  | none => { c with exm := 0 }
  | some L =>
    let pc := (frGet c.fr L).resume
    { c with pc := pc, exm := maskOf (fun L => (frGet c.fr L).st == .live && (frGet c.fr L).resume == pc) }

/-- Send each lane of `m` to its resume address and form the next split (R162). -/
def sendLanes (c : Crew) (m : Mask) (t : Nat → BitVec 56) : Crew :=
  reform { c with fr := (lanes m).foldl (fun fr L => frSet fr L { st := .live, resume := t L }) c.fr }

/-- Mark lanes ENDED in a frontier table. -/
def endIn (m : Map LaneEntry) (k : Mask) : Map LaneEntry := (lanes k).foldl (fun fr L => frSet fr L { frGet fr L with st := .ended }) m

/-- End the lanes of `m`: in the frontier and in every saved shadow (R162, R168). -/
def endLanes (c : Crew) (m : Mask) : Crew :=
  reform { c with fr := endIn c.fr m, sh1 := if c.tdepth == 0 then c.sh1 else endIn c.sh1 m, sh2 := if c.tdepth == 2 then endIn c.sh2 m else c.sh2 }

/-- Every lane has ended (R49). -/
def allEnded (c : Crew) : Bool := c.tdepth == 0 && lanesIn c.fr .live == 0 && lanesIn c.fr .held == 0

/-- The trap bank of the depth the crew is at (R243). -/
def bankOf (c : Crew) : TrapBank := if c.tdepth == 0 then {} else if c.tdepth == 1 then c.bank1 else c.bank2
/-- Replace the trap bank of the depth the crew is at. -/
def setBank (c : Crew) (b : TrapBank) : Crew :=
  if c.tdepth == 1 then { c with bank1 := b } else if c.tdepth == 2 then { c with bank2 := b } else c

/-- A register-targeted result of instruction `id` (R126); results of one instruction join. -/
def addPend (c : Crew) (p : Pend) : Crew :=
  if c.pend.any (fun q => q.id == p.id) then
    { c with pend := c.pend.map (fun q =>
      if q.id == p.id then { q with targets := q.targets ++ p.targets, ready := q.ready && p.ready, regs := q.regs ++ p.regs } else q) }
  else { c with pend := c.pend ++ [p] }

/-- The instructions counted towards the limit of 16 (R248). DEDUCED (log entry 50): one whose fault is held counts too, at whatever depth it was issued, since at most 16 faults
are ever held. -/
def countedIds (c : Crew) : List Nat :=
  ((c.pend.map (fun p => p.id)) ++ c.counted ++ c.held.map (fun h => h.seq)).eraseDups

/-- Only held faults keep the crew at the limit: none of its counted instructions is under way, so that none could complete and end the wait (R248, log entry 50). -/
def limitStuck (c : Crew) : Bool := c.pend.isEmpty && c.counted.isEmpty

/-- The crew has as many counted instructions as it may (R248). DESIGN CHOICE (log entry 50): faults held for other depths than the crew's alone do not keep it at issue, since nothing
could end that wait. -/
def atLimit (c : Crew) : Bool :=
  16 ≤ (countedIds c).length && !(limitStuck c && !(c.held.any (fun h => h.depth == c.tdepth.toNat)))

/-- The crew holds the commit token (R45, R46). -/
def holdsToken (s : State) (c : Crew) : Bool := c.strict && (launchOf s c).tokPos == c.lcid

/-- Pass the token of launch `lid` from position `p` to the next crew in order that has not retired (R45). DESIGN CHOICE (log entry 51): after the last crew in order has passed it, the
position after that crew's is kept, which is what POS of `tok` then reads (R47). -/
def passToken (s : State) (lid p : Nat) : State :=
  { s with launches := mmodify s.launches lid (fun l =>
    if l.tokPos == p then { l with tokPos := firstFree l.passed (l.passed.length + 1) (p + 1) } else l) }

/-! ## The trace writer (R408 to R412, R425) -/

/-- Room for a packet in the shelf's buffer: the reader's pointer is acquired first (R411, R412). -/
def bufRoom (s : State) (b : TBuf) : Bool := (b.w - BitVec.ofNat 32 (rdN s b.rAddr 4)).toNat ≤ 2 ^ b.size - 64

/-- Put one packet at the write pointer (R411). -/
def bufPut (s : State) (sh : Nat) (b : TBuf) (bs : List Byte) : State :=
  let s1 := wrB s (b.base + b.w.toNat % 2 ^ b.size) bs
  { s1 with tbufs := minsert s1.tbufs sh { b with w := b.w + 32 } }

/-- The watch engine counts `k` more in word `n` of its frames (R421). -/
def count (s : State) (n k : Nat) : State := { s with counts := mset 0 s.counts n (mget 0 s.counts n + k) }

/-- The LOSS packet that is due once there is room again (R412). -/
def putLoss (s : State) (sh : Nat) : State :=
  match mfind s.tbufs sh with
  | none => s
  | some b =>
    let n := mget 0 s.lost sh
    if n != 0 && bufRoom s b then
      bufPut { s with lost := merase s.lost sh } sh b (natBytes 2 (3 * 8192) ++ [0, 0] ++ natBytes 4 n ++ natBytes 8 s.clock ++ natBytes 16 0)
    else s

/-- The writer takes one packet of a cycle: a due LOSS packet first, then the packet, or the drop (R412). -/
def takePacket (s : State) (p : TPkt) : State :=
  match mfind s.tbufs p.shelf with
  | none => s
  | some b =>
    let s := putLoss s p.shelf
    let b := (mfind s.tbufs p.shelf).getD b
    if bufRoom s b then bufPut s p.shelf b p.bytes
    else
      let s := { s with lost := minsert s.lost p.shelf (mget 0 s.lost p.shelf + 1) }
      match p.crew with
      | some k => updCrew s k (fun c => { c with trace := { c.trace with syncDue := true } })
      | none => s

/-- The writers take the packets of the cycle that ends: each crew's in ascending `gcrew`, and a crew's own in the order in which they arose (R425). -/
def flushTrace (s : State) : State :=
  if s.tracePend.isEmpty then s else (sortBy (fun p => p.gcrew.toNat) s.tracePend).foldl takePacket { s with tracePend := [] }

/-- A packet for a shelf's buffer, which its writer takes at the end of the cycle (R425); none while the buffer is disabled (R412). `ck` is the crew that loses a BRANCH, SYNC or TMARK
packet. -/
def emitPacket (s : State) (sh : Nat) (g : Word) (ck : Option Nat) (bs : List Byte) : State :=
  if (mfind s.tbufs sh).isSome then { s with tracePend := s.tracePend ++ [{ shelf := sh, gcrew := g, crew := ck, bytes := bs }] } else s

/-- The trace buffer of the crew's shelf is enabled (R408, R412). -/
def bufOn (s : State) (c : Crew) : Bool := (mfind s.tbufs (shelfOf c.gcrew)).isSome

/-- Header and second halfword of a packet (R409). -/
def pktHead (typ : Nat) (g : Word) (h : Nat) : List Byte := natBytes 2 (typ * 8192 + g.toNat % 8192) ++ natBytes 2 h

/-- The frontier table as it lies in a context image (R255). -/
def frBytes (m : Map LaneEntry) : List Byte :=
  (List.range 32).flatMap (fun L =>
    let e := frGet m L
    let st := match e.st with | .live => 0 | .held => 1 | .ended => 2 | .absent => 3
    natBytes 8 (st * 2 ^ 62 + e.resume.toNat))

/-- Write a SYNC packet naming the crew's split (R409). -/
def traceSync (s : State) (k : Nat) : State :=
  let c := crewAt s k
  let bs := pktHead 2 c.gcrew 0 ++ natBytes 4 c.lid ++ natBytes 8 c.pc.toNat ++ natBytes 8 s.clock ++ natBytes 4 c.exm.toNat ++
    natBytes 4 (crc32 (frBytes c.fr))
  let s := updCrew s k (fun c => { c with trace := { c.trace with started := true, syncDue := false, lastPkt := s.clock, sinceSync := 0, refPc := c.pc } })
  emitPacket s (shelfOf c.gcrew) c.gcrew (some k) bs

/-- A packet of the crew that its shelf's disabled buffer does not take: the bookkeeping stays, and a SYNC is due before the next that is written (R408, R412). -/
def traceOff (s : State) (k : Nat) : State := updCrew s k (fun c => { c with trace := { c.trace with syncDue := true } })

/-- The SYNC that R408 asks for before another packet of the crew. -/
def traceDue (s : State) (k : Nat) : State :=
  let t := (crewAt s k).trace
  if !t.started || t.syncDue || s.clock - t.lastPkt ≥ 65536 || t.sinceSync ≥ 1024 then traceSync s k else s

/-- Write a BRANCH packet: kind 0 flow, 1 trap entry, 2 RETT, 3 retirement (R409). `stamp` is that of the lowest active lane at the branch. -/
def traceBranch (s : State) (k kind : Nat) (cause : Byte) (stamp : Dword) : State :=
  if !((crewAt s k).trace.traced) then s
  else if !(bufOn s (crewAt s k)) then traceOff s k
  else
    let s := traceDue s k
    let c := crewAt s k
    let t := c.trace
    let pc := if kind == 3 then t.refPc else c.pc
    let bs := pktHead 1 c.gcrew ((s.clock - t.lastPkt) % 65536) ++ natBytes 4 ((pc - t.refPc).toNat % 2 ^ 32) ++
      natBytes 4 (if kind == 3 then 0 else c.exm.toNat) ++ [BitVec.ofNat 8 kind, cause, 0, 0] ++ natBytes 8 stamp.toNat ++ natBytes 4 c.lid ++ [0, 0, 0, 0]
    let s := updCrew s k (fun c => { c with trace := { c.trace with lastPkt := s.clock, sinceSync := t.sinceSync + 1, refPc := pc } })
    emitPacket s (shelfOf c.gcrew) c.gcrew (some k) bs

/-- Write an ENGINE packet for a traced crew, resident or saved (R410). DESIGN CHOICE (log entry 51): where the crew has retired, R410 names no buffer, and none is written. -/
def traceEngine (s : State) (k ev : Nat) (val : Word) (stamp : Dword) (obj : Nat) : State :=
  let c := crewAt s k
  if !(c.trace.traced) then s
  else emitPacket s (shelfOf c.gcrew) c.gcrew none
    (pktHead 7 c.gcrew ev ++ natBytes 4 val.toNat ++ natBytes 8 s.clock ++ natBytes 8 stamp.toNat ++ natBytes 4 c.lid ++ natBytes 4 obj)

/-! ## Stops (R417) -/

/-- Halt a crew with a reason and write its stop record (R417). -/
def stopCrew (s : State) (k reason idx code : Nat) : State :=
  let c := crewAt s k
  let s := updCrew s k (fun c => { c with halt := .stopped reason, stepping := 0, stopNext := none })
  postRec s
    { typ := 0x51, gcrew := c.gcrew, lid := BitVec.ofNat 32 c.lid, part := c.part, pc := c.pc.setWidth 64, lanes := c.exm
      stamp := stampOf c (lowest c.exm), detail := BitVec.ofNat 64 (reason + 256 * idx + 65536 * code) } .nobody

/-! ## Taking an exception (R243 to R246) and returning from one (R251) -/

/-- The trap that cannot be taken: the crew halts, keeps its registers and the token, and a DOUBLE record is written (R246). -/
def takeDouble (s : State) (k : Nat) (r : TrapReq) (d : Nat) : State :=
  let c := crewAt s k
  let s := updCrew s k (fun c => { c with halt := .double, trapReq := none })
  postRec s
    { typ := 0x60, impr := r.impr, gcrew := c.gcrew, lid := BitVec.ofNat 32 c.lid, part := c.part, addr := r.tva, pc := r.pcAt.setWidth 64
      lanes := r.tmask, pcm := r.pcm, stamp := stampIn r.stamps (lowest r.tmask), detail := BitVec.ofNat 64 (r.cause.toNat + 256 * d) } (.crew k)

/-- `tpc` of an address: its distance from the text base as a signed 32-bit value, if it has one (R243, R245). -/
def tpcOf (text a : BitVec 56) : Option Word :=
  let d := (a - text).toInt
  if -(2 ^ 31) ≤ d && d < 2 ^ 31 then some (BitVec.ofInt 32 d) else none

/-- Enter the handler of a trap (R245): the new depth, the trap registers, the saved frontier, and the handler's frontier at the vector base plus
64 times the cause. DESIGN CHOICE (log entry 47): `xirf` belongs to the bank of its own depth, so that a handler entered from a handler for another cause reads 0 in it (R240). -/
def enterTrap (s : State) (k : Nat) (r : TrapReq) : State :=
  let c := crewAt s k
  let d := c.tdepth.toNat + 1
  match c.vecBase, tpcOf c.text r.pcAt with
  | some vec, some off =>
    if d ≥ 3 then takeDouble s k r d
    else
      let b : TrapBank :=
        { tsr := BitVec.ofNat 32 (r.cause.toNat + (if r.impr then 256 else 0)), tpc := off, tmask := r.tmask, pcm := r.pcm, xirf := r.xirf
          tva := r.tva, pcAt := r.pcAt, pcNext := r.pcNext, seq := r.seq }
      let go := r.tmask &&& ~~~r.pcm
      let at_ := vec + BitVec.ofNat 56 (64 * r.cause.toNat)
      let fr : Map LaneEntry := (lanes go).foldl (fun m L => frSet m L { st := .live, resume := at_ }) []
      let c1 := { c with tdepth := BitVec.ofNat 2 d, fr := fr, trapReq := none, waits := c.wait :: c.waits, wait := .none, markerWait := false }
      let c2 := if d == 1 then { c1 with bank1 := b, sh1 := c.fr } else { c1 with bank2 := b, sh2 := c.fr }
      let s := updCrew s k (fun _ => reform c2)
      traceBranch s k 1 r.cause (stampOf c (lowest r.tmask))
  | _, _ => takeDouble s k r d

/-- The end of a marker wait or of a drain: when nothing of the crew is outstanding, every held fault of a returning instruction is known (R248). -/
def drained (c : Crew) : Crew :=
  if c.pend.isEmpty then { c with markerWait := false, held := c.held.map (fun h => if h.returning then { h with due := true } else h) } else c

/-- The frontier tables in force: the crew's own, and the shadow of each depth it has left (R243). -/
def tables (c : Crew) : List (Map LaneEntry) := c.fr :: ((if c.tdepth == 0 then [] else [c.sh1]) ++ (if c.tdepth == 2 then [c.sh2] else []))
/-- The lane has ended and runs in no handler either (R49, R245). -/
def laneEnded (c : Crew) (L : Nat) : Bool :=
  (tables c).any (fun m => (frGet m L).st == .ended) && (tables c).all (fun m => (frGet m L).st != .live && (frGet m L).st != .held)

/-- A held fault that parks the crew on records: missing pages at the basic level (R252), or a full record area (R312). -/
def parksOn (c : Crew) (h : HeldFault) : Bool := !h.precise && ((h.cause == 0x10 && !(expertOf c 0)) || h.cause == 0x21)

/-- A held fault whose park comes before the precise trap `r` of the same instruction (R252). -/
def pagesFirst (c : Crew) (r : TrapReq) : Option HeldFault :=
  if r.impr then none else c.held.find? (fun h => parksOn c h && h.addr == r.pcAt && h.seq == r.seq && h.depth == c.tdepth.toNat)

/-- Take a trap: at once when nothing of the crew is outstanding and no page of its instruction is to be serviced first, else after its drain (R245). -/
def takeTrap (s : State) (k : Nat) (r : TrapReq) : State :=
  let c := crewAt s k
  if c.pend.isEmpty && c.park.isNone && (pagesFirst c r).isNone then enterTrap (updCrew s k drained) k r
  else updCrew s k (fun c => { drained c with trapReq := some r })

/-- The frontier that RETT restores (R251). -/
def rettFrontier (c : Crew) (b : TrapBank) (sh : Map LaneEntry) (skip : Bool) : Map LaneEntry :=
  let impr := b.tsr.getLsbD 8
  let tgt := BitVec.ofInt 56 (c.text.toInt + b.tpc.toInt)
  (lanes b.tmask).foldl (fun m L =>
    let e := frGet m L
    if e.st == .ended || impr then m
    else if b.pcm.getLsbD L || skip then frSet m L { e with resume := b.pcNext }
    else frSet m L { st := .live, resume := tgt }) sh

/-- The lanes that an imprecise fault's RETT replays (R251). -/
def rettReplay (b : TrapBank) (sh : Map LaneEntry) (skip : Bool) : Mask :=
  if skip || !(b.tsr.getLsbD 8) then 0 else (b.tmask &&& ~~~b.pcm) &&& ~~~(lanesIn sh .ended)

/-- The wait that a crew goes back to after its handler; a barrier wait is over if its generation has moved on (R178). -/
def rewait (s : State) (c : Crew) : Wait :=
  match c.waits.headD .none with
  | .barrier off gen conv =>
    if (Memory.read (mget {} s.teams c.teamKey).scratch off).toNat % 16 == gen then .barrier off gen conv else .none
  | w => w

/-- RETT (R251), all but the replay of an imprecise fault. `m` are the lanes that were active at it, for its trace packet (R21). -/
def doRett (s : State) (k : Nat) (skip : Bool) (m : Mask) : State :=
  let c := crewAt s k
  let b := bankOf c
  let sh := if c.tdepth == 1 then c.sh1 else c.sh2
  let c1 := { setBank c {} with tdepth := c.tdepth - 1, fr := rettFrontier c b sh skip, wait := rewait s c, waits := c.waits.tail }
  let c2 := if c.tdepth == 1 then { c1 with sh1 := [] } else { c1 with sh2 := [], bank1 := { c1.bank1 with xirf := 0 } }
  let s := updCrew s k (fun _ => reform c2)
  traceBranch s k 2 0 (stampOf c (lowest m))

/-- After the last handler lane, one of the lanes `m`, has ended, RETT with skip (R250). -/
def handlerEnd (s : State) (k : Nat) (m : Mask) : State :=
  let c := crewAt s k
  if c.tdepth != 0 && lanesIn c.fr .live == 0 && lanesIn c.fr .held == 0 then
    let s := doRett s k true m
    let c := crewAt s k
    if c.tdepth != 0 && lanesIn c.fr .live == 0 && lanesIn c.fr .held == 0 then doRett s k true m else s
  else s

end Sys2Proof.Machine
end

