-- ==== Sys2Proof/Machine/Boot.lean ====
section
/-! DEFINITION. A program placed from outside the machine: one partition with one mapped page, one launch with one resident crew (log entry 9). -/

namespace Sys2Proof.Machine

/-- The physical addresses of the placed page tables, levels 0 to 4, and of the text page. -/
def bootTables : List Nat := [0x100000, 0x101000, 0x102000, 0x103000, 0x104000]
/-- Physical address of the text page, virtual address 0. -/
def bootText : Nat := 0x110000
/-- A leaf with X, W and R set (R428). -/
def bootLeaf : Nat := bootText + 0x3D
/-- The crew that a placed program runs in: all lanes LIVE at address 0, 64 vector registers, 8 accumulators, vector base 0x8000. -/
def bootCrew : Crew :=
  { lid := 1, part := 0, teamKey := 2 ^ 26, nregs := 64, naccs := 8, vecBase := some 0x8000, exm := 0xFFFFFFFF
    fr := (List.range 32).map (fun L => (L, { st := .live, resume := 0 })) }
/-- Its team: 1 KiB of scratchpad on isle 0. -/
def bootTeam : Team := { lid := 1, size := 1024 }

/-- Place the bytes of an instruction, with zeros after it, and everything that its fetch needs. -/
def placeProgram (s : State) (bs : List Byte) : State :=
  let mem := (bootTables.zip (bootTables.tail ++ [0])).foldl
    (fun m p => Memory.writes m p.1 (natBytes 8 (if p.2 == 0 then bootLeaf else p.2 + 1))) s.mem
  { s with
    mem := Memory.writes mem bootText bs, poison := [], ecc := [], tlbIsle := [], tlbAtoll := [], agenda := [], arg := {}, cur := 2 ^ 26, stage := 0x06
    parts := minsert s.parts 0 { mask := 0xFFFFFFFFFFFFFFFF, mode := 0, root := 0x100000 }
    launches := minsert s.launches 1 { desc := { lid := 1, regs := 64, accs := 8, team := 1, cohort := 1, shelfg := 1, nsg := 1, scratch := 1024 }, dispatched := [0] }
    teams := minsert s.teams (2 ^ 26) bootTeam, crews := minsert s.crews (2 ^ 26) bootCrew, brks := [], isleStops := [], stepReq := none }

end Sys2Proof.Machine
end

