-- ==== Sys2Proof/Machine/Flags.lean ====
section
/-! DEFINITION. The sticky per-lane float flags (R66, R180). The computation of each flag stands with its operation in Float.lean. -/

namespace Sys2Proof.Machine

/-- The flags of a lane. -/
def flagsOf (c : Crew) (L : Nat) : Word := mget 0 c.fflags L
/-- Set flags in a lane; bits never clear (R66). -/
def raiseFlags (c : Crew) (L : Nat) (w : Word) : Crew :=
  if w == 0 then c else { c with fflags := mset 0 c.fflags L (flagsOf c L ||| (w &&& 0x1F)) }
/-- WRSR to `fflags` in a lane: bits [31:5] read as zero (R66). -/
def writeFlags (c : Crew) (L : Nat) (w : Word) : Crew := { c with fflags := mset 0 c.fflags L (w &&& 0x1F) }

end Sys2Proof.Machine
end

