-- ==== Sys2Proof/Machine/Fetch.lean ====
section
/-! DEFINITION. Fetching and decoding at an address (R107, R108). -/

namespace Sys2Proof.Machine

/-- The halfwords of an instruction from `pc` on: `n` bytes read two at a time, each translated for execution; the cause and address of the first that
fails (R107, R108). -/
def fetchHalves (s : State) (c : Crew) (pc : BitVec 56) : Nat → Nat → List Byte → State × Except (Byte × Nat) (List Byte)
  | 0, _, acc => (s, .ok acc)
  | n + 1, k, acc =>
    let a := pc + BitVec.ofNat 56 (2 * k)
    match vread s (whoOf c pc) a.toNat 2 .fe with
    | (s, .error e) => (s, .error (e, a.toNat))
    | (s, .ok bs) => fetchHalves s c pc n (k + 1) (acc ++ bs)

/-- The bytes of the instruction at `pc`: its first halfword tells whether a second follows, its first word whether an extension word does. -/
def fetchBytes (s : State) (c : Crew) (pc : BitVec 56) : State × Except (Byte × Nat) (List Byte) :=
  match fetchHalves s c pc 1 0 [] with
  | (s, .error e) => (s, .error e)
  | (s, .ok b1) =>
    if wordLen (leWord b1) == 2 then (s, .ok b1)
    else
      match fetchHalves s c pc 1 1 b1 with
      | (s, .error e) => (s, .error e)
      | (s, .ok b2) => if wordLen (leWord b2) == 4 then (s, .ok b2) else fetchHalves s c pc 2 2 b2

/-- What stands at `pc`: the fault of the fetch, the bytes of a word that is no instruction, or an instruction. -/
inductive Fetch where
  | fault (cause : Byte) (at_ : Nat)
  | bad (bs : List Byte)
  | good (f : Fetched)

/-- Fetch and decode at `pc`. -/
def fetchAt (s : State) (c : Crew) (pc : BitVec 56) : State × Fetch :=
  match fetchBytes s c pc with
  | (s, .error e) => (s, .fault e.1 e.2)
  | (s, .ok bs) =>
    match decode bs with
    | .error _ => (s, .bad bs)
    | .ok (f, _) => (s, .good f)

end Sys2Proof.Machine
end

