-- ==== Sys2Proof/Machine/Save.lean ====
section
/-! DEFINITION. The context image of a crew (R255), faults that can no longer be delivered (R249), results that return to a crew, resident or saved (R17, R19,
R126), and the saves that wait for them (R50, R255). -/

namespace Sys2Proof.Machine

/-! ## The context image (R255) -/

/-- Bytes of a crew's image. -/
def imageSize (nregs naccs : Nat) : Nat := (0x2000 + 128 * ((nregs + 7) / 8 * 8) + 2560 * naccs + 255) / 256 * 256

/-- Address of a crew's image in its launch's context area. -/
def imageAt (s : State) (c : Crew) : Nat :=
  (launchOf s c).desc.ctx + imageSize c.nregs c.naccs * (if c.timeline then c.team.toNat else c.lcid)

/-- The numbers of R41's rows, for the wait kind of the image. -/
def waitCode (c : Crew) : Nat :=
  let w := match c.wait with
    | .none => 0
    | .barrier _ _ conv => if conv then 3 else 2
    | .sleep _ => 9
    | .yield _ => 0
    | .drain => 0
    | .arrive _ conv _ => if conv then 3 else 2
    | .atIssue k => match k with
      | .token => 4
      | .ferry => 5
      | .copyLimit => 6
      | .copyEntries => 6
      | .copyStatus => 7
      | .matrix => 8
      | .memory => 0
      | .issueConflict => 0
  if w == 0 && c.markerWait then 1 else w

/-- The 8-bit mask of MWAITC and MWAITD (R278). -/
def mwaitMask (f : XF) : Nat := f.a.toNat + 64 * f.bs.toNat + 128 * (f.b.toNat % 2)

/-- The 16 bytes of the wait object (log entry 12). -/
def waitObject (s : State) (c : Crew) : List Byte :=
  let w := fun (a b : Nat) => natBytes 8 a ++ natBytes 8 b
  match c.wait with
  | .barrier off gen _ => w off gen
  | .arrive off _ _ => w off ((Memory.read (mget {} s.teams c.teamKey).scratch off).toNat % 16)
  | .sleep t => w t 0
  | .atIssue _ =>
    match (fetchAt s c c.pc).2 with
    | .good f =>
      match f.instr with
      | .qsend q => w (sget c q.p1.toNat).toNat 0
      | .qrecv q => w (sget c q.p1.toNat).toNat 0
      | .cpywt q => w (sget c q.p1.toNat).toNat (sget c q.p2.toNat).toNat
      | .mwaitc x => w (mwaitMask x) 0
      | .mwaitd x => w (256 * mwaitMask x) 0
      | _ => w 0 0
    | _ => w 0 0
  | _ => w 0 0

/-- A trap bank in the image (log entry 12). -/
def bankBytes (b : TrapBank) : List Byte :=
  natBytes 4 b.tsr.toNat ++ natBytes 4 b.tpc.toNat ++ natBytes 4 b.tmask.toNat ++ natBytes 4 b.pcm.toNat ++ natBytes 8 b.xirf.toNat ++
  natBytes 8 b.tva.toNat ++ natBytes 8 b.pcAt.toNat ++ natBytes 8 b.pcNext.toNat ++ natBytes 16 0

/-- The delivery key of a held fault: address, lowest lane that did not perform, issue order (R248). -/
def heldKey (h : HeldFault) : Nat := (h.addr.toNat * 32 + lowest (h.tmask &&& ~~~h.pcm)) * 2 ^ 64 + h.seq

/-- A held fault in the image. -/
def heldBytes (h : HeldFault) : List Byte :=
  natBytes 8 (h.cause.toNat * 2 ^ 56 + h.addr.toNat) ++ natBytes 8 h.tva.toNat ++ natBytes 4 h.tmask.toNat ++ natBytes 4 h.pcm.toNat ++ natBytes 4 (if h.precise then 0 else 1) ++
  natBytes 4 (h.seq % 2 ^ 32)

/-- The held faults of a crew as they lie in its image, sixteen at most, in the order of their keys (R255). -/
def heldSection (c : Crew) : List Byte :=
  let held := (sortBy heldKey c.held).flatMap heldBytes
  (held ++ List.replicate (512 - held.length) 0).take 512

/-- A trap that still waits to be taken, as a held fault: so it lies in an image, and so it waits for the trap of its instruction's refused pages (R252, R255). -/
def trapHeld (c : Crew) (r : TrapReq) : HeldFault :=
  { addr := r.pcAt, next := r.pcNext, cause := r.cause, tva := r.tva, tmask := r.tmask, pcm := r.pcm, seq := r.seq, depth := c.tdepth.toNat, returning := false, due := true
    stamps := r.stamps, precise := !r.impr, xirf := r.xirf }
/-- The crew with its waiting trap among its held faults. -/
def holdTrap (c : Crew) : Crew :=
  match c.trapReq with
  | some r => { c with trapReq := none, held := c.held ++ [trapHeld c r] }
  | none => c

/-- The image of a crew; `maps` are the 24 bytes that only DUMP writes. -/
def imageBytes (s : State) (c : Crew) (maps : List Byte) : List Byte :=
  let c := holdTrap c
  let flags := waitCode c + 16 * c.tdepth.toNat + (if holdsToken s c then 256 else 0) + (if c.halt == .running && !c.ctxHalt then 0 else 512) +
    (match c.park with | some p => if p.cause == 0x10 then 1024 else 0 | none => 0)
  let vn := (c.nregs + 7) / 8 * 8
  let bs := natBytes 4 c.lid ++ natBytes 4 (if c.timeline then c.team.toNat else c.lcid) ++ natBytes 4 c.gcrew.toNat ++ natBytes 4 flags ++
    natBytes 4 c.exm.toNat ++ natBytes 4 c.rnd.toNat ++ natBytes 4 c.cbank.toNat ++
    natBytes 4 ((if c.strict then 2 else 0) + (if expertOf c 0 then c.hazEn.toNat else 0)) ++ waitObject s c ++ natBytes 4 (min 16 c.held.length) ++
    natBytes 4 c.macc.toNat ++ natBytes 8 0 ++ bankBytes c.bank1 ++ bankBytes c.bank2 ++ natBytes 64 0 ++
    frBytes c.fr ++ frBytes c.sh1 ++ frBytes c.sh2 ++
    (List.range 64).flatMap (fun r => natBytes 4 (sget c r).toNat) ++
    (List.range 32).flatMap (fun L => natBytes 8 (stampOf c L).toNat) ++ (List.range 32).flatMap (fun L => natBytes 8 (mget 0 c.evhandle L).toNat) ++
    (List.range 32).flatMap (fun L => natBytes 4 (mget 0 c.fflags L).toNat) ++ natBytes 128 0
  let held := heldSection c
  let tail := (List.range 1024).flatMap (fun n => natBytes 4 (mget 0 c.banks n).toNat) ++
    (List.range (32 * vn)).flatMap (fun n => natBytes 4 (mget 0 c.v n).toNat) ++
    (List.range (256 * c.naccs)).flatMap (fun n => natBytes 10 (mget 0 c.acc n).toNat)
  let all := bs ++ held ++ maps ++ List.replicate 1512 0 ++ tail
  all ++ List.replicate (imageSize c.nregs c.naccs - all.length) 0

/-- Words of a byte list as a map that lists no zero. -/
def wordMap : Nat → List Byte → Map Word
  | _, [] => []
  | k, bs@(_ :: _) =>
    (List.range (bs.length / 4)).foldl (fun m n => mset 0 m (k + n) (BitVec.ofNat 32 (at_ bs (4 * n) 4))) []

/-- A frontier table read from an image. -/
def frOf (bs : List Byte) : Map LaneEntry :=
  (List.range 32).foldl (fun m L =>
    let x := at_ bs (8 * L) 8
    let st := match fld x 63 62 with | 0 => LaneState.live | 1 => .held | 2 => .ended | _ => .absent
    frSet m L { st := st, resume := BitVec.ofNat 56 (fld x 55 0) }) []

/-- A trap bank read from an image. -/
def bankFrom (bs : List Byte) : TrapBank :=
  { tsr := BitVec.ofNat 32 (at_ bs 0 4 % 512), tpc := BitVec.ofNat 32 (at_ bs 4 4), tmask := BitVec.ofNat 32 (at_ bs 8 4)
    pcm := BitVec.ofNat 32 (at_ bs 12 4), xirf := BitVec.ofNat 32 (at_ bs 16 4), tva := BitVec.ofNat 64 (at_ bs 24 8)
    pcAt := BitVec.ofNat 56 (at_ bs 32 8), pcNext := BitVec.ofNat 56 (at_ bs 40 8) }

/-- The held faults of an image; one that the crew already holds keeps what the image has no room for, and those beyond the image's sixteen stay as they were (log entry 12). -/
def heldFrom (c : Crew) (bs : List Byte) (n : Nat) : List HeldFault :=
  ((List.range n).map (fun i =>
    let b := (bs.drop (32 * i)).take 32
    let a := at_ b 0 8
    let q := at_ b 28 4
    let precise := at_ b 24 4 % 2 == 0
    let h : HeldFault :=
      { addr := BitVec.ofNat 56 (fld a 55 0), next := BitVec.ofNat 56 (fld a 55 0 + 4), cause := BitVec.ofNat 8 (fld a 63 56), tva := BitVec.ofNat 64 (at_ b 8 8)
        tmask := BitVec.ofNat 32 (at_ b 16 4), pcm := BitVec.ofNat 32 (at_ b 20 4), seq := q, depth := c.tdepth.toNat, returning := true, due := true
        precise := precise }
    match c.held.find? (fun o => o.seq % 2 ^ 32 == q && o.addr == h.addr && o.cause == h.cause && o.precise == h.precise) with
    | some o => { o with tva := h.tva, tmask := h.tmask, pcm := h.pcm, due := true }
    | none => h)) ++ (sortBy heldKey c.held).drop 16

/-- Load a crew's registers, frontier, trap state and held faults from an image. -/
def loadImage (c : Crew) (bs : List Byte) : Crew :=
  let c := holdTrap c
  let sub := fun (o n : Nat) => (bs.drop o).take n
  let vn := (c.nregs + 7) / 8 * 8
  { c with
    wait := (match c.wait with
      | .barrier _ _ conv => .barrier (at_ bs 0x20 8) (at_ bs 0x28 8) conv
      | .arrive _ conv d => .arrive (at_ bs 0x20 8) conv d
      | .sleep _ => .sleep (at_ bs 0x20 8)
      | w => w)
    evhandle := (List.range 32).foldl (fun m L => mset 0 m L (BitVec.ofNat 64 (at_ bs (0x600 + 8 * L) 8))) []
    tdepth := BitVec.ofNat 2 (fld (at_ bs 0xC 4) 5 4), rnd := BitVec.ofNat 2 (at_ bs 0x14 4), cbank := BitVec.ofNat 4 (at_ bs 0x18 4)
    hazEn := if expertOf c 0 then BitVec.ofNat 1 (at_ bs 0x1C 4) else c.hazEn, exm := BitVec.ofNat 32 (at_ bs 0x10 4)
    macc := BitVec.ofNat 16 (at_ bs 0x34 4), bank1 := bankFrom (sub 0x40 64), bank2 := bankFrom (sub 0x80 64)
    fr := frOf (sub 0x100 256), sh1 := frOf (sub 0x200 256), sh2 := frOf (sub 0x300 256), sreg := wordMap 0 (sub 0x400 256)
    stamp := (List.range 32).foldl (fun m L => mset 0 m L (BitVec.ofNat 64 (at_ bs (0x500 + 8 * L) 8))) []
    fflags := (List.range 32).foldl (fun m L => mset 0 m L (BitVec.ofNat 32 (at_ bs (0x700 + 4 * L) 4 % 32))) []
    held := heldFrom c (sub 0x800 512) (min 16 (at_ bs 0x30 4)), banks := wordMap 0 (sub 0x1000 4096), v := wordMap 0 (sub 0x2000 (128 * vn))
    acc := (List.range (256 * c.naccs)).foldl (fun m n => mset 0 m n (BitVec.ofNat 80 (at_ bs (0x2000 + 128 * vn + 10 * n) 10))) [] }

/-! ## Late faults (R249) -/

/-- The LATEFAULT record of a held fault (R249). DESIGN CHOICE (log entry 51): its HW bit is 1, so that the firmware frees it. -/
def lateRecord (s : State) (c : Crew) (h : HeldFault) : State :=
  let s := { s with launches := mmodify s.launches c.lid (fun l => { l with late := true }) }
  postRec s
    { typ := 0x87, hw := true, impr := true, gcrew := c.gcrew, lid := BitVec.ofNat 32 c.lid, part := c.part, addr := h.tva, pc := h.addr.setWidth 64
      lanes := h.tmask, pcm := h.pcm, stamp := stampIn h.stamps (lowest h.tmask), detail := h.cause.setWidth 64 } .nobody

/-- Once every lane of a crew has ended, its held faults become LATEFAULT records. -/
def lateFaults (s : State) (k : Nat) : State :=
  let c := crewAt s k
  if allEnded c && !c.held.isEmpty then
    (sortBy heldKey c.held).foldl (fun s h => lateRecord s c h) (updCrew s k (fun c => { c with held := [] }))
  else s

/-! ## Saves (R50, R255) -/

/-- The cohort of a team; in a timeline launch its position (R50). -/
def cohortOf (s : State) (t : Team) : Nat := t.ix / max 1 (mget {} s.launches t.lid).desc.cohort
/-- The teams of a cohort, but for those of an earlier round of its position, which only await their copies (R301). -/
def cohortTeams (s : State) (lid co : Nat) : List (Nat × Team) := s.teams.filter (fun q => !q.2.old && q.2.lid == lid && cohortOf s q.2 == co)
/-- The crews of a cohort, saved or not. -/
def cohortCrews (s : State) (lid co : Nat) : List (Nat × Crew) :=
  let ts := (cohortTeams s lid co).map (fun q => q.1)
  s.crews.filter (fun p => ts.contains p.2.teamKey)

/-- A copy whose source, destination, barrier object or descriptor lies in a team's scratchpad, with bytes still to perform (R301). -/
def landsIn (o : CopyOp) (tk : Nat) : Bool :=
  o.ended.isNone && ((o.team == tk && (o.kind != .cpy || o.srcSp || o.dstSp)) || (o.kind == .cpyc && o.remote == tk))

/-- Some copy touches the scratchpads of a cohort (R301). -/
def copiesLand (s : State) (lid co : Nat) : Bool := (cohortTeams s lid co).any (fun q => s.copies.any (fun o => landsIn o q.1))

/-- The images that a launch's context area holds: one per crew, in a timeline launch one per place in a round (R45, R255, R313). -/
def imageCount (d : Desc) : Nat := if d.kind == 2 then 65536 else d.nsg * d.shelfg * d.cohort * d.team
/-- Bytes of a team's part of the context area: its scratchpad, then 1,024 tag entries of 8 bytes (log entry 27). -/
def teamArea (t : Team) : Nat := t.size + 8192
/-- Address of a team's part of the context area: after the crews' images, by team index (R50; its place is the model's, log entry 27). -/
def teamAddr (s : State) (t : Team) : Nat :=
  let d := (mget {} s.launches t.lid).desc
  d.ctx + imageSize d.regs d.accs * imageCount d + teamArea t * t.ix
/-- The maker of accesses for a team that is saved or restored. -/
def teamWho (s : State) (t : Team) : Who := { lid := BitVec.ofNat 32 t.lid, part := (mget {} s.launches t.lid).part }
/-- The valid tag entries of a team on its isle, by slot (R225). -/
def teamTags (s : State) (tk : Nat) : Map Word := (s.tags.filter (fun g => g.2.team == tk)).map (fun g => (g.1 % 1024, g.2.tag))
/-- A team's part of the context area: its scratchpad with the barrier objects in it, and its tag table, an entry with its tag and 1 when it is valid (R50, R226). -/
def teamBytes (t : Team) (tags : Map Word) : List Byte :=
  Memory.bytes t.scratch 0 t.size ++ (List.range 1024).flatMap (fun n =>
    match mfind tags n with
    | some w => natBytes 4 w.toNat ++ natBytes 4 1
    | none => natBytes 8 0)
/-- The tag table read from a team's part of the context area. -/
def tagsFrom (bs : List Byte) : Map Word :=
  (List.range 1024).foldl (fun m n => if at_ bs (8 * n + 4) 4 % 2 == 1 then minsert m n (BitVec.ofNat 32 (at_ bs (8 * n) 4)) else m) []

/-- A saving team whose cohort is all saved: its scratchpad and tag table are written to the context area, its channels are kept with it, and its isle is freed (R50, R226, R301). -/
def settleTeam (s : State) (p : Nat × Team) : State :=
  let tk := p.1
  let t := p.2
  let co := cohortOf s t
  if !t.saving || t.saved || (cohortCrews s t.lid co).any (fun q => !q.2.saved) || copiesLand s t.lid co then s
  else
    let tags := teamTags s tk
    let s := (vwriteAll s (teamWho s t) (teamAddr s t) (teamBytes t tags)).1
    { s with
      teams := mmodify s.teams tk (fun t => { t with
        saved := true, saving := false, savedTags := tags
        savedChans := (s.chans.filter (fun h => h.2.team == tk)).map (fun h => (h.1 % 16, h.2.slot, BitVec.ofNat 32 h.2.count, h.2.fault)) })
      tags := s.tags.filter (fun g => g.2.team != tk), chans := s.chans.filter (fun h => h.2.team != tk) }

/-- Complete the save of every cohort that can complete. -/
def settleTeams (s : State) : State := (s.teams.filter (fun p => p.2.saving)).foldl settleTeam s

/-- Save a crew: its faults are all known, its image is written, its slot is freed (R255). -/
def saveCrew (s : State) (k : Nat) : State :=
  let s := updCrew s k (fun c => holdTrap { c with saving := none, saved := true, held := c.held.map (fun h => { h with due := true }) })
  let c := crewAt s k
  (vwriteAll s (whoOf c c.pc) (imageAt s c) (imageBytes s c (List.replicate 24 0))).1

/-- A crew that is to be saved has drained: it stands between two instructions, after the last cycle of the first (R50, R182, R239), and no result that the save drains is outstanding, or
20 µs have passed (R255). -/
def crewDrained (s : State) (c : Crew) : Bool :=
  match c.saving with
  | some t => !c.saved && c.xir.isNone && decide (c.readySince ≤ s.clock) && (!(c.pend.any (fun p => p.drains)) || t + us 20 ≤ s.clock)
  | none => false

/-- A save of the crew may complete: in a cohort's save once every crew of the cohort has drained and no copy touches the cohort's scratchpads (R50, R301). -/
def saveDue (s : State) (c : Crew) : Bool :=
  let co := cohortOf s (mget {} s.teams c.teamKey)
  crewDrained s c && (c.alone || ((cohortCrews s c.lid co).all (fun p => p.2.saved || crewDrained s p.2) && !(copiesLand s c.lid co)))

/-- Save a crew alone, or every crew of its cohort: only then are their slots and registers freed (R50). -/
def saveNow (s : State) (k : Nat) : State :=
  let c := crewAt s k
  if c.alone then settleTeams (saveCrew s k)
  else settleTeams (((cohortCrews s c.lid (cohortOf s (mget {} s.teams c.teamKey))).filter (fun p => !p.2.saved)).foldl (fun s p => saveCrew s p.1) s)

/-- Complete the save of a crew if it may complete. -/
def trySave (s : State) (k : Nat) : State := if saveDue s (crewAt s k) then saveNow s k else s

/-- Begin to save a crew. -/
def beginSave (s : State) (k : Nat) : State :=
  let s := updCrew s k (fun c => if c.saved || c.saving.isSome then c else { c with saving := some s.clock })
  trySave s k

/-! ## Results that return (R17, R19, R126, R127) -/

/-- Bytes of a saved crew's image change with the crew (R19, R249). -/
def pokeBytes (s : State) (c : Crew) (off : Nat) (bs : List Byte) : State :=
  if c.saved then (vwriteAll s (whoOf c c.pc) (imageAt s c + off) bs).1 else s

/-- The register of a target in a saved crew's image changes too (R19). -/
def pokeImage (s : State) (c : Crew) (t : PTarget) : State :=
  pokeBytes s c (match t.file with | .vector => 0x2000 + 128 * t.idx + 4 * t.lane | _ => 0x400 + 4 * t.idx) (natBytes 4 t.val.toNat)

/-- Elements `ns` of a saved crew's accumulators, and its `macc`, in its image (R19, R281). -/
def pokeAcc (s : State) (k : Nat) (ns : List Nat) : State :=
  let c := crewAt s k
  if !c.saved then s
  else
    let s := ns.foldl (fun s n => pokeBytes s c (0x2000 + 128 * ((c.nregs + 7) / 8 * 8) + 10 * n) (natBytes 10 (mget 0 c.acc n).toNat)) s
    pokeBytes s c 0x34 (natBytes 4 c.macc.toNat)

/-- The held faults of a saved crew in its image. -/
def pokeHeld (s : State) (k : Nat) : State :=
  let c := crewAt s k
  let s := pokeBytes s c 0x30 (natBytes 4 (min 16 c.held.length))
  pokeBytes s c 0x800 (heldSection c)

/-- Write a target; a contended one is written or not, a free choice, and other results still to come for the register are contended from then on (R127). What an ended lane was still to
receive is discarded (R168). -/
def landTarget (k : Nat) (s : State) (t : PTarget) : State :=
  let go := (!t.contended || Config.freeBool s.free) && !(t.file == .vector && laneEnded (crewAt s k) t.lane)
  let s := if t.contended then { s with free := s.free + 1 } else s
  if !go then s
  else
    let s := updCrew s k (fun c =>
      let c := contend c t.file t.idx t.lane
      match t.file with
      | .vector => { c with v := mset 0 c.v (32 * t.idx + t.lane) t.val }
      | .scalar => { c with sreg := mset 0 c.sreg t.idx t.val }
      | .accum => c)
    pokeImage s (crewAt s k) t

/-- What waits for the crew's outstanding results: a marker, a trap, a save, or an instruction that the limit of counted instructions keeps at issue (R125, R245, R248, R255). -/
def drains (c : Crew) : Bool := c.markerWait || c.trapReq.isSome || c.saving.isSome || (c.wait == .atIssue .memory && atLimit c && limitStuck c)

/-- What follows the end of an outstanding result: the marker wait or trap drain may end, late faults are recorded, a save may complete. -/
def pendEnded (s : State) (k : Nat) : State := trySave (lateFaults (updCrew s k (fun c => if drains c then drained c else c)) k) k

/-- Targets of result `id` that `p` picks return with the values `val` gives, or leave without a value; the result ends when none is left. -/
def landPend (s : State) (k id : Nat) (p : PTarget → Bool) (val : PTarget → Option Word) : State :=
  match (crewAt s k).pend.find? (fun q => q.id == id) with
  | none => s
  | some q =>
    let go := q.targets.filter p
    let rest := q.targets.filter (fun t => !(p t))
    let s := updCrew s k (fun c => { c with
      pend := if rest.isEmpty then c.pend.filter (fun r => r.id != id) else c.pend.map (fun (r : Pend) => if r.id == id then { r with targets := rest } else r) })
    let s := go.foldl (fun s t => match val t with | some w => landTarget k s { t with val := w } | none => s) s
    if rest.isEmpty then pendEnded s k else s

/-- The order in which causes are reported (R215); those of other chapters after them, in the order of their codes (R320). -/
def causeRank (c : Byte) : Nat :=
  match c.toNat with
  | 0x05 => 0
  | 0x13 => 1
  | 0x10 => 2
  | 0x11 => 3
  | 0x12 => 4
  | 0x14 => 5
  | n => 6 + n

/-- The lane that gave a held fault its value. -/
def heldLane (h : HeldFault) : Nat := ((h.lanes.find? (fun p => p.2 == h.tva.toNat)).map (fun p => p.1)).getD (lowest (h.tmask &&& ~~~h.pcm))

/-- Two faults of one instruction that form one. What parks the crew stays apart from what does not (R252, R312), and so does a precise one. -/
def sameFault (c : Crew) (o h : HeldFault) : Bool :=
  o.seq == h.seq && o.addr == h.addr && o.depth == h.depth && o.precise == h.precise && parksOn c o == parksOn c h && (!(parksOn c h) || o.cause == h.cause)

/-- Hold a fault (R248); a saved crew's faults are all known, and its image has them (R255). -/
def holdNew (s : State) (k : Nat) (h : HeldFault) : State :=
  pokeHeld (lateFaults (updCrew s k (fun c => { c with held := c.held ++ [{ h with due := h.due || c.saved }] })) k) k

/-- A fault joins another of its instruction: the least cause stands, with the value of the lowest lane that has it (R215). -/
def joinFault (o h : HeldFault) : HeldFault :=
  let bad := h.tmask &&& ~~~h.pcm
  let first := if o.cause == h.cause then decide (lowest bad < heldLane o) else decide (causeRank h.cause < causeRank o.cause)
  { o with lanes := o.lanes ++ h.lanes, pcm := o.pcm &&& ~~~bad, cause := if first then h.cause else o.cause, tva := if first then h.tva else o.tva }

/-- Hold or record a fault found after issue for an instruction of crew `k` (R215, R216, R248, R357): faults of one instruction form one, and one that is
still waiting for its precise trap joins that trap, but for an EVCAP, which parks the crew first (R312). A crew that has retired is among the ghosts, and its fault is late (R249). -/
def lateFault (s : State) (k : Nat) (h : HeldFault) : State :=
  match mfind s.ghosts k with
  | some c => lateRecord s c h
  | none =>
  let c := crewAt s k
  let bad := h.tmask &&& ~~~h.pcm
  let waits := c.trapReq.any (fun r => !r.impr && r.pcAt == h.addr && r.seq == h.seq)
  let s := if waits then updCrew s k (fun c => { c with trapReq := c.trapReq.map (fun (r : TrapReq) => { r with pcm := r.pcm &&& ~~~bad }) }) else s
  if waits && !(parksOn c h) then s
  else if c.held.any (fun o => sameFault c o h) then
    pokeHeld (updCrew s k (fun c => { c with held := c.held.map (fun (o : HeldFault) => if sameFault c o h then joinFault o h else o) })) k
  else holdNew s k h

end Sys2Proof.Machine
end

