-- ==== Sys2Proof/Machine/Wire.lean ====
section
/-! DEFINITION. The routers and links of the fabric: packets, routes, ports, flits, lost packets, combining, stream slots at the source and the write-combining
buffers (R329 to R337, R341, R344, R355). -/

namespace Sys2Proof.Machine

/-! ## Packets -/

/-- A packet of this device to device `dst`, which FADDR names (log entry 13). -/
def mkPkt (s : State) (typ cls : Nat) (dst : BitVec 12) : Packet :=
  { typ := BitVec.ofNat 8 typ, cls := cls, src := s.deviceId, dst := dst, faddr := BitVec.ofNat 64 (dst.toNat * 2 ^ 52) }

/-- Flits of a packet (R333). -/
def flitCount (p : Packet) : Nat := if p.len ≤ 16 then 1 else 1 + (p.len + 63) / 64
/-- Channel of a packet (R331). -/
def channelOf (p : Packet) : Nat := if p.cls == 3 then 12 + 2 * (p.hop % 4) + p.band % 2 else 4 * p.cls + p.hop % 4

/-- Exactly `n` bytes of a list, padded with zeros. -/
def padTo (n : Nat) (bs : List Byte) : List Byte := bs.take n ++ List.replicate (n - bs.length) 0

/-- The 64 header bytes (R333). -/
def headerBytes (p : Packet) : List Byte :=
  [p.typ, BitVec.ofNat 8 (64 * p.cls + 16 * p.hop + 8 * p.band + flitCount p - 1)] ++ natBytes 2 p.src.toNat ++ natBytes 2 p.slot.toNat ++
  natBytes 2 (p.len + 4096 * p.opx.toNat) ++ natBytes 8 p.faddr.toNat ++ natBytes 8 p.stamp.toNat ++ natBytes 4 p.count.toNat ++ natBytes 2 p.key.toNat ++
  natBytes 2 p.tag.toNat ++ natBytes 16 p.mask.toNat ++ padTo 16 (if p.len ≤ 16 then p.data else [])

/-- The flits of a packet (R333). -/
def flitsOf (p : Packet) : List OutFlit :=
  let n := flitCount p
  let ch := channelOf p
  if n == 1 then [{ ch := ch, kind := 4, payload := headerBytes p, pkt := p }]
  else
    { ch := ch, kind := 1, payload := headerBytes p, pkt := p } ::
      (List.range (n - 1)).map (fun k =>
        { ch := ch, kind := if k + 2 == n then 3 else 2, payload := padTo 64 (p.data.drop (64 * k)), pkt := p })

/-- The destination that a header names: FADDR [63:52], but TAG in a collective packet, and FADDR [11:0] in a RESYNC to the receiver (log entry 13). -/
def headDst (typ opx faddr tag : Nat) : BitVec 12 :=
  if typ / 16 == 3 then BitVec.ofNat 12 tag
  else if typ == 0x23 && opx == 0 then BitVec.ofNat 12 faddr
  else BitVec.ofNat 12 (fld faddr 63 52)

/-- A packet read from its header and the payloads that follow. -/
def parsePacket (h rest : List Byte) : Packet :=
  let ctl := at_ h 1 1
  let len := fld (at_ h 6 2) 8 0
  let f := at_ h 8 8
  { typ := BitVec.ofNat 8 (at_ h 0 1), cls := fld ctl 7 6, hop := fld ctl 5 4, band := fld ctl 3 3, src := BitVec.ofNat 12 (at_ h 2 2)
    dst := headDst (at_ h 0 1) (fld (at_ h 6 2) 15 12) f (at_ h 30 2), slot := BitVec.ofNat 16 (at_ h 4 2), len := len
    opx := BitVec.ofNat 4 (fld (at_ h 6 2) 15 12), faddr := BitVec.ofNat 64 f, stamp := BitVec.ofNat 64 (at_ h 16 8), count := BitVec.ofNat 32 (at_ h 24 4)
    key := BitVec.ofNat 16 (at_ h 28 2), tag := BitVec.ofNat 16 (at_ h 30 2), mask := BitVec.ofNat 128 (at_ h 32 16)
    data := (if len ≤ 16 then h.drop 48 else rest).take len }

/-! ## Routes and ports (R329, R330) -/

/-- Entry `d` of the route table; its reset value lists no port. -/
def routeOf (s : State) (d : BitVec 12) : Word := mget 0x000FFFE0 s.routes d.toNat
/-- A destination that a lane may send to. -/
def routed (s : State) (d : BitVec 12) : Bool := d == s.deviceId || (routeOf s d).getLsbD 31
/-- The listed ports. -/
def portsOf (s : State) (d : BitVec 12) : List Nat :=
  let w := (routeOf s d).toNat
  if fld w 31 31 == 0 then [] else [fld w 9 5, fld w 14 10, fld w 19 15].filter (fun p => p < 24)
/-- The link of a port. -/
def linkAt (s : State) (p : Nat) : Link := mget {} s.links p
/-- Replace the link of a port. -/
def setLink (s : State) (p : Nat) (l : Link) : State := { s with links := minsert s.links p l }
/-- A port is trained: all of them in full service, port 0 alone in low-water service and ROM recovery, none before (R442, R445). -/
def portOn (s : State) (p : Nat) : Bool := s.stage == 0x06 || ((lowWater s || s.stage == 0x03) && p == 0)
/-- Credit on a channel (R335). -/
def credit (l : Link) (ch : Nat) : Nat := mget 2048 l.buf ch - (mget 0 l.sentOn ch + 4096 - mget 0 l.ccount ch % 4096) % 4096
/-- The port a packet takes: the most credit among listed ports that are up, the lowest among equals (R330). -/
def pickPort (s : State) (p : Packet) : Option Nat :=
  let ports := sortBy (fun n => n) ((portsOf s p.dst).filter (fun n => portOn s n && (linkAt s n).up)).eraseDups
  least (fun n => 4096 - credit (linkAt s n) (channelOf p)) ports

/-! ## Flits out (R332, R334, R335) -/

/-- The 80 bytes of a flit with its overhead. `cc` is the channel whose freed count it carries. -/
def flitBytes (l : Link) (kind seq cc : Nat) (payload : List Byte) : List Byte :=
  let ov := seq * 2 ^ 84 + (l.rxSeq + 4095) % 4096 * 2 ^ 72 + cc * 2 ^ 67 + mget 0 l.freed cc % 4096 * 2 ^ 55 + kind * 2 ^ 52
  let bs := padTo 64 payload ++ natBytes 12 ov
  bs ++ natBytes 4 (crc32 bs)

/-- The retrain mark of port `p`, which announces this side's buffer sizes, 2 bytes for each channel (R335, log entry 13). -/
def markFlit (p : Nat) (l : Link) : List Byte :=
  flitBytes l 6 0 31 ((List.range 20).flatMap (fun c => natBytes 2 ((Config.linkBuf p c).toNat + 1)))

/-- The channel served next: the first after the last one served that has a flit and credit (R331, R335). -/
def nextChannel (l : Link) : Option Nat :=
  ((List.range 20).map (fun k => (l.turn + 1 + k) % 20)).find? (fun c => l.outq.any (fun f => f.ch == c) && credit l c != 0)

/-- The flit sent next, with the queue without it; a channel keeps its order (R331). -/
def nextFlit (l : Link) : Option (OutFlit × List OutFlit) :=
  match nextChannel l with
  | none => none
  | some c => (l.outq.find? (fun f => f.ch == c)).map (fun f => (f, l.outq.eraseP (fun f => f.ch == c)))

/-- One more flit of a kind: sent 0, received 1, resent 2 (R421). -/
def countFlit (l : Link) (k : Nat) : Link := { l with flits := mset 0 l.flits k (mget 0 l.flits k + 1) }

/-- Send what credit and the replay buffer allow (R334, R335). -/
def pumpLink : Nat → Link → Link
  | 0, l => l
  | n + 1, l =>
    if !l.up || l.retraining || l.repair.isSome || 256 ≤ l.replay.length then l
    else
      match nextFlit l with
      | none => l
      | some (f, q) =>
        pumpLink n { countFlit l 0 with
          outq := q, turn := f.ch, replay := l.replay ++ [(l.txSeq, f)], txSeq := (l.txSeq + 1) % 4096
          sentOn := minsert l.sentOn f.ch (mget 0 l.sentOn f.ch + 1)
          wire := l.wire ++ [flitBytes l f.kind l.txSeq f.ch f.payload] }

/-- A port holds a flit and no channel that has one has credit (R421). -/
def creditless (l : Link) : Bool := l.up && !l.retraining && !l.outq.isEmpty && (nextChannel l).isNone

/-- Pump a port. -/
def pump (s : State) (p : Nat) : State :=
  let l := linkAt s p
  if l.outq.isEmpty then s else setLink s p (pumpLink (l.outq.length + 1) l)

/-- Hand a packet to a port. -/
def toPort (s : State) (p : Nat) (k : Packet) : State :=
  let l := linkAt s p
  let s := { setLink s p { l with outq := l.outq ++ flitsOf k } with netOut := s.netOut ++ [k] }
  pump s p

/-- Hand a packet to its route, or to this device's own router; `none` when no port is up. -/
def routePacket (s : State) (k : Packet) : Option State :=
  if k.dst == s.deviceId then some { s with netIn := s.netIn ++ [k] }
  else (pickPort s k).map (fun p => toPort s p k)

/-! ## Lost packets (R337) -/

/-- A LOSS notice to `dev` for a stream slot that `holder` holds. It bears the key of the packet that failed or was lost (log entry 13). -/
def slotLoss (s : State) (dev holder : BitVec 12) (k : Packet) : Packet :=
  { mkPkt s 0x22 2 dev with slot := k.slot, key := k.key, count := BitVec.ofNat 32 (2 ^ 31 + holder.toNat * 65536 + 0x0400 + 0x30) }
/-- A LOSS notice to `dev` for the request that TAG names; its OPX and SLOT are those of the lost packet, and FADDR [7:0] is the SEQ of a collective one. -/
def tagLoss (s : State) (dev : BitVec 12) (k : Packet) : Packet :=
  { mkPkt s 0x22 2 dev with
    faddr := BitVec.ofNat 64 (dev.toNat * 2 ^ 52 + fld k.faddr.toNat 39 32), tag := k.tag, slot := k.slot, opx := k.opx, key := k.key
    count := BitVec.ofNat 32 (0x0400 + 0x30 + 65536 * k.typ.toNat % 2 ^ 31) }

/-- The notices for a lost packet: a stream's go to both ends of its slot, any other's to its requester. LOSS, RESYNC and ROUTE are neither requests nor replies, and have none (R337). -/
def lossOf (s : State) (k : Packet) : List Packet :=
  if k.typ == 1 || k.typ == 2 || k.typ == 3 then [slotLoss s k.dst k.dst k, slotLoss s k.src k.dst k]
  else if k.typ == 0x22 || k.typ == 0x23 || k.typ == 0x25 then []
  else [tagLoss s (if k.cls == 1 then k.dst else k.src) k]

/-- Send a packet; one without a port is lost, and its notices go by another route or are dropped. -/
def sendPlain (s : State) (k : Packet) : State :=
  match routePacket s k with
  | some s => s
  | none => (lossOf s k).foldl (fun s n => (routePacket s n).getD s) s

/-! ## Combining (R355) -/

/-- A packet that may be combined: ATOMIC `.add` or `.add64` of one lane. -/
def combinable (k : Packet) : Bool := k.typ == 5 && (k.opx == 0 || k.opx == 1) && k.count == 1

/-- SLOT of the combined request of entry `n`, which its reply brings back (log entry 13). -/
def combSlot (n : Nat) : BitVec 16 := BitVec.ofNat 16 (n + 1)

/-- Close an entry and send its one request. -/
def closeComb (s : State) (e : CombEntry) : State :=
  let k := e.members.headD {}
  let sum := e.members.foldl (fun a m => a + bytesNat m.data) 0
  let hop := e.members.foldl (fun a m => max a m.hop) 0
  let s := { s with comb := s.comb.map (fun x => if x.id == e.id then { x with closed := true } else x) }
  sendPlain s { k with src := s.deviceId, slot := combSlot e.id, hop := hop, data := natBytes 8 (sum % 2 ^ 64) }

/-- Send a packet, through a combining table where it may be combined. -/
def sendPacket (s : State) (k : Packet) : State :=
  if !(combinable k) || k.dst == s.deviceId then sendPlain s k
  else
    match pickPort s k with
    | none => sendPlain s k
    | some p =>
      let wide := k.opx == 1
      match s.comb.find? (fun e => !e.closed && e.port == p && e.dst == k.dst && e.addr == k.faddr.toNat && e.wide == wide) with
      | some e =>
        let e := { e with members := e.members ++ [k] }
        let s := { s with comb := s.comb.map (fun x => if x.id == e.id then e else x) }
        if 32 ≤ e.members.length then closeComb s e else s
      | none =>
        if 32 ≤ (s.comb.filter (fun e => e.port == p)).length then sendPlain s k
        else
          let id := firstFree (s.comb.map (fun e => e.id)) (s.comb.length + 1) 0
          { s with comb := s.comb ++ [{ id := id, port := p, dst := k.dst, addr := k.faddr.toNat, wide := wide, since := s.clock, closed := false
                                        sentSlot := (combSlot id).toNat, members := [k] }] }

/-! ## Stream slots (R341, R350, R352) -/

/-- Key of a slot at the source. -/
def txKey (dev : BitVec 12) (slot : BitVec 16) : Nat := dev.toNat * 65536 + slot.toNat
/-- A slot at the source. -/
def txAt (s : State) (dev : BitVec 12) (slot : BitVec 16) : TxSlot := mget {} s.txSlots (txKey dev slot)

/-- A slot's FLAG bit as it stands now: low-water service is host-assisted throughout (R26). -/
def slotHw (s : State) (hw : Bool) : Bool := hw && !(lowWater s)

/-- The FLAGLOSS record of either end, with the stamp of the flag whose address it gives (R22). -/
def flagLoss (s : State) (hw : Bool) (slot : Nat) (peer : BitVec 12) (lost : List PFlag) : State :=
  let fs := lost.filter (fun f => f.pkt.typ == 2)
  let low := (least (fun (f : PFlag) => f.target.toNat) fs).map (fun f => f.pkt)
  postRec s { typ := 0x82, hw := slotHw s hw, addr := (low.map (fun k => k.faddr)).getD 0, stamp := (low.map (fun k => k.stamp)).getD 0, detail := BitVec.ofNat 64 (slot + 65536 * peer.toNat + 2 ^ 32 * fs.length) } .nobody

/-- The source end becomes DAMAGED. -/
def damageTx (s : State) (dev : BitVec 12) (slot : BitVec 16) : State :=
  let t := txAt s dev slot
  let s := if (mfind s.txSlots (txKey dev slot)).isSome then
    { s with txSlots := minsert s.txSlots (txKey dev slot) { t with lastLoss := s.clock } } else s
  if t.st == .open_ then
    flagLoss { s with txSlots := minsert s.txSlots (txKey dev slot) { t with st := .damaged, lastLoss := s.clock } } t.hw slot.toNat dev []
  else s

/-- The receiver's end becomes DAMAGED: its pending flags are discarded, and `more` that were not held yet; a pending CLOSE frees it at once (R342). -/
def damageRx (s : State) (slot : Nat) (more : List PFlag := []) : State :=
  match mfind s.rxSlots slot with
  | none => s
  | some r =>
    if r.st != .open_ then s
    else
      let mine := s.pflags.filter (fun f => f.slot == slot)
      let s := { s with pflags := s.pflags.filter (fun f => f.slot != slot) }
      let s := flagLoss s r.hw slot r.src (mine ++ more)
      { s with rxSlots := if mine.any (fun f => f.pkt.typ == 3) then merase s.rxSlots slot else minsert s.rxSlots slot { r with st := .damaged } }

/-! ## The write-combining buffers (R343, R344) -/

/-- `tva` of a stream reason found at the source: the reason and the slot word (R357). -/
def streamTva (reason : Nat) (slotWord : Nat) : Dword := BitVec.ofNat 64 (reason * 2 ^ 56 + slotWord)
/-- The slot word of an open slot (R340). -/
def slotWordOf (dev : BitVec 12) (slot : BitVec 16) : Nat := 2 ^ 31 + dev.toNat * 65536 + slot.toNat

/-- The reason that a slot refuses packets at injection. -/
def injectReason (t : TxSlot) : Option Nat := match t.st with | .open_ => none | .damaged => some 3 | _ => some 1

/-- The fault that an injection gives an instruction. -/
def injectFault (o : WcOwner) (reason : Nat) (dev : BitVec 12) (slot : BitVec 16) : HeldFault :=
  { addr := o.pcAt, next := o.pcAt + 4, cause := 0x30, tva := streamTva reason (slotWordOf dev slot), tmask := o.tmask, pcm := o.tmask &&& ~~~o.lanes
    seq := o.seq, depth := o.depth, returning := false, due := false, stamps := o.stamps }

/-- Take a line out of the buffer and into the router, which counts it on its slot, or charge the fault to every RSTO it holds lanes of. -/
def drainLine (s : State) (l : WcLine) : State :=
  let s := { s with wcb := s.wcb.filter (fun x => x != l) }
  let t := txAt s l.dev l.slot
  match injectReason t with
  | some r => l.owners.foldl (fun s o => lateFault s o.crew (injectFault o r l.dev l.slot)) s
  | none =>
    let data := (List.range 128).map (fun k => mget 0 l.bytes k)
    let mask := l.bytes.foldl (fun m b => m ||| BitVec.ofNat 128 (2 ^ b.1)) (0 : BitVec 128)
    let s := { s with txSlots := minsert s.txSlots (txKey l.dev l.slot) { t with sent := t.sent + 1 } }
    sendPacket s { mkPkt s 1 0 l.dev with slot := l.slot, len := 128, faddr := BitVec.ofNat 64 (128 * l.line), stamp := l.stamp, key := l.key, mask := mask, data := data }

/-- Drain the lines of an isle that `p` picks, oldest first. -/
def drainLines (s : State) (isle : Nat) (p : WcLine → Bool) : State :=
  (s.wcb.filter (fun l => l.isle == isle && p l)).foldl drainLine s

/-- A crew's oldest counted RSTO that a line still holds, for the wait on the limit of 16 (R248). -/
def oldestRsto (s : State) (k : Nat) (c : Crew) : Option Nat :=
  c.counted.find? (fun n => s.wcb.any (fun l => l.owners.any (fun o => o.crew == k && o.seq == n)))
/-- Drain every line that holds lanes of it. -/
def relieve (s : State) (k : Nat) (c : Crew) : State :=
  match oldestRsto s k c with
  | some n => drainLines s (isleOf c.gcrew) (fun l => l.owners.any (fun o => o.crew == k && o.seq == n))
  | none => s

/-- An RLOAD with ACQ of the crew still waits for a reply (R353). -/
def acqHold (s : State) (k : Nat) : Bool := s.reqs.any (fun r => r.crew == k && r.kind == .load && r.sub / 4 % 2 == 1)

end Sys2Proof.Machine
end

