-- ==== Sys2Proof/Machine/Operands.lean ====
section
/-! DEFINITION. Operand forms: the kinds of a T source (R113, R114), the registers an instruction names with their limits (R122, R123), the HAZARD
check (R128), and what a read of an outstanding register gives (R127). -/

namespace Sys2Proof.Machine

/-- Operand types of R114. -/
inductive OTy where
  | i32 | f32 | h16 | b16 | hpair | bpair | i64 | f64
deriving DecidableEq, Repr

/-- A literal's 6-bit field as an integer (R113). -/
def litInt (x : BitVec 6) : Int := x.toInt

/-- A literal as a 32-bit operand (R114). -/
def litWord (t : OTy) (n : Int) : Word :=
  match t with
  | .f32 => BitVec.ofNat 32 (cvtIF F32 0 n).1
  | .h16 => BitVec.ofNat 32 (cvtIF H16 0 n).1
  | .b16 => BitVec.ofNat 32 (cvtIF B16 0 n).1
  | .hpair => BitVec.ofNat 32 ((cvtIF H16 0 n).1 * 65537)
  | .bpair => BitVec.ofNat 32 ((cvtIF B16 0 n).1 * 65537)
  | _ => BitVec.ofInt 32 n

/-- Word `n` of the constant bank that `cbank` selects (R160). -/
def cget (c : Crew) (n : Nat) : Word := mget 0 c.banks (64 * c.cbank.toNat + n)

/-- Scalar register `r` as lane `L` reads it (R127). -/
def sgetL (c : Crew) (r L : Nat) : Word := (mfind c.bcast (32 * r + L)).getD (sget c r)
/-- A pair of scalars as lane `L` reads it. -/
def sgetL2 (c : Crew) (r L : Nat) : Dword := join (sgetL c r L) (sgetL c (r + 1) L)

/-- A 32-bit operand in lane `L` (R113, R114): kind `k`, field `x`, extension word `e`. -/
def src32 (c : Crew) (t : OTy) (k : BitVec 2) (x : BitVec 6) (e : Option Word) (L : Nat) : Word :=
  match k.toNat with
  | 0 => vget c x.toNat L
  | 1 => sgetL c x.toNat L
  | 2 => cget c x.toNat
  | _ => if x == 32 then e.getD 0 else litWord t (litInt x)

/-- A 64-bit operand in lane `L` with the flag that widening an sNaN sets (R113, R114). -/
def src64 (c : Crew) (t : OTy) (k : BitVec 2) (x : BitVec 6) (e : Option Word) (L : Nat) : Dword × Word :=
  match k.toNat with
  | 0 => (vget2 c x.toNat L, 0)
  | 1 => (sgetL2 c x.toNat L, 0)
  | 2 => (join (cget c x.toNat) (cget c (x.toNat + 1)), 0)
  | _ =>
    if x == 32 then
      let w := e.getD 0
      if t == .f64 then
        let r := cvtFF F32 F64 0 w.toNat
        (BitVec.ofNat 64 r.1, r.2)
      else (sext64 w, 0)
    else if t == .f64 then (BitVec.ofNat 64 (cvtIF F64 0 (litInt x)).1, 0)
    else (BitVec.ofInt 64 (litInt x), 0)

/-- S1 of a T instruction as a 32-bit operand. -/
def opA (c : Crew) (t : OTy) (f : TF) (L : Nat) : Word := src32 c t f.k1 f.s1 f.e L
/-- S2 of a T instruction as a 32-bit operand. -/
def opB (c : Crew) (t : OTy) (f : TF) (L : Nat) : Word := src32 c t f.k2 f.s2 f.e L
/-- S1 of a T instruction as a 64-bit operand. -/
def opA2 (c : Crew) (t : OTy) (f : TF) (L : Nat) : Dword × Word := src64 c t f.k1 f.s1 f.e L
/-- S2 of a T instruction as a 64-bit operand. -/
def opB2 (c : Crew) (t : OTy) (f : TF) (L : Nat) : Dword × Word := src64 c t f.k2 f.s2 f.e L

/-- A register, or `n` of them from `idx` on, that an instruction names; `al` is the alignment its index obeys. -/
structure Use where
  file : RegFile
  idx : Nat
  n : Nat := 1
  al : Nat := 1
  wr : Bool := false
deriving DecidableEq, Repr

/-- A vector register use: `n` registers aligned to `n`. -/
def useV (x : BitVec 6) (n : Nat) (wr : Bool) : Use := { file := .vector, idx := x.toNat, n := n, al := n, wr := wr }
/-- A scalar register use: `n` registers aligned to `n`. -/
def useS (x : BitVec 6) (n : Nat) (wr : Bool) : Use := { file := .scalar, idx := x.toNat, n := n, al := n, wr := wr }

/-- The registers that a T source names (R113). -/
def useSrc (k : BitVec 2) (x : BitVec 6) (n : Nat) : List Use :=
  match k.toNat with
  | 0 => [useV x n false]
  | 1 => [useS x n false]
  | _ => []

/-- A pair of constant words at an odd index (R113). -/
def oddConst (k : BitVec 2) (x : BitVec 6) (n : Nat) : Bool := k == 2 && n == 2 && x.toNat % 2 == 1

/-- A use breaks R123: a misaligned index, or a vector register at or above the crew's count. -/
def useBad (c : Crew) (u : Use) : Bool :=
  u.idx % u.al != 0 || (u.file == .vector && u.idx + u.n > c.nregs) || (u.file == .scalar && u.idx + u.n > 64)

/-- The HAZARD check is in force (R128, R129). -/
def hazardOn (c : Crew) : Bool := c.strict || (expertOf c 0 && c.hazEn == 1)

/-- Register `r` of a file has an outstanding producer other than instruction `id`, whatever lanes it writes (R128). -/
def outstanding (c : Crew) (id : Nat) (f : RegFile) (r : Nat) : Bool :=
  c.pend.any (fun p => p.id != id && (p.targets.any (fun t => t.file == f && t.idx == r) || p.regs.contains (f, r)))

/-- `tva` of the first hazard in the order of the uses (R128). -/
def hazardOf (c : Crew) (id : Nat) (us : List Use) : Option Dword :=
  us.findSome? (fun u =>
    ((List.range u.n).find? (fun k => outstanding c id u.file (u.idx + k))).map (fun k =>
      BitVec.ofNat 64 ((if u.wr then 256 else 0) + 64 * (match u.file with | .vector => 0 | .scalar => 1 | .accum => 2) + u.idx + k)))

/-- Free values that the view takes for each outstanding target: one for the register, and for a scalar one for each lane that reads it. -/
def viewStep : Nat := 33

/-- What the crew sees of one outstanding target whose value has come: the old value or the new one, a free choice for the register and, for a scalar, for each lane (R127). -/
def viewTarget (f : Nat) (c : Crew) (t : PTarget) : Crew :=
  match t.file with
  | .vector => if Config.freeBool f then { c with v := mset 0 c.v (32 * t.idx + t.lane) t.val } else c
  | .scalar =>
    let c1 := { c with bcast := (List.range 32).foldl (fun m L => minsert m (32 * t.idx + L) (if Config.freeBool (f + 1 + L) then t.val else sgetL c t.idx L)) c.bcast }
    if Config.freeBool f then { c1 with sreg := mset 0 c1.sreg t.idx t.val } else c1
  | .accum => c

/-- The targets whose values have come and wait to be written. A value that no engine has given yet is in no register, so a read finds the old one. -/
def viewTargets (c : Crew) : List PTarget := (c.pend.filter (fun p => p.ready)).flatMap (fun p => p.targets)

/-- Replace the registers with outstanding producers by what a read of them gives (R127). Answers the crew as read and the number of free values used. -/
def viewOf (free : Nat) (c : Crew) : Crew × Nat :=
  let ts := viewTargets c
  (ts.zipIdx.foldl (fun c x => viewTarget (free + viewStep * x.2) c x.1) c, viewStep * ts.length)

end Sys2Proof.Machine
end

