-- ==== Sys2Proof/Machine/Issue.lean ====
section
/-! DEFINITION. What every instruction shares: the checks at issue in their order (R131), the waits at issue, and what follows its effect: the frontier
(R162), the marker (R125), the end of a handler (R250), the trace (R408) and a step's end (R418). An instruction is a `Core`: its fields' limits, the registers it names,
and its own effect. -/

namespace Sys2Proof.Machine

/-- What an instruction sees when it issues: crew key, the crew as its reads see it, the lanes it acts for, its address and the next, its number, and whether it is replayed (R251). -/
structure Ctx where
  k : Nat
  c : Crew
  m : Mask
  pc : BitVec 56
  nx : BitVec 56
  id : Nat
  again : Bool := false

/-- What an instruction's effect comes to. -/
inductive Res where
  /-- done; every lane goes to the next instruction -/
  | done (s : State)
  /-- done; each lane goes to its target -/
  | goto (s : State) (t : Nat → BitVec 56)
  /-- done; the lanes end -/
  | ended (s : State)
  /-- done; the frontier is formed already -/
  | formed (s : State)
  /-- done; the frontier is formed and its packet written -/
  | moved (s : State)
  /-- a precise trap -/
  | trap (s : State) (r : TrapReq)
  /-- an XIR whose next words are still to issue: so far it has held the slot for `cyc` cycles (R239) -/
  | part (s : State) (cyc : Nat)
  /-- it waits at issue and nothing has happened -/
  | wait (k : WaitKind)

/-- An instruction: ILLOP conditions beyond register limits, named registers in the order of R128, privilege, or the condition for PRIV (R194), issue cycles (R182), whether it counts towards
the limit of R248, whether it reads the constant bank that `cbank` selects (R223), its waits at issue, and its effect. -/
structure Core where
  illop : Crew → State → Bool := fun _ _ => false
  uses : List Use := []
  priv : Bool := false
  privIf : Crew → State → Bool := fun _ _ => false
  cyc : Nat := 1
  counts : Bool := false
  cbank : Bool := false
  hold : Ctx → State → Option WaitKind := fun _ _ => none
  run : Ctx → State → Res

/-- A precise trap of the instruction for its lanes (R247). -/
def trapAt (x : Ctx) (cause : Byte) (tva : Dword) : TrapReq :=
  { cause := cause, tva := tva, tmask := x.m, pcAt := x.pc, pcNext := x.nx, stamps := x.c.stamp, seq := x.id }

/-- The word and extension word of the instruction, for `tva` of ILLOP (R131). -/
def illWord (i : Instr) (ir : IssueReg) : Dword :=
  let w := encodeWord { instr := i, m := ir.m, aux := ir.aux, ext := ir.ext }
  join w.1 (w.2.getD 0)

/-- An instruction of crew `c` has issued: it is numbered, it ends a step under way (R418), and it holds the crew's issue slot for `cyc` cycles, of which each takes two of `clock` in
low-water service (R182, R442). -/
def numbered (s : State) (cyc : Nat) (c : Crew) : Crew :=
  let c := heldSlot s cyc c
  { c with seq := c.seq + 1, stepping := if c.stepping == 1 then 2 else c.stepping }

/-- What follows an instruction that has issued: its marker (R125), and its number, cycles and step. -/
def settle (s : State) (k : Nat) (cyc : Nat) : State :=
  updCrew s k (fun c => numbered s cyc (if s.ir.m == 1 then drained { c with markerWait := true } else c))

/-- The SYNC of a traced crew's first issue, or of the first after its trace was enabled (R424). -/
def traceFirst (s : State) (k : Nat) : State :=
  let c := crewAt s k
  if c.trace.traced && !c.trace.started && bufOn s c then traceSync s k else s

/-- The BRANCH packet of an instruction after which the flow is not sequential (R408). -/
def traceFlow (s : State) (k : Nat) (nx : BitVec 56) (m : Mask) : State :=
  let c := crewAt s k
  if c.trace.traced && c.exm != 0 && (c.pc != nx || c.exm != m) then traceBranch s k 0 0 (stampOf c (lowest m)) else s

/-- The waits of R41 among those that an instruction enters at issue: a marked instruction stands in the marker wait too (R125). -/
def marksAtIssue (w : WaitKind) : Bool :=
  match w with
  | .token => true
  | .ferry => true
  | .copyLimit => true
  | .copyEntries => true
  | .copyStatus => true
  | .matrix => true
  | .memory => false
  | .issueConflict => false

/-- An instruction's outcome becomes the state. -/
def finish (x : Ctx) (cyc : Nat) (r : Res) (s0 : State) : State :=
  match r with
  | .done s => settle (traceFlow (updCrew s x.k (fun c => sendLanes c x.m (fun _ => x.nx))) x.k x.nx x.m) x.k cyc
  | .goto s t => settle (traceFlow (updCrew s x.k (fun c => sendLanes c x.m t)) x.k x.nx x.m) x.k cyc
  | .ended s => lateFaults (settle (handlerEnd (traceFlow (updCrew s x.k (fun c => endLanes c x.m)) x.k x.nx x.m) x.k x.m) x.k cyc) x.k
  | .formed s => settle (traceFlow s x.k x.nx x.m) x.k cyc
  | .moved s => settle s x.k cyc
  | .trap s r => takeTrap (updCrew s x.k (numbered s cyc)) x.k r
  | .part s n => holdSlot s x.k n
  | .wait w =>
    updCrew s0 x.k (fun c => { c with
      wait := .atIssue w, parkedAt := if c.wait == .atIssue w then c.parkedAt else s0.clock
      markerWait := c.markerWait || (marksAtIssue w && s0.ir.m == 1 && !c.pend.isEmpty) })

/-- The context of the instruction that the crew's split issues next. -/
def ctxOf (s : State) (c : Crew) (i : Instr) : Ctx :=
  let n := Fetched.len { instr := i, m := s.ir.m, aux := s.ir.aux, ext := s.ir.ext }
  { k := s.cur, c := (viewOf s.free c).1, m := c.exm, pc := c.pc, nx := c.pc + BitVec.ofNat 56 n, id := c.seq }

/-- An instruction that low-water service does not have (R442); those whose operand decides say so themselves. -/
def lowStops (i : Instr) : Bool :=
  let w := (encodeWord { instr := i, m := 0, aux := 0 }).1
  let n := fld w.toNat 9 2
  w.getLsbD 0 && ((0xC0 ≤ n && n ≤ 0xC5) || (0xD2 ≤ n && n ≤ 0xD5) || (0xE0 ≤ n && n ≤ 0xE3) || n == 0xEE || (0xF0 ≤ n && n ≤ 0xF2))

/-- The instruction breaks an encoding rule, for any crew or for this one (R122, R123), or is not there in low-water service (R442). -/
def illegalFor (i : Instr) (o : Core) (c : Crew) (s : State) : Bool :=
  !i.wf || o.uses.any (useBad c) || o.illop c s || (lowWater s && lowStops i)

/-- Opcodes that wait while an RLOAD with ACQ is outstanding (R353). -/
def acqOp (n : Nat) : Bool :=
  (0x80 ≤ n && n ≤ 0x99) || (0xA0 ≤ n && n ≤ 0xAE) || (0xC0 ≤ n && n ≤ 0xC5) || (0xD0 ≤ n && n ≤ 0xD5) || (0xE0 ≤ n && n ≤ 0xE3) ||
  (0xE8 ≤ n && n ≤ 0xEF) || (0xF0 ≤ n && n ≤ 0xF2)
/-- An instruction that waits while an RLOAD with ACQ is outstanding; the words of an XIR are looked at by XIR itself (R353). -/
def acqStops (i : Instr) : Bool :=
  match i with
  | .kLdw _ => true
  | _ =>
    let w := (encodeWord { instr := i, m := 0, aux := 0 }).1
    w.getLsbD 0 && acqOp (fld w.toNat 9 2)

/-- What keeps an instruction at issue (R41): the limit of counted instructions (R248), an RLOAD with ACQ (R353), a constant bank that is being loaded (R223), or a wait of its own. -/
def blockedBy (i : Instr) (o : Core) (x : Ctx) (c : Crew) (s : State) : Option WaitKind :=
  if o.counts && atLimit c then some .memory
  else if acqHold s x.k && acqStops i then some .memory
  else if o.cbank && c.ldcBusy.any (fun b => b.1 == c.cbank.toNat) then some .memory
  else o.hold x s

/-- What the limit of counted instructions asks for while crew `k` waits at it: its oldest RSTO's lines drain (R248). DESIGN CHOICE (log entry 50): where held faults alone keep the crew
there, none of R248's ends would come, and the wait, whose reason is the marker wait's, counts as one: the faults are delivered. -/
def relieveLimit (s : State) (k : Nat) (c : Crew) : State :=
  if atLimit c then relieve (updCrew s k (fun c => if limitStuck c then drained c else c)) k c else s

/-- The checks at issue in the order of R131, then the waits, then the effect; an XIR under way goes on with its words (R239). -/
def issueCrew (i : Instr) (o : Core) (c : Crew) (s : State) : State :=
  let x := ctxOf s c i
  let stop := fun (r : TrapReq) => let s := traceFirst s s.cur; finish x 1 (.trap s r) s
  let run := fun (_ : Unit) =>
    let s := traceFirst s s.cur
    let s := { updCrew s s.cur (fun c => { c with wait := .none }) with free := s.free + (viewOf s.free c).2 }
    finish x o.cyc (o.run x s) s
  if c.xir.isSome then run ()
  else if illegalFor i o c s then stop (trapAt x 0x01 (illWord i s.ir))
  else if (o.priv && c.tdepth == 0) || o.privIf c s then stop (trapAt x 0x02 0)
  else
    match (if hazardOn c then hazardOf c x.id o.uses else none) with
    | some v => stop (trapAt x 0x04 v)
    | none =>
      match blockedBy i o x c s with
      | some .memory => finish x 1 (.wait .memory) (relieveLimit s s.cur c)
      | some w => finish x 1 (.wait w) s
      | none => run ()

/-- The distinct 64 KiB pages that faulting lanes name, by ascending lowest lane, with their lanes (R257). -/
def faultPages (ls : List (Nat × Nat)) : List (Nat × Nat × Mask) :=
  (sortBy (fun p => p.1) ls).foldl (fun acc p =>
    if acc.any (fun q => q.1 == p.2 / 65536) then acc.map (fun q => if q.1 == p.2 / 65536 then (q.1, q.2.1, q.2.2 ||| bit p.1) else q)
    else acc ++ [(p.2 / 65536, p.2, bit p.1)]) []

/-- Park a crew on its PGNP at the basic level: one record for each absent page (R252, R257). `det` is the record's DETAIL. DESIGN CHOICE (log entry 51): STAMP is in each record that of its
own lowest lane (R253), though R257 lets the records differ in nothing else. -/
def parkPgnp (s : State) (k : Nat) (ps : List (Nat × Nat × Mask)) (det : Nat) (p : Park) : State :=
  let c := crewAt s k
  let s := updCrew s k (fun c => { c with park := some { p with left := ps.length, replay := ps.foldl (fun m q => m ||| q.2.2) 0 } })
  ps.foldl (fun s q => postRec s
    { typ := 0x10, hw := modeBit s c.part 0, impr := p.impr, gcrew := c.gcrew, lid := BitVec.ofNat 32 c.lid, part := c.part
      addr := BitVec.ofNat 64 q.2.1, pc := p.addr.setWidth 64, lanes := q.2.2, pcm := p.pcm, stamp := stampIn p.stamps (lowest q.2.2)
      detail := BitVec.ofNat 64 det } (.crew k)) s

/-- Issue an instruction for the current crew. -/
def issue (i : Instr) (o : Core) (s : State) : Host.Outcome State Fault Refusal :=
  match mfind s.crews s.cur with
  | none => .fault .noCrew
  | some c => .next (issueCrew i o c s)

/-- The outstanding status of a command of the issuing crew, in scalar `d` (R126); `val` when it is known already. A save waits for it but for those of CPY and COLL (R255): `dr`. -/
def statusPend (x : Ctx) (d : Nat) (val : Option Word) (dr : Bool := false) : Pend :=
  { id := x.id, kind := .status, ready := val.isSome, drains := dr || val.isSome, targets := [{ file := .scalar, idx := d, lane := 0, val := val.getD 0 }] }

end Sys2Proof.Machine
end

