-- ==== Sys2Proof/Machine/Alu.lean ====
section
/-! DEFINITION. Integer, logic, comparison, cross-lane and immediate instructions, 0x00 to 0x3D, and the K words of them (R179 to R193, R111). -/

namespace Sys2Proof.Machine

/-- Uses of a T source that the instruction takes as `n` registers; none when it takes no such source. -/
def srcUses (k : BitVec 2) (x : BitVec 6) (n : Nat) : List Use := if n == 0 then [] else useSrc k x n

/-- Write registers from `r` on in a lane. -/
def putRegs (c : Crew) (r L : Nat) : List Word → Crew
  | [] => c
  | w :: ws => putRegs (vset c r L w) (r + 1) L ws

/-- A per-lane T instruction (R179, R180): S1 of `n1` registers, S2 of `n2`, a destination of `nd`, `d3` for three-source, and for each active lane the
words written and the flags raised. -/
def laneCore (f : TF) (n1 n2 nd : Nat) (d3 : Bool) (cyc : Nat) (g : Crew → Nat → List Word × Word) : Core :=
  { illop := fun _ _ => oddConst f.k1 f.s1 n1 || oddConst f.k2 f.s2 n2
    uses := (if d3 then [useV f.d nd false] else []) ++ srcUses f.k1 f.s1 n1 ++ srcUses f.k2 f.s2 n2 ++ [useV f.d nd true]
    cyc := cyc
    cbank := f.k1 == 2 || f.k2 == 2
    run := fun x s => .done (updCrew s x.k (fun c =>
      (lanes x.m).foldl (fun c L => let r := g x.c L; raiseFlags (putRegs c f.d.toNat L r.1) L r.2) c)) }

/-- A per-lane instruction of two 32-bit integer operands. -/
def alu2 (f : TF) (cyc : Nat) (g : Word → Word → Word) : Core :=
  laneCore f 1 1 1 false cyc (fun c L => ([g (opA c .i32 f L) (opB c .i32 f L)], 0))
/-- A per-lane instruction of one 32-bit integer operand. -/
def alu1 (f : TF) (g : Word → Word) : Core := laneCore f 1 0 1 false 1 (fun c L => ([g (opA c .i32 f L)], 0))
/-- A three-source instruction of 32-bit integer operands: a, b, old vD. -/
def alu3 (f : TF) (g : Word → Word → Word → Word) : Core :=
  laneCore f 1 1 1 true 1 (fun c L => ([g (opA c .i32 f L) (opB c .i32 f L) (vget c f.d.toNat L)], 0))
/-- A per-lane instruction of two 64-bit integer operands (R188). -/
def alu64 (f : TF) (cyc : Nat) (g : Dword → Dword → Dword) : Core :=
  laneCore f 2 2 2 false cyc (fun c L => let r := g (opA2 c .i64 f L).1 (opB2 c .i64 f L).1; ([loWord r, hiWord r], 0))

/-- An instruction with a scalar destination (R180): the word, and the flags of each active lane. -/
def scalarCore (f : TF) (n2 : Nat) (g : Crew → Mask → Word) (fl : Crew → Nat → Word) : Core :=
  { uses := srcUses f.k1 f.s1 1 ++ srcUses f.k2 f.s2 n2 ++ [useS f.d 1 true]
    cbank := f.k1 == 2 || f.k2 == 2
    run := fun x s => .done (updCrew s x.k (fun c =>
      sset ((lanes x.m).foldl (fun c L => raiseFlags c L (fl x.c L)) c) f.d.toNat (g x.c x.m))) }

/-- A comparison that writes a lane mask (R187). -/
def maskCore (f : TF) (g : Word → Word → Bool) : Core :=
  scalarCore f 1 (fun c m => maskOf (fun L => m.getLsbD L && g (opA c .i32 f L) (opB c .i32 f L))) (fun _ _ => 0)

/-- A cross-lane instruction: each active lane's words and flags from the whole crew as read and the active lanes. -/
def crossCore (f : TF) (n2 nd cyc : Nat) (bad : Bool) (g : Crew → Mask → Nat → List Word × Word) : Core :=
  { illop := fun _ _ => bad
    uses := srcUses f.k1 f.s1 1 ++ srcUses f.k2 f.s2 n2 ++ [useV f.d nd true]
    cyc := cyc
    cbank := f.k1 == 2 || f.k2 == 2
    run := fun x s => .done (updCrew s x.k (fun c =>
      (lanes x.m).foldl (fun c L => let r := g x.c x.m L; raiseFlags (putRegs c f.d.toNat L r.1) L r.2) c)) }

/-- 1 for true. -/
def b2w (b : Bool) : Word := if b then 1 else 0
/-- Shift left; 0 from 32 on (R184). -/
def shlW (a n : Word) : Word := if n.toNat < 32 then a <<< n.toNat else 0
/-- Logical shift right; 0 from 32 on (R184). -/
def shrW (a n : Word) : Word := if n.toNat < 32 then a >>> n.toNat else 0
/-- Arithmetic shift right; copies of the sign from 32 on (R184). -/
def sarW (a n : Word) : Word := a.sshiftRight (min n.toNat 32)
/-- Rotate left by n mod 32 (R184). -/
def rotlW (a n : Word) : Word := a.rotateLeft (n.toNat % 32)
/-- Number of 1 bits. -/
def popcW (a : Word) : Word := BitVec.ofNat 32 ((List.range 32).filter (fun i => a.getLsbD i)).length
/-- Number of leading 0 bits. -/
def clzW (a : Word) : Word := if a == 0 then 32 else BitVec.ofNat 32 (31 - Nat.log2 a.toNat)
/-- Bit i moved to bit 31 − i. -/
def brevW (a : Word) : Word := maskOf (fun i => a.getLsbD (31 - i))
/-- Quotient, truncated; 0 for a divisor of 0 (R70). -/
def idivW (a b : Word) : Word := if b == 0 then 0 else W32 ((S32 a).tdiv (S32 b))
/-- Remainder, with the dividend's sign; 0 for a divisor of 0 (R70). -/
def iremW (a b : Word) : Word := if b == 0 then 0 else W32 ((S32 a).tmod (S32 b))
/-- Unsigned quotient (R70). -/
def udivW (a b : Word) : Word := if b == 0 then 0 else BitVec.ofNat 32 (a.toNat / b.toNat)
/-- Unsigned remainder (R70). -/
def uremW (a b : Word) : Word := if b == 0 then 0 else BitVec.ofNat 32 (a.toNat % b.toNat)
/-- Sum clamped to 32 bits signed (R183). -/
def iaddsW (a b : Word) : Word := W32 (max (-(2 ^ 31)) (min (2 ^ 31 - 1) (S32 a + S32 b)))
/-- Length of a bit field (R185). -/
def bfLen (b : Word) : Nat := min (fld b.toNat 13 8) 32
/-- Extract a field (R185). -/
def bfxW (a b : Word) : Word :=
  let len := bfLen b
  let f := a.toNat / 2 ^ (fld b.toNat 4 0) % 2 ^ len
  if fld b.toNat 16 16 == 1 && 0 < len && f / 2 ^ (len - 1) == 1 then W32 ((f : Int) - 2 ^ len) else BitVec.ofNat 32 f
/-- Insert a field (R185): bits [pos + len − 1 : pos] of `d` take the low bits of `a`. -/
def bfiW (a b d : Word) : Word :=
  let pos := fld b.toNat 4 0
  let len := bfLen b
  maskOf (fun i => if pos ≤ i && i < pos + len then a.getLsbD (i - pos) else d.getLsbD i)

/-- Signed comparison. -/
def sltW (a b : Word) : Bool := S32 a < S32 b
/-- Signed comparison. -/
def sleW (a b : Word) : Bool := S32 a ≤ S32 b
/-- Unsigned comparison. -/
def ultW (a b : Word) : Bool := a.toNat < b.toNat
/-- Unsigned comparison. -/
def uleW (a b : Word) : Bool := a.toNat ≤ b.toNat

/-- Sum of an operand over lanes, modulo 2^32 (R190). -/
def sumOver (g : Nat → Word) (ls : List Nat) : Word := ls.foldl (fun a L => a + g L) 0
/-- The best of an operand over lanes by a strict order (R190). -/
def bestOver (lt : Word → Word → Bool) (g : Nat → Word) : List Nat → Word
  | [] => 0
  | L :: r => r.foldl (fun a j => if lt (g j) a then g j else a) (g L)

/-- The winning lane of ARGMIN or ARGMAX (R69): NaN lanes ignored, equal values to the lowest lane. -/
def argBest (isMax : Bool) (g : Nat → Word) (ls : List Nat) : Option Nat :=
  ls.foldl (fun best L =>
    let v := fdec F32 (g L).toNat
    if isNan v then best
    else
      match best with
      | none => some L
      | some b =>
        let u := fdec F32 (g b).toNat
        if (if isMax then ltSigned u v else ltSigned v u) then some L else best) none
/-- Value and lane that every active lane receives, and the flags of a lane (R69, R191). -/
def argRes (isMax : Bool) (f : TF) (c : Crew) (m : Mask) (L : Nat) : List Word × Word :=
  let g := opA c .f32 f
  let fl := nvIf (isSnan (fdec F32 (g L).toNat))
  match argBest isMax g (lanes m) with
  | some b => ([g b, BitVec.ofNat 32 b], fl)
  | none => ([BitVec.ofNat 32 (cnan F32), BitVec.ofNat 32 (lowest m)], fl)

/-- The active lanes whose key equals that of lane `L` (R192). -/
def groupOf (key : Nat → Word) (m : Mask) (L : Nat) : List Nat := (lanes m).filter (fun j => key j == key L)
/-- F32 sum of a group in ascending lane order, with the flags raised (R192). -/
def ksumf (mode : BitVec 2) (val : Nat → Word) (ls : List Nat) : Word × Word :=
  match ls with
  | [] => (0, 0)
  | L :: r => r.foldl (fun a j =>
      let z := fadd F32 mode (fdec F32 a.1.toNat) (fdec F32 (val j).toNat)
      (BitVec.ofNat 32 z.1, a.2 ||| z.2)) (val L, 0)

/-- A K word's registers as a T instruction (R111): vD, vD, vS. -/
def kTF (f : KF) : TF := { s2 := f.s.setWidth 6, k2 := 0, s1 := f.d.setWidth 6, k1 := 0, d := f.d.setWidth 6, e := none }
/-- MOV vD, vS. -/
def kMovTF (f : KF) : TF := { s2 := 0, k2 := 0, s1 := f.s.setWidth 6, k1 := 0, d := f.d.setWidth 6, e := none }
/-- An immediate K word with its 5-bit value as a literal (R111). -/
def kImmTF (f : KF) (sx : Bool) : TF :=
  { s2 := if sx then f.s.signExtend 6 else f.s.setWidth 6, k2 := 3, s1 := f.d.setWidth 6, k1 := 0, d := f.d.setWidth 6, e := none }

/-- IADD (R183): a + b. -/
def coreIadd (f : TF) : Core := alu2 f 1 (fun a b => a + b)
/-- IADD. -/
def execIadd (f : TF) (s : State) : Host.Outcome State Fault Refusal := issue (.iadd f) (coreIadd f) s

/-- ISUB (R183): a − b. -/
def coreIsub (f : TF) : Core := alu2 f 1 (fun a b => a - b)
/-- ISUB. -/
def execIsub (f : TF) (s : State) : Host.Outcome State Fault Refusal := issue (.isub f) (coreIsub f) s

/-- IMUL (R183): low 32 bits of a × b. -/
def coreImul (f : TF) : Core := alu2 f 1 (fun a b => a * b)
/-- IMUL. -/
def execImul (f : TF) (s : State) : Host.Outcome State Fault Refusal := issue (.imul f) (coreImul f) s

/-- IMULH (R183): bits [63:32] of the signed product. -/
def coreImulh (f : TF) : Core := alu2 f 2 (fun a b => W32 (S32 a * S32 b / 2 ^ 32))
/-- IMULH. -/
def execImulh (f : TF) (s : State) : Host.Outcome State Fault Refusal := issue (.imulh f) (coreImulh f) s

/-- UMULH (R183): bits [63:32] of the unsigned product. -/
def coreUmulh (f : TF) : Core := alu2 f 2 (fun a b => BitVec.ofNat 32 (a.toNat * b.toNat / 2 ^ 32))
/-- UMULH. -/
def execUmulh (f : TF) (s : State) : Host.Outcome State Fault Refusal := issue (.umulh f) (coreUmulh f) s

/-- IMAD (R183): a × b + old vD. -/
def coreImad (f : TF) : Core := alu3 f (fun a b d => a * b + d)
/-- IMAD. -/
def execImad (f : TF) (s : State) : Host.Outcome State Fault Refusal := issue (.imad f) (coreImad f) s

/-- IMIN (R183). -/
def coreImin (f : TF) : Core := alu2 f 1 (fun a b => if sltW b a then b else a)
/-- IMIN. -/
def execImin (f : TF) (s : State) : Host.Outcome State Fault Refusal := issue (.imin f) (coreImin f) s

/-- IMAX (R183). -/
def coreImax (f : TF) : Core := alu2 f 1 (fun a b => if sltW a b then b else a)
/-- IMAX. -/
def execImax (f : TF) (s : State) : Host.Outcome State Fault Refusal := issue (.imax f) (coreImax f) s

/-- UMIN (R183). -/
def coreUmin (f : TF) : Core := alu2 f 1 (fun a b => if ultW b a then b else a)
/-- UMIN. -/
def execUmin (f : TF) (s : State) : Host.Outcome State Fault Refusal := issue (.umin f) (coreUmin f) s

/-- UMAX (R183). -/
def coreUmax (f : TF) : Core := alu2 f 1 (fun a b => if ultW a b then b else a)
/-- UMAX. -/
def execUmax (f : TF) (s : State) : Host.Outcome State Fault Refusal := issue (.umax f) (coreUmax f) s

/-- IABS (R183). -/
def coreIabs (f : TF) : Core := alu1 f (fun a => if sltW a 0 then 0 - a else a)
/-- IABS. -/
def execIabs (f : TF) (s : State) : Host.Outcome State Fault Refusal := issue (.iabs f) (coreIabs f) s

/-- IDIV (R183, R70). -/
def coreIdiv (f : TF) : Core := alu2 f 8 idivW
/-- IDIV. -/
def execIdiv (f : TF) (s : State) : Host.Outcome State Fault Refusal := issue (.idiv f) (coreIdiv f) s

/-- UDIV (R183, R70). -/
def coreUdiv (f : TF) : Core := alu2 f 8 udivW
/-- UDIV. -/
def execUdiv (f : TF) (s : State) : Host.Outcome State Fault Refusal := issue (.udiv f) (coreUdiv f) s

/-- IREM (R183, R70). -/
def coreIrem (f : TF) : Core := alu2 f 8 iremW
/-- IREM. -/
def execIrem (f : TF) (s : State) : Host.Outcome State Fault Refusal := issue (.irem f) (coreIrem f) s

/-- UREM (R183, R70). -/
def coreUrem (f : TF) : Core := alu2 f 8 uremW
/-- UREM. -/
def execUrem (f : TF) (s : State) : Host.Outcome State Fault Refusal := issue (.urem f) (coreUrem f) s

/-- IADDS (R183): the clamped sum. -/
def coreIadds (f : TF) : Core := alu2 f 1 iaddsW
/-- IADDS. -/
def execIadds (f : TF) (s : State) : Host.Outcome State Fault Refusal := issue (.iadds f) (coreIadds f) s

/-- AND (R184). -/
def coreAnd (f : TF) : Core := alu2 f 1 (fun a b => a &&& b)
/-- AND. -/
def execAnd (f : TF) (s : State) : Host.Outcome State Fault Refusal := issue (.and f) (coreAnd f) s

/-- OR (R184). -/
def coreOr (f : TF) : Core := alu2 f 1 (fun a b => a ||| b)
/-- OR. -/
def execOr (f : TF) (s : State) : Host.Outcome State Fault Refusal := issue (.or f) (coreOr f) s

/-- XOR (R184). -/
def coreXor (f : TF) : Core := alu2 f 1 (fun a b => a ^^^ b)
/-- XOR. -/
def execXor (f : TF) (s : State) : Host.Outcome State Fault Refusal := issue (.xor f) (coreXor f) s

/-- ANDN (R184): a AND NOT b. -/
def coreAndn (f : TF) : Core := alu2 f 1 (fun a b => a &&& ~~~b)
/-- ANDN. -/
def execAndn (f : TF) (s : State) : Host.Outcome State Fault Refusal := issue (.andn f) (coreAndn f) s

/-- SHL (R184). -/
def coreShl (f : TF) : Core := alu2 f 1 shlW
/-- SHL. -/
def execShl (f : TF) (s : State) : Host.Outcome State Fault Refusal := issue (.shl f) (coreShl f) s

/-- SHR (R184). -/
def coreShr (f : TF) : Core := alu2 f 1 shrW
/-- SHR. -/
def execShr (f : TF) (s : State) : Host.Outcome State Fault Refusal := issue (.shr f) (coreShr f) s

/-- SAR (R184). -/
def coreSar (f : TF) : Core := alu2 f 1 sarW
/-- SAR. -/
def execSar (f : TF) (s : State) : Host.Outcome State Fault Refusal := issue (.sar f) (coreSar f) s

/-- ROTL (R184). -/
def coreRotl (f : TF) : Core := alu2 f 1 rotlW
/-- ROTL. -/
def execRotl (f : TF) (s : State) : Host.Outcome State Fault Refusal := issue (.rotl f) (coreRotl f) s

/-- POPC (R184). -/
def corePopc (f : TF) : Core := alu1 f popcW
/-- POPC. -/
def execPopc (f : TF) (s : State) : Host.Outcome State Fault Refusal := issue (.popc f) (corePopc f) s

/-- CLZ (R184). -/
def coreClz (f : TF) : Core := alu1 f clzW
/-- CLZ. -/
def execClz (f : TF) (s : State) : Host.Outcome State Fault Refusal := issue (.clz f) (coreClz f) s

/-- BREV (R184). -/
def coreBrev (f : TF) : Core := alu1 f brevW
/-- BREV. -/
def execBrev (f : TF) (s : State) : Host.Outcome State Fault Refusal := issue (.brev f) (coreBrev f) s

/-- BFX (R185). -/
def coreBfx (f : TF) : Core := alu2 f 1 bfxW
/-- BFX. -/
def execBfx (f : TF) (s : State) : Host.Outcome State Fault Refusal := issue (.bfx f) (coreBfx f) s

/-- BFI (R185), three-source. -/
def coreBfi (f : TF) : Core := alu3 f bfiW
/-- BFI. -/
def execBfi (f : TF) (s : State) : Host.Outcome State Fault Refusal := issue (.bfi f) (coreBfi f) s

/-- SEL (R186): a where the old vD is nonzero, else b. -/
def coreSel (f : TF) : Core := alu3 f (fun a b d => if d != 0 then a else b)
/-- SEL. -/
def execSel (f : TF) (s : State) : Host.Outcome State Fault Refusal := issue (.sel f) (coreSel f) s

/-- MOV (R184). -/
def coreMov (f : TF) : Core := alu1 f (fun a => a)
/-- MOV. -/
def execMov (f : TF) (s : State) : Host.Outcome State Fault Refusal := issue (.mov f) (coreMov f) s

/-- MOVS (R186): the value of a in the lowest lane, into a scalar. -/
def coreMovs (f : TF) : Core := scalarCore f 0 (fun c m => opA c .i32 f (lowest m)) (fun _ _ => 0)
/-- MOVS. -/
def execMovs (f : TF) (s : State) : Host.Outcome State Fault Refusal := issue (.movs f) (coreMovs f) s

/-- ISETEQ (R187). -/
def coreIseteq (f : TF) : Core := alu2 f 1 (fun a b => b2w (a == b))
/-- ISETEQ. -/
def execIseteq (f : TF) (s : State) : Host.Outcome State Fault Refusal := issue (.iseteq f) (coreIseteq f) s

/-- ISETNE (R187). -/
def coreIsetne (f : TF) : Core := alu2 f 1 (fun a b => b2w (a != b))
/-- ISETNE. -/
def execIsetne (f : TF) (s : State) : Host.Outcome State Fault Refusal := issue (.isetne f) (coreIsetne f) s

/-- ISETLT (R187). -/
def coreIsetlt (f : TF) : Core := alu2 f 1 (fun a b => b2w (sltW a b))
/-- ISETLT. -/
def execIsetlt (f : TF) (s : State) : Host.Outcome State Fault Refusal := issue (.isetlt f) (coreIsetlt f) s

/-- ISETLE (R187). -/
def coreIsetle (f : TF) : Core := alu2 f 1 (fun a b => b2w (sleW a b))
/-- ISETLE. -/
def execIsetle (f : TF) (s : State) : Host.Outcome State Fault Refusal := issue (.isetle f) (coreIsetle f) s

/-- USETLT (R187). -/
def coreUsetlt (f : TF) : Core := alu2 f 1 (fun a b => b2w (ultW a b))
/-- USETLT. -/
def execUsetlt (f : TF) (s : State) : Host.Outcome State Fault Refusal := issue (.usetlt f) (coreUsetlt f) s

/-- USETLE (R187). -/
def coreUsetle (f : TF) : Core := alu2 f 1 (fun a b => b2w (uleW a b))
/-- USETLE. -/
def execUsetle (f : TF) (s : State) : Host.Outcome State Fault Refusal := issue (.usetle f) (coreUsetle f) s

/-- MSKEQ (R187): a lane mask into a scalar. -/
def coreMskeq (f : TF) : Core := maskCore f (fun a b => a == b)
/-- MSKEQ. -/
def execMskeq (f : TF) (s : State) : Host.Outcome State Fault Refusal := issue (.mskeq f) (coreMskeq f) s

/-- MSKNE (R187): a lane mask into a scalar. -/
def coreMskne (f : TF) : Core := maskCore f (fun a b => a != b)
/-- MSKNE. -/
def execMskne (f : TF) (s : State) : Host.Outcome State Fault Refusal := issue (.mskne f) (coreMskne f) s

/-- MSKLT (R187): a lane mask into a scalar. -/
def coreMsklt (f : TF) : Core := maskCore f (fun a b => sltW a b)
/-- MSKLT. -/
def execMsklt (f : TF) (s : State) : Host.Outcome State Fault Refusal := issue (.msklt f) (coreMsklt f) s

/-- MSKLE (R187): a lane mask into a scalar. -/
def coreMskle (f : TF) : Core := maskCore f (fun a b => sleW a b)
/-- MSKLE. -/
def execMskle (f : TF) (s : State) : Host.Outcome State Fault Refusal := issue (.mskle f) (coreMskle f) s

/-- UMSKLT (R187): a lane mask into a scalar. -/
def coreUmsklt (f : TF) : Core := maskCore f (fun a b => ultW a b)
/-- UMSKLT. -/
def execUmsklt (f : TF) (s : State) : Host.Outcome State Fault Refusal := issue (.umsklt f) (coreUmsklt f) s

/-- BALLOT (R187): the lanes where a is nonzero. -/
def coreBallot (f : TF) : Core := scalarCore f 0 (fun c m => maskOf (fun L => m.getLsbD L && opA c .i32 f L != 0)) (fun _ _ => 0)
/-- BALLOT. -/
def execBallot (f : TF) (s : State) : Host.Outcome State Fault Refusal := issue (.ballot f) (coreBallot f) s

/-- IADD64 (R188). -/
def coreIadd64 (f : TF) : Core := alu64 f 2 (fun a b => a + b)
/-- IADD64. -/
def execIadd64 (f : TF) (s : State) : Host.Outcome State Fault Refusal := issue (.iadd64 f) (coreIadd64 f) s

/-- ISUB64 (R188). -/
def coreIsub64 (f : TF) : Core := alu64 f 2 (fun a b => a - b)
/-- ISUB64. -/
def execIsub64 (f : TF) (s : State) : Host.Outcome State Fault Refusal := issue (.isub64 f) (coreIsub64 f) s

/-- IMUL64 (R188): low 64 bits. -/
def coreImul64 (f : TF) : Core := alu64 f 4 (fun a b => a * b)
/-- IMUL64. -/
def execImul64 (f : TF) (s : State) : Host.Outcome State Fault Refusal := issue (.imul64 f) (coreImul64 f) s

/-- LEA (R188): a 64-bit base plus a sign-extended 32-bit operand. -/
def coreLea (f : TF) : Core := laneCore f 2 1 2 false 2 (fun c L => let r := (opA2 c .i64 f L).1 + sext64 (opB c .i32 f L); ([loWord r, hiWord r], 0))
/-- LEA. -/
def execLea (f : TF) (s : State) : Host.Outcome State Fault Refusal := issue (.lea f) (coreLea f) s

/-- SHFL (R189): from the lane that b names. -/
def coreShfl (f : TF) : Core := crossCore f 1 1 2 (f.k1 != 0) (fun c _ L => ([vget c f.s1.toNat ((opB c .i32 f L).toNat % 32)], 0))
/-- SHFL. -/
def execShfl (f : TF) (s : State) : Host.Outcome State Fault Refusal := issue (.shfl f) (coreShfl f) s

/-- SHFLX (R189): from lane L XOR b. -/
def coreShflx (f : TF) : Core := crossCore f 1 1 2 (f.k1 != 0) (fun c _ L => ([vget c f.s1.toNat (L ^^^ (opB c .i32 f L).toNat % 32)], 0))
/-- SHFLX. -/
def execShflx (f : TF) (s : State) : Host.Outcome State Fault Refusal := issue (.shflx f) (coreShflx f) s

/-- BCAST (R189): from one lane for all. -/
def coreBcast (f : TF) : Core := crossCore f 1 1 2 (f.k1 != 0 || f.k2 == 0) (fun c _ L => ([vget c f.s1.toNat ((opB c .i32 f L).toNat % 32)], 0))
/-- BCAST. -/
def execBcast (f : TF) (s : State) : Host.Outcome State Fault Refusal := issue (.bcast f) (coreBcast f) s

/-- REDADD (R190). -/
def coreRedadd (f : TF) : Core := crossCore f 0 1 2 false (fun c m _ => ([sumOver (opA c .i32 f) (lanes m)], 0))
/-- REDADD. -/
def execRedadd (f : TF) (s : State) : Host.Outcome State Fault Refusal := issue (.redadd f) (coreRedadd f) s

/-- REDMIN (R190). -/
def coreRedmin (f : TF) : Core := crossCore f 0 1 2 false (fun c m _ => ([bestOver sltW (opA c .i32 f) (lanes m)], 0))
/-- REDMIN. -/
def execRedmin (f : TF) (s : State) : Host.Outcome State Fault Refusal := issue (.redmin f) (coreRedmin f) s

/-- REDMAX (R190). -/
def coreRedmax (f : TF) : Core := crossCore f 0 1 2 false (fun c m _ => ([bestOver (fun a b => sltW b a) (opA c .i32 f) (lanes m)], 0))
/-- REDMAX. -/
def execRedmax (f : TF) (s : State) : Host.Outcome State Fault Refusal := issue (.redmax f) (coreRedmax f) s

/-- ARGMIN (R191, R69). -/
def coreArgmin (f : TF) : Core := crossCore f 0 2 2 false (argRes false f)
/-- ARGMIN. -/
def execArgmin (f : TF) (s : State) : Host.Outcome State Fault Refusal := issue (.argmin f) (coreArgmin f) s

/-- ARGMAX (R191, R69). -/
def coreArgmax (f : TF) : Core := crossCore f 0 2 2 false (argRes true f)
/-- ARGMAX. -/
def execArgmax (f : TF) (s : State) : Host.Outcome State Fault Refusal := issue (.argmax f) (coreArgmax f) s

/-- SCANADD (R190): inclusive prefix sum. -/
def coreScanadd (f : TF) : Core := crossCore f 0 1 2 false (fun c m L => ([sumOver (opA c .i32 f) ((lanes m).filter (fun j => j ≤ L))], 0))
/-- SCANADD. -/
def execScanadd (f : TF) (s : State) : Host.Outcome State Fault Refusal := issue (.scanadd f) (coreScanadd f) s

/-- CONFL (R192): the lower active lanes with the same key. -/
def coreConfl (f : TF) : Core := crossCore f 0 1 2 false (fun c m L => ([maskOf (fun j => j < L && m.getLsbD j && opA c .i32 f j == opA c .i32 f L)], 0))
/-- CONFL. -/
def execConfl (f : TF) (s : State) : Host.Outcome State Fault Refusal := issue (.confl f) (coreConfl f) s

/-- KSUMF (R192): F32 sums of groups of equal keys, flags into every lane of the group. -/
def coreKsumf (f : TF) : Core := crossCore f 1 1 5 false (fun c m L =>
  let ls := groupOf (opA c .i32 f) m L
  let r := ksumf c.rnd (opB c .f32 f) ls
  ([if ls.headD L == L then r.1 else 0], r.2))
/-- KSUMF. -/
def execKsumf (f : TF) (s : State) : Host.Outcome State Fault Refusal := issue (.ksumf f) (coreKsumf f) s

/-- KSUM (R192): integer sums of groups of equal keys. -/
def coreKsum (f : TF) : Core := crossCore f 1 1 2 false (fun c m L =>
  let ls := groupOf (opA c .i32 f) m L
  ([if ls.headD L == L then sumOver (opB c .i32 f) ls else 0], 0))
/-- KSUM. -/
def execKsum (f : TF) (s : State) : Host.Outcome State Fault Refusal := issue (.ksum f) (coreKsum f) s

/-- LDI (R193): IMM16 zero-extended. -/
def coreLdi (f : IF) : Core := 
  { uses := [useV f.d 1 true]
    run := fun x s => .done (updCrew s x.k (fun c => (lanes x.m).foldl (fun c L => vset c f.d.toNat L (f.imm.setWidth 32)) c)) }
/-- LDI. -/
def execLdi (f : IF) (s : State) : Host.Outcome State Fault Refusal := issue (.ldi f) (coreLdi f) s

/-- LDIH (R193): IMM16 into bits [31:16]. -/
def coreLdih (f : IF) : Core := 
  { uses := [useV f.d 1 false, useV f.d 1 true]
    run := fun x s => .done (updCrew s x.k (fun c => (lanes x.m).foldl (fun c L => vset c f.d.toNat L (f.imm ++ (vget x.c f.d.toNat L).setWidth 16)) c)) }
/-- LDIH. -/
def execLdih (f : IF) (s : State) : Host.Outcome State Fault Refusal := issue (.ldih f) (coreLdih f) s

/-- K_MOV (R111): MOV vD, vS. -/
def coreKMov (f : KF) : Core := coreMov (kMovTF f)
/-- K_MOV. -/
def execKMov (f : KF) (s : State) : Host.Outcome State Fault Refusal := issue (.kMov f) (coreKMov f) s

/-- K_IADD (R111): IADD vD, vD, vS. -/
def coreKIadd (f : KF) : Core := coreIadd (kTF f)
/-- K_IADD. -/
def execKIadd (f : KF) (s : State) : Host.Outcome State Fault Refusal := issue (.kIadd f) (coreKIadd f) s

/-- K_ISUB (R111): ISUB vD, vD, vS. -/
def coreKIsub (f : KF) : Core := coreIsub (kTF f)
/-- K_ISUB. -/
def execKIsub (f : KF) (s : State) : Host.Outcome State Fault Refusal := issue (.kIsub f) (coreKIsub f) s

/-- K_AND (R111): AND vD, vD, vS. -/
def coreKAnd (f : KF) : Core := coreAnd (kTF f)
/-- K_AND. -/
def execKAnd (f : KF) (s : State) : Host.Outcome State Fault Refusal := issue (.kAnd f) (coreKAnd f) s

/-- K_OR (R111): OR vD, vD, vS. -/
def coreKOr (f : KF) : Core := coreOr (kTF f)
/-- K_OR. -/
def execKOr (f : KF) (s : State) : Host.Outcome State Fault Refusal := issue (.kOr f) (coreKOr f) s

/-- K_XOR (R111): XOR vD, vD, vS. -/
def coreKXor (f : KF) : Core := coreXor (kTF f)
/-- K_XOR. -/
def execKXor (f : KF) (s : State) : Host.Outcome State Fault Refusal := issue (.kXor f) (coreKXor f) s

/-- K_SHLI (R111): SHL vD, vD, #imm5. -/
def coreKShli (f : KF) : Core := coreShl (kImmTF f false)
/-- K_SHLI. -/
def execKShli (f : KF) (s : State) : Host.Outcome State Fault Refusal := issue (.kShli f) (coreKShli f) s

/-- K_SHRI (R111): SHR vD, vD, #imm5. -/
def coreKShri (f : KF) : Core := coreShr (kImmTF f false)
/-- K_SHRI. -/
def execKShri (f : KF) (s : State) : Host.Outcome State Fault Refusal := issue (.kShri f) (coreKShri f) s

/-- K_IADDI (R111): IADD vD, vD, #imm5. -/
def coreKIaddi (f : KF) : Core := coreIadd (kImmTF f true)
/-- K_IADDI. -/
def execKIaddi (f : KF) (s : State) : Host.Outcome State Fault Refusal := issue (.kIaddi f) (coreKIaddi f) s

end Sys2Proof.Machine
end

