-- ==== Sys2Proof/Machine/Barrier.lean ====
section
/-! DEFINITION. A team's scratchpad and the barrier objects in it: reads, writes, and the update that every arrival, byte countdown, BARI and store passes
(R172 to R174). -/

namespace Sys2Proof.Machine

/-- The team at a key. -/
def teamAt (s : State) (tk : Nat) : Team := mget {} s.teams tk
/-- `n` bytes of a scratchpad. -/
def scB (t : Team) (off n : Nat) : List Byte := Memory.bytes t.scratch off n
/-- A number in a scratchpad (R1). -/
def scN (t : Team) (off n : Nat) : Nat := bytesNat (scB t off n)
/-- Write bytes to a team's scratchpad. -/
def scW (s : State) (tk off : Nat) (bs : List Byte) : State :=
  { s with teams := mmodify s.teams tk (fun t => { t with scratch := Memory.writes t.scratch off bs }) }

/-- The generation of the object at `off` (R172). -/
def barGen (t : Team) (off : Nat) : Nat := scN t off 1 % 16
/-- CONV of the object at `off` (R172). -/
def barConv (t : Team) (off : Nat) : Bool := scN t off 1 / 16 % 2 == 1

/-- A crew in a barrier wait whose generation has moved on, or a sleeper when `sleepers`, becomes ready (R173, R170). -/
def wakeOn (t : Team) (sleepers : Bool) (c : Crew) : Crew :=
  match c.wait with
  | .barrier off gen _ => if barGen t off != gen then { c with wait := .none } else c
  | .sleep _ => if sleepers then { c with wait := .none } else c
  | _ => c

/-- Wake the crews of a team after an object of it changed. -/
def wakeTeam (s : State) (tk : Nat) (sleepers : Bool) : State :=
  let t := teamAt s tk
  { s with crews := s.crews.map (fun p => if p.2.teamKey == tk && !p.2.saved then (p.1, wakeOn t sleepers p.2) else p) }

/-- The object at `off` is one that a barrier instruction has named (log entry 8); bits [15:5] of its word 0 read zero (R5, R172). -/
def nameObj (s : State) (tk off : Nat) : State :=
  let w0 := scN (teamAt s tk) off 4
  let s := scW s tk off (natBytes 4 (w0 / 65536 * 65536 + w0 % 32))
  { s with teams := mmodify s.teams tk (fun t => { t with objs := if t.objs.contains off then t.objs else t.objs ++ [off] }) }

/-- Bytes that a copy lands in a team's scratchpad. They are no update of a barrier object (R173, R299); the reserved bits of an object that has been named stay zero (R5, R172). -/
def scLand (s : State) (tk off : Nat) (bs : List Byte) : State :=
  ((teamAt s tk).objs.filter (fun o => o < off + bs.length && off < o + 4)).foldl (fun s o => nameObj s tk o) (scW s tk off bs)

/-- The words of the object at `off` after one update, and whether its phase completes: PENDING, INBYTES and OUTBYTES change by the given amounts, and when all are zero GEN increments
and PENDING is EXPECT again (R172, R173). -/
def barNext (t : Team) (off : Nat) (dp di do_ : Int) : List Byte × Bool :=
  let w0 := scN t off 4
  let p := (BitVec.ofNat 32 (scN t (off + 4) 4) + BitVec.ofInt 32 dp).toNat
  let i := (BitVec.ofNat 32 (scN t (off + 8) 4) + BitVec.ofInt 32 di).toNat
  let o := (BitVec.ofNat 32 (scN t (off + 12) 4) + BitVec.ofInt 32 do_).toNat
  let fin := p == 0 && i == 0 && o == 0
  let gen := if fin then (w0 + 1) % 16 else w0 % 16
  (natBytes 4 (w0 / 65536 * 65536 + w0 / 16 % 2 * 16 + gen) ++ natBytes 4 (if fin then w0 / 65536 else p) ++ natBytes 4 i ++ natBytes 4 o, fin)

/-- One update of the object at `off`, with the waiters that it wakes (R173); answers whether the phase completes. `plain` marks a store. -/
def barPass (s : State) (tk off : Nat) (dp di do_ : Int) (plain : Bool) : State × Bool :=
  let n := barNext (teamAt s tk) off dp di do_
  let s := nameObj (scW s tk off n.1) tk off
  (wakeTeam s tk (n.2 || !plain), n.2)

/-- The crew waits for the object at `off` to accept its arrival (R174). -/
def arrives (off : Nat) (w : Wait) : Bool := match w with | .arrive o _ _ => o == off | _ => false
/-- The wait that follows an arrival once it has been counted, in generation `gen` (R174, R175). -/
def arrived (off gen : Nat) (w : Wait) : Wait :=
  match w with
  | .arrive o conv none => if o == off then .barrier off gen conv else w
  | .arrive o _ (some _) => if o == off then .none else w
  | w => w
/-- The oldest arrival at the object among waits, the newest of which comes first. -/
def oldestArrival (off : Nat) (ws : List Wait) : Option Wait := ws.reverse.find? (arrives off)
/-- The waits once the oldest arrival at the object has been counted in generation `gen`. -/
def countOldest (off gen : Nat) : List Wait → List Wait
  | [] => []
  | w :: ws => if ws.any (arrives off) then w :: countOldest off gen ws else arrived off gen w :: ws

/-- The oldest late arrival of crew `k` has been counted in generation `gen`, in its saved image too; one that its handler made meanwhile waits on (R174). -/
def noteArrival (s : State) (k off gen : Nat) : State :=
  let c := crewAt s k
  let ws := c.wait :: c.waits
  let d := match oldestArrival off ws with | some (.arrive _ _ d) => d | _ => none
  let now := countOldest off gen ws
  let s := updCrew s k (fun c =>
    let c := { c with wait := now.headD .none, waits := now.tail }
    match d with | some r => sset c r (BitVec.ofNat 32 gen) | none => c)
  let s := match d with | some r => pokeBytes s c (0x400 + 4 * r) (natBytes 4 gen) | none => s
  pokeBytes s c 0x20 (waitObject s (crewAt s k))

/-- The arrivals that reached the object while its phase awaited only bytes count in the new phase, in ascending resident slot (R173, R174). -/
def lateArrivals (tk off : Nat) : Nat → State → State
  | 0, s => s
  | n + 1, s =>
    let t := teamAt s tk
    if scN t (off + 4) 4 == 0 then s
    else
      match least (fun (p : Nat × Crew) => p.2.gcrew.toNat) (s.crews.filter (fun p => p.2.teamKey == tk && (p.2.wait :: p.2.waits).any (arrives off))) with
      | none => s
      | some p => lateArrivals tk off n (barPass (noteArrival s p.1 off (barGen t off)) tk off (-1) 0 0 false).1

/-- One update of the object at `off` with all that follows it: when the phase completes, the waiting arrivals count in the new phase (R173, R174). -/
def barUpd (s : State) (tk off : Nat) (dp di do_ : Int) (plain : Bool) : State :=
  let r := barPass s tk off dp di do_ plain
  if r.2 then lateArrivals tk off (3 * s.crews.length) r.1 else r.1

/-- A store's byte ranges (offset, length) touch the objects they overlap: one more update of each (R172, R173). -/
def barTouch (s : State) (tk : Nat) (spans : List (Nat × Nat)) : State :=
  ((teamAt s tk).objs).foldl (fun s off =>
    if spans.any (fun p => p.1 < off + 16 && off < p.1 + p.2) then barUpd s tk off 0 0 0 true else s) s

end Sys2Proof.Machine
end

