-- ==== Sys2Proof/Machine/Sr.lean ====
section
/-! DEFINITION. Special registers: RDSR, WRSR, and the two steps inside them (R194, R195, R163). -/

namespace Sys2Proof.Machine

/-- The channels of the crew's isle that its team holds (R292). -/
def heldChan (s : State) (c : Crew) (n : Nat) : Option Chan :=
  match mfind s.chans (16 * isleOf c.gcrew + n) with
  | some h => if h.team == c.teamKey then some h else none
  | none => none

/-- `wcbst` (R345). -/
def wcbst (s : State) (k : Nat) (c : Crew) : Word :=
  let ls := s.wcb.filter (fun l => l.isle == isleOf c.gcrew)
  BitVec.ofNat 32 (ls.length + 65536 * (ls.filter (fun l => l.owners.any (fun o => o.crew == k))).length)

/-- `tok` (R47). -/
def tokReg (s : State) (c : Crew) : Word :=
  if c.strict then BitVec.ofNat 32 ((if holdsToken s c then 2 ^ 31 else 0) + (launchOf s c).tokPos % 2 ^ 25) else 0

/-- The value of a special register in lane `L` for the crew at key `k` (R195); `none` for an unassigned index. -/
def srRead (s : State) (k : Nat) (c : Crew) (L : Nat) (i : Nat) : Option Word :=
  let b := bankOf c
  if 0x60 ≤ i && i ≤ 0x6F then some (match heldChan s c (i - 0x60) with | some h => BitVec.ofNat 32 h.count | none => 0)
  else
    match i with
    | 0x00 => some c.exm
    | 0x01 => some (BitVec.ofNat 32 L)
    | 0x02 => some c.crewIx
    | 0x03 => some c.team
    | 0x04 => some c.cohort
    | 0x05 => some c.shelfg
    | 0x06 => some (BitVec.ofNat 32 c.lid)
    | 0x07 => some c.gcrew
    | 0x10 => some (BitVec.ofNat 32 s.clock)
    | 0x11 => some (c.clockLatch.getD (BitVec.ofNat 32 (s.clock / 2 ^ 32)))
    | 0x20 => some (loWord (stampOf c L))
    | 0x21 => some (hiWord (stampOf c L))
    | 0x22 => some (loWord (mget 0 c.evhandle L))
    | 0x23 => some (hiWord (mget 0 c.evhandle L))
    | 0x24 => some c.span
    | 0x25 => some c.round
    | 0x26 => some (loWord c.wstart)
    | 0x27 => some (hiWord c.wstart)
    | 0x28 => some (loWord c.lookahead)
    | 0x29 => some (hiWord c.lookahead)
    | 0x30 => some (c.rnd.setWidth 32)
    | 0x31 => some (flagsOf c L)
    | 0x32 => some (c.cbank.setWidth 32)
    | 0x40 => some b.tsr
    | 0x41 => some b.tpc
    | 0x42 => some b.tmask
    | 0x43 => some (loWord b.tva)
    | 0x44 => some (hiWord b.tva)
    | 0x45 => some b.pcm
    | 0x46 => some b.xirf
    | 0x47 => some (c.tdepth.setWidth 32)
    | 0x48 => some ((if c.strict then 2 else 0) ||| (if expertOf c 0 then c.hazEn.setWidth 32 else 0))
    | 0x50 => some (c.macc.setWidth 32)
    | 0x70 => some (maskOf (fun n =>
        if n < 16 then (heldChan s c n).isSome else match heldChan s c (n - 16) with | some h => h.fault.isSome | none => false))
    | 0x80 => some (tokReg s c)
    | 0x90 => some (wcbst s k c)
    | _ => none

/-- A read of `clock` latches its upper half; the next read of the upper half uses the latch up (R195). -/
def clockLatchStep (clock : Nat) (i : Nat) (c : Crew) : Crew :=
  if i == 0x10 then { c with clockLatch := some (BitVec.ofNat 32 (clock / 2 ^ 32)) }
  else if i == 0x11 then { c with clockLatch := none }
  else c

/-- A write of `w` to `exm` by the lanes `m` of the issuing split, whose next instruction is at `nx` (R163). -/
def exmWrite (c : Crew) (m : Mask) (nx : BitVec 56) (w : Mask) : Crew :=
  let held := lanesIn c.fr .held &&& w
  let fr := (lanes m).foldl (fun fr L => frSet fr L { st := if w.getLsbD L then .live else .held, resume := nx }) c.fr
  reform { c with fr := (lanes (held &&& ~~~m)).foldl (fun fr L => frSet fr L { st := .live, resume := nx }) fr }

/-- Replace the lower or the upper half of a double. -/
def setHalf (d : Dword) (hi : Bool) (w : Word) : Dword := if hi then join (loWord d) w else join w (hiWord d)

/-- The effect of WRSR on every register but `exm`: `g` gives each lane's source, `w` is that of the lowest lane (R194). -/
def srWrite (c : Crew) (m : Mask) (i : Nat) (g : Nat → Word) (w : Word) : Crew :=
  let b := bankOf c
  match i with
  | 0x20 => (lanes m).foldl (fun c L => { c with stamp := mset 0 c.stamp L (setHalf (stampOf c L) false (g L)) }) c
  | 0x21 => (lanes m).foldl (fun c L => { c with stamp := mset 0 c.stamp L (setHalf (stampOf c L) true (g L)) }) c
  | 0x30 => { c with rnd := w.setWidth 2 }
  | 0x31 => (lanes m).foldl (fun c L => writeFlags c L (g L)) c
  | 0x32 => { c with cbank := w.setWidth 4 }
  | 0x41 => setBank c { b with tpc := w }
  | 0x42 => setBank c { b with tmask := w }
  | 0x43 => setBank c { b with tva := setHalf b.tva false w }
  | 0x44 => setBank c { b with tva := setHalf b.tva true w }
  | 0x45 => setBank c { b with pcm := w }
  | 0x48 => if expertOf c 0 then { c with hazEn := w.setWidth 1 } else c
  | _ => c

/-- The special register index of an I word (R115). -/
def srIndex (f : IF) : Nat := f.imm.toNat % 4096

/-- The index is assigned to no register, and the crew is in a handler (R194). -/
def srPriv (i : Nat) (c : Crew) (s : State) : Bool := (srRead s s.cur c 0 i).isNone && c.tdepth != 0

/-- RDSR (R194): an unassigned index reads 0 at depth 0 and traps PRIV in a handler. -/
def coreRdsr (f : IF) : Core := 
  { uses := [useV f.d 1 true]
    privIf := srPriv (srIndex f)
    run := fun x s =>
      let i := srIndex f
      .done (updCrew s x.k (fun c =>
        clockLatchStep s.clock i ((lanes x.m).foldl (fun c L => vset c f.d.toNat L ((srRead s x.k x.c L i).getD 0)) c))) }
/-- RDSR. -/
def execRdsr (f : IF) (s : State) : Host.Outcome State Fault Refusal := issue (.rdsr f) (coreRdsr f) s

/-- WRSR (R194): crew-wide registers take the source of the lowest active lane; `exm` moves lanes (R163). -/
def coreWrsr (f : IF) : Core := 
  { uses := [useV f.d 1 false]
    privIf := srPriv (srIndex f)
    run := fun x s =>
      let i := srIndex f
      let w := vget x.c f.d.toNat (lowest x.m)
      if i == 0 then .formed (updCrew s x.k (fun c => exmWrite c x.m x.nx w))
      else .done (updCrew s x.k (fun c => srWrite c x.m i (vget x.c f.d.toNat) w)) }
/-- WRSR. -/
def execWrsr (f : IF) (s : State) : Host.Outcome State Fault Refusal := issue (.wrsr f) (coreWrsr f) s

/-- EXM_WRITE (R163): the step inside a WRSR to `exm` of the crew `arg.crew`, with value `arg.a` and a 4-byte instruction. -/
def execExmWrite (s : State) : Host.Outcome State Fault Refusal :=
  .next (updCrew s s.arg.crew (fun c => exmWrite c c.exm (c.pc + 4) (BitVec.ofNat 32 s.arg.a)))

/-- CLOCK_READ_LATCH (R195): the step inside an RDSR of index 0x010 by the crew `arg.crew`. -/
def execClockReadLatch (s : State) : Host.Outcome State Fault Refusal :=
  .next (updCrew s s.arg.crew (clockLatchStep s.clock 0x10))

end Sys2Proof.Machine
end

