-- ==== Sys2Proof/Machine/Ctl.lean ====
section
/-! DEFINITION. Control instructions 0xB0 to 0xBE and NOP: branches, calls, ends, yields, sleeps and barriers (R164 to R178). -/

namespace Sys2Proof.Machine

/-! ## Branches (R164 to R167) -/

/-- The target of a B-format branch (R117). -/
def bTarget (x : Ctx) (f : BF) : BitVec 56 := x.nx + BitVec.ofInt 56 (2 * f.off.toInt)

/-- A branch taken in the lanes for which `p` holds (R165). -/
def branchRes (x : Ctx) (f : BF) (p : Nat → Bool) (s : State) : Res := .goto s (fun L => if p L then bTarget x f else x.nx)

/-- A branch of each lane to its own address; a bad target traps MISALIGN for the split (R166). -/
def jumpRes (x : Ctx) (t : Nat → Dword) (s : State) : Res :=
  match (lanes x.m).find? (fun L => t L &&& 1 == 1 || (t L).toNat ≥ 2 ^ 56) with
  | some L => .trap s (trapAt x 0x05 (t L))
  | none => .goto s (fun L => (t L).setWidth 56)

/-- BRA (R165). -/
def coreBra (f : BF) : Core := 
  { run := fun x s => branchRes x f (fun _ => true) s }
/-- BRA. -/
def execBra (f : BF) (s : State) : Host.Outcome State Fault Refusal := issue (.bra f) (coreBra f) s

/-- BRZ (R165). -/
def coreBrz (f : BF) : Core := 
  { uses := [useV f.c 1 false]
    run := fun x s => branchRes x f (fun L => vget x.c f.c.toNat L == 0) s }
/-- BRZ. -/
def execBrz (f : BF) (s : State) : Host.Outcome State Fault Refusal := issue (.brz f) (coreBrz f) s

/-- BRU (R165). -/
def coreBru (f : BF) : Core := 
  { uses := [useS f.c 1 false]
    run := fun x s => branchRes x f (fun L => (sgetL x.c f.c.toNat L).getLsbD L) s }
/-- BRU. -/
def execBru (f : BF) (s : State) : Host.Outcome State Fault Refusal := issue (.bru f) (coreBru f) s

/-- BRS (R165). -/
def coreBrs (f : BF) : Core := 
  { uses := [useV f.c 1 false]
    run := fun x s => branchRes x f (fun L => vget x.c f.c.toNat L != 0) s }
/-- BRS. -/
def execBrs (f : BF) (s : State) : Host.Outcome State Fault Refusal := issue (.brs f) (coreBrs f) s

/-- BRX (R166): kinds V, S and C with an even index. -/
def coreBrx (f : TF) : Core := 
  { illop := fun _ _ => f.k1 == 3 || oddConst f.k1 f.s1 2
    uses := useSrc f.k1 f.s1 2
    cbank := f.k1 == 2
    run := fun x s => jumpRes x (fun L => (src64 x.c .i64 f.k1 f.s1 none L).1) s }
/-- BRX. -/
def execBrx (f : TF) (s : State) : Host.Outcome State Fault Refusal := issue (.brx f) (coreBrx f) s

/-- CALL (R167): links the next address in each lane and branches. -/
def coreCall (f : BF) : Core := 
  { uses := [useV f.c 2 true]
    run := fun x s =>
      branchRes x f (fun _ => true)
        (updCrew s x.k (fun c => (lanes x.m).foldl (fun c L => vset2 c f.c.toNat L (x.nx.setWidth 64)) c)) }
/-- CALL. -/
def execCall (f : BF) (s : State) : Host.Outcome State Fault Refusal := issue (.call f) (coreCall f) s

/-- RET (R166): each lane goes to its pair. -/
def coreRet (f : TF) : Core := 
  { uses := [useV f.s1 2 false]
    run := fun x s => jumpRes x (vget2 x.c f.s1.toNat) s }
/-- RET. -/
def execRet (f : TF) (s : State) : Host.Outcome State Fault Refusal := issue (.ret f) (coreRet f) s

/-! ## Ending, yielding and sleeping (R168 to R171) -/

/-- EXIT (R168): ends the active lanes; ILLOP in a timeline launch. -/
def coreExit : Core := 
  { illop := fun c _ => c.timeline
    run := fun _ s => .ended s }
/-- EXIT. -/
def execExit (s : State) : Host.Outcome State Fault Refusal := issue .exit coreExit s

/-- Set the wait that the crew stands in once the instruction has issued. -/
def waitIn (s : State) (k : Nat) (w : Wait) : State := updCrew s k (fun c => { c with wait := w })

/-- SLEEP until clock `w`, or as YIELD when it is reached already (R170). -/
def sleepTo (x : Ctx) (w : Nat) (s : State) : Res := .done (waitIn s x.k (if w ≤ s.clock then .yield s.clock else .sleep w))

/-- YIELD (R169). -/
def coreYield : Core := 
  { run := fun x s => .done (waitIn s x.k (.yield s.clock)) }
/-- YIELD. -/
def execYield (s : State) : Host.Outcome State Fault Refusal := issue .yield coreYield s

/-- SLEEP for a number of cycles in a scalar (R170). -/
def coreSleep (f : SF) : Core := 
  { uses := [useS f.d 1 false]
    run := fun x s => sleepTo x (s.clock + (sget x.c f.d.toNat).toNat) s }
/-- SLEEP. -/
def execSleep (f : SF) (s : State) : Host.Outcome State Fault Refusal := issue (.sleep f) (coreSleep f) s

/-- SLEEP to a clock value in a scalar pair (R170). -/
def coreSleepClk (f : SF) : Core := 
  { uses := [useS f.d 2 false]
    run := fun x s => sleepTo x (sget2 x.c f.d.toNat).toNat s }
/-- SLEEP_CLK. -/
def execSleepClk (f : SF) (s : State) : Host.Outcome State Fault Refusal := issue (.sleepClk f) (coreSleepClk f) s

/-- SLEEP for a count in the word (R170). -/
def coreSleepCount (f : SF) : Core := 
  { run := fun x s => sleepTo x (s.clock + f.code.toNat % 4096) s }
/-- SLEEP_COUNT. -/
def execSleepCount (f : SF) (s : State) : Host.Outcome State Fault Refusal := issue (.sleepCount f) (coreSleepCount f) s

/-- NOP (R171). -/
def coreNop : Core := 
  { run := fun _ s => .done s }
/-- NOP. -/
def execNop (s : State) : Host.Outcome State Fault Refusal := issue .nop coreNop s

/-- K.NOP (R111): as NOP. -/
def coreKNop : Core := 
  { run := fun _ s => .done s }
/-- K_NOP. -/
def execKNop (s : State) : Host.Outcome State Fault Refusal := issue .kNop coreKNop s

/-- YIELD_EXPIRY (R169): 64 cycles after its YIELD, crew `arg.crew` becomes ready. -/
def execYieldExpiry (s : State) : Host.Outcome State Fault Refusal :=
  .next (updCrew s s.arg.crew (fun c =>
    match c.wait with
    | .yield t => if t + 64 ≤ s.clock then { c with wait := .none, readySince := max c.readySince s.clock } else c
    | _ => c))

/-- SLEEP_WAKE (R170): `clock` has reached the wake value of crew `arg.crew`. -/
def execSleepWake (s : State) : Host.Outcome State Fault Refusal :=
  .next (updCrew s s.arg.crew (fun c =>
    match c.wait with
    | .sleep w => if w ≤ s.clock then { c with wait := .none, readySince := max c.readySince s.clock } else c
    | _ => c))

/-! ## Barriers (R172 to R178) -/

/-- The cause of a bad object offset, in the order of R450 (R175). -/
def barBad (s : State) (c : Crew) (v : Word) : Option Byte :=
  if v.toNat ≥ 2 ^ 19 then some 0x13
  else if v.toNat % 16 != 0 then some 0x05
  else if (teamAt s c.teamKey).size < v.toNat + 16 then some 0x13
  else none

/-- BARDEAD with its reason (R177). -/
def barDead (x : Ctx) (off reason : Nat) (m : Mask) : TrapReq :=
  { trapAt x 0x40 (BitVec.ofNat 64 (off + reason * 2 ^ 56)) with tmask := m }

/-- The offset of the object, as a number. -/
def barOff (c : Crew) (f : TF) : Nat := (opA c .i32 f 0).toNat

/-- Run `g` once the offset and the object's CONV pass their checks (R175, R177). -/
def barRun (f : TF) (conv : Bool) (g : Ctx → Nat → State → Res) (x : Ctx) (s : State) : Res :=
  let off := barOff x.c f
  match barBad s x.c (opA x.c .i32 f 0) with
  | some cause => .trap s (trapAt x cause (BitVec.ofNat 64 off))
  | none => if barConv (teamAt s x.c.teamKey) off != conv then .trap s (barDead x off 4 x.m) else g x off s

/-- The phase of the object at `off` awaits only bytes, so that an arrival waits for the next one (R174). DESIGN CHOICE (log entry 51): where INBYTES and OUTBYTES are zero
too, as in an object that was never initialised, the arrival waits as well. -/
def barFull (s : State) (tk off : Nat) : Bool := scN (teamAt s tk) (off + 4) 4 == 0

/-- Arrive and wait until the generation moves on (R175); an arrival at PENDING 0 parks the crew and counts in the new phase (R174). -/
def barArrive (conv : Bool) (x : Ctx) (off : Nat) (s : State) : Res :=
  let tk := x.c.teamKey
  if barFull s tk off then .done (waitIn (nameObj s tk off) x.k (.arrive off conv none))
  else
    let g := barGen (teamAt s tk) off
    let s := barUpd s tk off (-1) 0 0 false
    .done (if barGen (teamAt s tk) off == g then waitIn s x.k (.barrier off g conv) else s)

/-- Arrive without a wait: the destination receives the generation at the arrival (R175), which at PENDING 0 comes with the next phase (R174). -/
def barArriveA (d : Nat) (x : Ctx) (off : Nat) (s : State) : Res :=
  let tk := x.c.teamKey
  if barFull s tk off then .done (waitIn (nameObj s tk off) x.k (.arrive off false (some d)))
  else
    let g := barGen (teamAt s tk) off
    .done (updCrew (barUpd s tk off (-1) 0 0 false) x.k (fun c => sset c d (BitVec.ofNat 32 g)))

/-- S1 of a barrier instruction: kind S or C (R175). -/
def barKind (f : TF) : Bool := f.k1 == 0 || f.k1 == 3

/-- BAR (R175). -/
def coreBar (f : TF) : Core := 
  { illop := fun _ _ => barKind f
    uses := useSrc f.k1 f.s1 1
    cbank := f.k1 == 2
    run := barRun f false (barArrive false) }
/-- BAR. -/
def execBar (f : TF) (s : State) : Host.Outcome State Fault Refusal := issue (.bar f) (coreBar f) s

/-- BARA (R175): arrives and gives the generation at its arrival. -/
def coreBara (f : TF) : Core := 
  { illop := fun _ _ => barKind f
    uses := useSrc f.k1 f.s1 1 ++ [useS f.d 1 true]
    cbank := f.k1 == 2
    run := barRun f false (barArriveA f.d.toNat) }
/-- BARA. -/
def execBara (f : TF) (s : State) : Host.Outcome State Fault Refusal := issue (.bara f) (coreBara f) s

/-- BARW (R175): waits until GEN differs from g [3:0]. Its S2 has no extension word. -/
def coreBarw (f : TF) : Core := 
  { illop := fun _ _ => barKind f || f.k2 == 0 || f.e.isSome
    uses := useSrc f.k1 f.s1 1 ++ useSrc f.k2 f.s2 1
    cbank := f.k1 == 2 || f.k2 == 2
    run := barRun f false (fun x off s =>
      let g := (opB x.c .i32 f 0).toNat % 16
      let s := nameObj s x.c.teamKey off
      .done (if barGen (teamAt s x.c.teamKey) off == g then waitIn s x.k (.barrier off g false) else s)) }
/-- BARW. -/
def execBarw (f : TF) (s : State) : Host.Outcome State Fault Refusal := issue (.barw f) (coreBarw f) s

/-- Why BARC may not arrive: the lowest reason of R177 with its lanes. -/
def barcBad (c : Crew) (pc : BitVec 56) : Option (Nat × Mask) :=
  let ended := lanesIn c.fr .ended
  let above := maskOf (fun L => (frGet c.fr L).st == .live && (frGet c.fr L).resume != pc)
  let held := lanesIn c.fr .held
  if ended != 0 then some (1, ended) else if above != 0 then some (2, above) else if held != 0 then some (3, held) else none

/-- BARC (R177): checks convergence, then arrives and waits. -/
def coreBarc (f : TF) : Core := 
  { illop := fun _ _ => barKind f
    uses := useSrc f.k1 f.s1 1
    cbank := f.k1 == 2
    run := fun x s =>
      let off := barOff x.c f
      match barBad s x.c (opA x.c .i32 f 0) with
      | some cause => .trap s (trapAt x cause (BitVec.ofNat 64 off))
      | none =>
        match barcBad x.c x.pc with
        | some r => .trap s (barDead x off r.1 r.2)
        | none => barRun f true (barArrive true) x s }
/-- BARC. -/
def execBarc (f : TF) (s : State) : Host.Outcome State Fault Refusal := issue (.barc f) (coreBarc f) s

/-- BARI (R175, R176): initialises an object as one update. -/
def coreBari (f : TF) : Core := 
  { illop := fun _ _ => barKind f || f.k2 == 0
    uses := useSrc f.k1 f.s1 1 ++ useSrc f.k2 f.s2 1
    cbank := f.k1 == 2 || f.k2 == 2
    run := fun x s =>
      let off := barOff x.c f
      let n := opB x.c .i32 f 0
      let conv := f.d.toNat % 2 == 1
      let tk := x.c.teamKey
      let t := teamAt s tk
      if 2 ^ 19 ≤ off then .trap s (trapAt x 0x13 (BitVec.ofNat 64 off))
      else if n == 0 || 65536 ≤ n.toNat then .trap s (trapAt x 0x13 (n.setWidth 64))
      else
        match barBad s x.c (opA x.c .i32 f 0) with
        | some cause => .trap s (trapAt x cause (BitVec.ofNat 64 off))
        | none =>
          if conv && !(t.conv.contains off) && 4 ≤ t.conv.length then .trap s (barDead x off 5 x.m)
          else
            let s := scW s tk off (natBytes 4 (65536 * n.toNat + (if conv then 16 else 0)) ++ natBytes 4 n.toNat ++ natBytes 8 0)
            let s := { s with teams := mmodify s.teams tk (fun t =>
              { t with conv := if conv then (if t.conv.contains off then t.conv else t.conv ++ [off]) else t.conv.filter (fun o => o != off) }) }
            .done (barUpd s tk off 0 0 0 true) }
/-- BARI. -/
def execBari (f : TF) (s : State) : Host.Outcome State Fault Refusal := issue (.bari f) (coreBari f) s

end Sys2Proof.Machine
end

