-- ==== Sys2Proof/Machine/Fpu.lean ====
section
/-! DEFINITION. F32, F64, conversion, block-floating-point and packed-half instructions, 0x40 to 0x7C, and the K words of them (R196 to R209, R111). -/

namespace Sys2Proof.Machine

/-- A float result as the words and flags of a lane. -/
def fw (r : FRes) : List Word × Word := ([BitVec.ofNat 32 r.1], r.2)
/-- A 64-bit float result as the words and flags of a lane. -/
def fw2 (r : FRes) : List Word × Word := ([BitVec.ofNat 32 r.1, BitVec.ofNat 32 (r.1 / 2 ^ 32)], r.2)
/-- The bits of an F32 operand. -/
def nA (c : Crew) (f : TF) (L : Nat) : Nat := (opA c .f32 f L).toNat
/-- The bits of an F32 operand. -/
def nB (c : Crew) (f : TF) (L : Nat) : Nat := (opB c .f32 f L).toNat

/-- Two F32 operands, one F32 result (R196). -/
def fp2 (f : TF) (cyc : Nat) (g : BitVec 2 → FVal → FVal → FRes) : Core :=
  laneCore f 1 1 1 false cyc (fun c L => fw (g c.rnd (fdec F32 (nA c f L)) (fdec F32 (nB c f L))))
/-- One F32 operand, one F32 result (R196, R197). -/
def fp1 (f : TF) (cyc : Nat) (g : BitVec 2 → FVal → FRes) : Core :=
  laneCore f 1 0 1 false cyc (fun c L => fw (g c.rnd (fdec F32 (nA c f L))))
/-- One operand handled as bits. -/
def fbits1 (f : TF) (g : BitVec 2 → Nat → FRes) : Core := laneCore f 1 0 1 false 1 (fun c L => fw (g c.rnd (nA c f L)))
/-- Two operands handled as bits. -/
def fbits2 (f : TF) (g : Nat → Nat → FRes) : Core := laneCore f 1 1 1 false 1 (fun c L => fw (g (nA c f L) (nB c f L)))

/-- Two F64 operands: words and flags of the operation joined with those of widening (R203, R114). -/
def dp2 (f : TF) (nd cyc : Nat) (g : BitVec 2 → Nat → Nat → List Word × Word) : Core :=
  laneCore f 2 2 nd false cyc (fun c L =>
    let a := opA2 c .f64 f L
    let b := opB2 c .f64 f L
    let r := g c.rnd a.1.toNat b.1.toNat
    (r.1, r.2 ||| a.2 ||| b.2))
/-- One F64 operand. -/
def dp1 (f : TF) (cyc : Nat) (g : BitVec 2 → Nat → FRes) : Core :=
  laneCore f 2 0 2 false cyc (fun c L => let a := opA2 c .f64 f L; let r := fw2 (g c.rnd a.1.toNat); (r.1, r.2 ||| a.2))

/-- NV of a comparison: for any NaN operand, or for an sNaN (R198). -/
def cmpNv (anyNan : Bool) (a b : FVal) : Word := nvIf (if anyNan then isNan a || isNan b else isSnan a || isSnan b)
/-- An F32 comparison into vD (R198). -/
def fset (f : TF) (anyNan : Bool) (p : FVal → FVal → Bool) : Core :=
  laneCore f 1 1 1 false 1 (fun c L => let a := fdec F32 (nA c f L); let b := fdec F32 (nB c f L); ([b2w (p a b)], cmpNv anyNan a b))
/-- An F32 comparison into a lane mask (R198). -/
def fmsk (f : TF) (anyNan : Bool) (p : FVal → FVal → Bool) : Core :=
  scalarCore f 1 (fun c m => maskOf (fun L => m.getLsbD L && p (fdec F32 (nA c f L)) (fdec F32 (nB c f L))))
    (fun c L => cmpNv anyNan (fdec F32 (nA c f L)) (fdec F32 (nB c f L)))
/-- An F64 comparison into vD (R203). -/
def dset (f : TF) (anyNan : Bool) (p : FVal → FVal → Bool) : Core :=
  dp2 f 1 4 (fun _ x y => let a := fdec F64 x; let b := fdec F64 y; ([b2w (p a b)], cmpNv anyNan a b))
/-- Less or equal, −0 equal to +0. -/
def flev (a b : FVal) : Bool := fltv a b || feqv a b
/-- Unordered. -/
def funv (a b : FVal) : Bool := isNan a || isNan b

/-- The exact value of a finite result minus nothing: a dyadic number, 0 for infinities and NaN. -/
def dyOf : FVal → Dy
  | .fin s m e => (sgn s m, e)
  | _ => (0, 0)
/-- The value is finite. -/
def isFin : FVal → Bool
  | .fin .. => true
  | _ => false
/-- The exact error of a rounded F32 result `s` of the exact value `x`, in format `g`; +0 when `s` is not finite (R201). -/
def errOf (g : Fmt) (x : Dy) (s : Nat) : Nat :=
  match fdec F32 s with
  | .fin t m e => (dyRound g 0 false (dyAdd x (-(sgn t m), e))).1
  | _ => 0

/-- FREDX over the active lanes (R202): the F64 sum and the flags of a lane. -/
def fredxRes (f : TF) (c : Crew) (m : Mask) (L : Nat) : List Word × Word :=
  let vs := (lanes m).map (fun j => fdec F32 (nA c f j))
  let own := nvIf (isSnan (fdec F32 (nA c f L)))
  let pinf := vs.any (fun v => isInf v && !(isNeg v))
  let ninf := vs.any (fun v => isInf v && isNeg v)
  if vs.any isNan then
    let r := fw2 (cnan F64, 0)
    (r.1, own ||| (if pinf && ninf then fNV else 0))
  else if pinf && ninf then fw2 (cnan F64, fNV)
  else if pinf then fw2 (infBits F64 false, 0)
  else if ninf then fw2 (infBits F64 true, 0)
  else
    let sum := vs.foldl (fun a v => dyAdd a (dyOf v)) (0, 0)
    let z := vs.all (fun v => isZero v && isNeg v) || c.rnd == 3
    let r := dyRound F64 c.rnd z sum
    fw2 (r.1, r.2 &&& fNX)

/-- A conversion code's source: its operand type (R71). -/
def cvtSrc (code : Nat) : OTy :=
  match code with
  | 0 | 1 | 5 | 12 | 13 | 22 | 23 | 24 | 25 | 26 | 28 => .f32
  | 2 | 8 | 10 => .h16
  | 3 | 9 | 11 => .b16
  | 4 | 6 | 7 | 16 | 17 | 20 | 27 => .f64
  | 18 | 19 | 29 => .i64
  | _ => .i32
/-- The source is 64 bits. -/
def cvtSrc64 (code : Nat) : Bool := cvtSrc code == .f64 || cvtSrc code == .i64
/-- The result is 64 bits (R71). -/
def cvtDst64 (code : Nat) : Bool := [5, 8, 9, 16, 17, 18, 19, 21, 28].contains code
/-- The source or the result is H16 or B16 (R442). -/
def cvtHalf (code : Nat) : Bool := [0, 1, 2, 3, 6, 7, 8, 9, 10, 11].contains code

/-- A value of width `w` sign-extended to 32 bits. -/
def sxN (w x : Nat) : Nat := if x / 2 ^ (w - 1) % 2 == 1 then x + 2 ^ 32 - 2 ^ w else x

/-- `cvt(code, x)` (R71): the result and its flags; `m` is the crew's rounding mode. -/
def cvt (code : Nat) (m : BitVec 2) (x : Nat) : FRes :=
  let half := x % 65536
  match code with
  | 0 => cvtFF F32 H16 m x
  | 1 => cvtFF F32 B16 m x
  | 2 => cvtFF H16 F32 m half
  | 3 => cvtFF B16 F32 m half
  | 4 => cvtFF F64 F32 m x
  | 5 => cvtFF F32 F64 m x
  | 6 => cvtFF F64 H16 m x
  | 7 => cvtFF F64 B16 m x
  | 8 => cvtFF H16 F64 m half
  | 9 => cvtFF B16 F64 m half
  | 10 => cvtFF H16 B16 m half
  | 11 => cvtFF B16 H16 m half
  | 12 => cvtFI F32 32 true m x
  | 13 => cvtFI F32 32 false m x
  | 14 => cvtIF F32 m (BitVec.ofNat 32 x).toInt
  | 15 => cvtIF F32 m x
  | 16 => cvtFI F64 64 true m x
  | 17 => cvtFI F64 64 false m x
  | 18 => cvtIF F64 m (BitVec.ofNat 64 x).toInt
  | 19 => cvtIF F64 m x
  | 20 => cvtFI F64 32 true m x
  | 21 => cvtIF F64 0 (BitVec.ofNat 32 x).toInt
  | 22 => let r := cvtFI F32 8 true m x; (sxN 8 r.1, r.2)
  | 23 => cvtFI F32 8 false m x
  | 24 => let r := cvtFI F32 16 true m x; (sxN 16 r.1, r.2)
  | 25 => cvtFI F32 16 false m x
  | 26 => cvtFI F32 32 true 1 x
  | 27 => cvtFI F64 32 true 1 x
  | 28 => cvtFI F32 64 true m x
  | _ => cvtIF F32 m (BitVec.ofNat 64 x).toInt

/-- An instruction with the effect of a CVT code (R204, R205). DESIGN CHOICE (log entry 47): a 64-bit result makes a CVT one "with a 64-bit operand" (R182), of 2 cycles, as a 64-bit
source does. -/
def cvtCore (f : TF) (code : Nat) : Core :=
  let n1 := if cvtSrc64 code then 2 else 1
  let nd := if cvtDst64 code then 2 else 1
  laneCore f n1 0 nd false (if cvtSrc64 code || cvtDst64 code then 2 else 1) (fun c L =>
    let a := if cvtSrc64 code then opA2 c (cvtSrc code) f L else ((opA c (cvtSrc code) f L).setWidth 64, 0)
    let r := cvt code c.rnd a.1.toNat
    let w := fw2 r
    (w.1.take nd, w.2 ||| a.2))

/-- PACKH and PACKB (R206). -/
def packCore (f : TF) (g : Fmt) : Core :=
  { laneCore f 1 1 1 false 1 (fun c L =>
      let a := cvtFF F32 g c.rnd (nA c f L)
      let b := cvtFF F32 g c.rnd (nB c f L)
      ([BitVec.ofNat 32 (a.1 + 65536 * b.1)], a.2 ||| b.2)) with
    illop := fun _ s => lowWater s }
/-- UNPKH and UNPKB (R206). -/
def unpkCore (f : TF) (t : OTy) (g : Fmt) : Core :=
  { laneCore f 1 0 2 false 2 (fun c L =>
      let x := (opA c t f L).toNat
      let a := cvtFF g F32 0 (x % 65536)
      let b := cvtFF g F32 0 (x / 65536)
      ([BitVec.ofNat 32 a.1, BitVec.ofNat 32 b.1], a.2 ||| b.2)) with
    illop := fun _ s => lowWater s }

/-- A packed form (R209): the operation on each 16-bit element of a, b and old vD. -/
def halfCore (f : TF) (t : OTy) (g : Fmt) (d3 : Bool) (op : BitVec 2 → FVal → FVal → FVal → FRes) : Core :=
  { laneCore f 1 1 1 d3 1 (fun c L =>
      let a := (opA c t f L).toNat
      let b := (opB c t f L).toNat
      let d := (vget c f.d.toNat L).toNat
      let lo := op c.rnd (fdec g (a % 65536)) (fdec g (b % 65536)) (fdec g (d % 65536))
      let hi := op c.rnd (fdec g (a / 65536)) (fdec g (b / 65536)) (fdec g (d / 65536))
      ([BitVec.ofNat 32 (lo.1 + 65536 * hi.1)], lo.2 ||| hi.2)) with
    illop := fun _ s => lowWater s }

/-- The words and flags that BFPENC gives lane `L` (R207): its block starts at lane `b0` and has `n` lanes. -/
def bfpencLane (f : TF) (ctl : Nat) (c : Crew) (m : Mask) (L : Nat) : List Word × Word :=
  let b := fld ctl 3 0
  let n := if fld ctl 5 5 == 1 then 16 else 32
  let b0 := L / n * n
  let xs := (List.range n).map (fun p => if m.getLsbD (b0 + p) then nA c f (b0 + p) else 0)
  let k := bfpEnc b (fld ctl 4 4 == 1) (fld ctl 13 8) xs
  let p := L - b0
  let own := nvIf (isSnan (fdec F32 (nA c f L)))
  let fl := if k.nan then own else (if k.inexact.getD p false then fNX else 0) ||| (if k.sat then fOF else 0)
  ([W32 (k.m.getD p 0), BitVec.ofNat 32 (k.E + 256 * b)], fl)
/-- A control word of BFPENC that traps RANGE (R207). -/
def bfpCtlBad (ctl : Nat) : Bool := fld ctl 31 14 != 0 || fld ctl 7 6 != 0 || fld ctl 3 0 < 2 || 8 < fld ctl 3 0

/-- The word that BFPDEC gives a lane (R208). -/
def bfpdecLane (f : TF) (c : Crew) (L : Nat) : Word :=
  let e := (opB c .i32 f L).toNat
  let b := fld e 11 8
  BitVec.ofNat 32 (bfpF32 b (fld e 7 0) (bfpMant b (opA c .i32 f L).toNat 0))

/-- FADD (R196). -/
def coreFadd (f : TF) : Core := fp2 f 1 (fadd F32)
/-- FADD. -/
def execFadd (f : TF) (s : State) : Host.Outcome State Fault Refusal := issue (.fadd f) (coreFadd f) s

/-- FSUB (R196). -/
def coreFsub (f : TF) : Core := fp2 f 1 (fun m a b => fadd F32 m a (fneg b))
/-- FSUB. -/
def execFsub (f : TF) (s : State) : Host.Outcome State Fault Refusal := issue (.fsub f) (coreFsub f) s

/-- FMUL (R196). -/
def coreFmul (f : TF) : Core := fp2 f 1 (fmul F32)
/-- FMUL. -/
def execFmul (f : TF) (s : State) : Host.Outcome State Fault Refusal := issue (.fmul f) (coreFmul f) s

/-- FMA (R196): a × b + old vD with one rounding. -/
def coreFma (f : TF) : Core := laneCore f 1 1 1 true 1 (fun c L =>
  fw (ffma F32 c.rnd (fdec F32 (nA c f L)) (fdec F32 (nB c f L)) (fdec F32 (vget c f.d.toNat L).toNat)))
/-- FMA. -/
def execFma (f : TF) (s : State) : Host.Outcome State Fault Refusal := issue (.fma f) (coreFma f) s

/-- FMIN (R68). -/
def coreFmin (f : TF) : Core := fbits2 f (fminmax F32 false)
/-- FMIN. -/
def execFmin (f : TF) (s : State) : Host.Outcome State Fault Refusal := issue (.fmin f) (coreFmin f) s

/-- FMAX (R68). -/
def coreFmax (f : TF) : Core := fbits2 f (fminmax F32 true)
/-- FMAX. -/
def execFmax (f : TF) (s : State) : Host.Outcome State Fault Refusal := issue (.fmax f) (coreFmax f) s

/-- FABS (R196): bit 31 cleared, no flag. -/
def coreFabs (f : TF) : Core := fbits1 f (fun _ x => (x % 2 ^ 31, 0))
/-- FABS. -/
def execFabs (f : TF) (s : State) : Host.Outcome State Fault Refusal := issue (.fabs f) (coreFabs f) s

/-- FNEG (R196): bit 31 inverted, no flag. -/
def coreFneg (f : TF) : Core := fbits1 f (fun _ x => (x ^^^ 2 ^ 31, 0))
/-- FNEG. -/
def execFneg (f : TF) (s : State) : Host.Outcome State Fault Refusal := issue (.fneg f) (coreFneg f) s

/-- FDIV (R196). -/
def coreFdiv (f : TF) : Core := fp2 f 4 (fdiv F32)
/-- FDIV. -/
def execFdiv (f : TF) (s : State) : Host.Outcome State Fault Refusal := issue (.fdiv f) (coreFdiv f) s

/-- FSQRT (R196). -/
def coreFsqrt (f : TF) : Core := fp1 f 4 (fsqrt F32)
/-- FSQRT. -/
def execFsqrt (f : TF) (s : State) : Host.Outcome State Fault Refusal := issue (.fsqrt f) (coreFsqrt f) s

/-- FRCP (R196): 1 / a. -/
def coreFrcp (f : TF) : Core := fp1 f 4 (fun m a => fdiv F32 m (.fin false 1 0) a)
/-- FRCP. -/
def execFrcp (f : TF) (s : State) : Host.Outcome State Fault Refusal := issue (.frcp f) (coreFrcp f) s

/-- FRSQ (R196). -/
def coreFrsq (f : TF) : Core := fp1 f 4 (frsq F32)
/-- FRSQ. -/
def execFrsq (f : TF) (s : State) : Host.Outcome State Fault Refusal := issue (.frsq f) (coreFrsq f) s

/-- FEXP2 (R197). -/
def coreFexp2 (f : TF) : Core := fp1 f 8 fexp2
/-- FEXP2. -/
def execFexp2 (f : TF) (s : State) : Host.Outcome State Fault Refusal := issue (.fexp2 f) (coreFexp2 f) s

/-- FLOG2 (R197). -/
def coreFlog2 (f : TF) : Core := fp1 f 8 flog2
/-- FLOG2. -/
def execFlog2 (f : TF) (s : State) : Host.Outcome State Fault Refusal := issue (.flog2 f) (coreFlog2 f) s

/-- FSIN (R197). -/
def coreFsin (f : TF) : Core := fp1 f 8 fsin
/-- FSIN. -/
def execFsin (f : TF) (s : State) : Host.Outcome State Fault Refusal := issue (.fsin f) (coreFsin f) s

/-- FCOS (R197). -/
def coreFcos (f : TF) : Core := fp1 f 8 fcos
/-- FCOS. -/
def execFcos (f : TF) (s : State) : Host.Outcome State Fault Refusal := issue (.fcos f) (coreFcos f) s

/-- FSETEQ (R198). -/
def coreFseteq (f : TF) : Core := fset f false feqv
/-- FSETEQ. -/
def execFseteq (f : TF) (s : State) : Host.Outcome State Fault Refusal := issue (.fseteq f) (coreFseteq f) s

/-- FSETLT (R198). -/
def coreFsetlt (f : TF) : Core := fset f true fltv
/-- FSETLT. -/
def execFsetlt (f : TF) (s : State) : Host.Outcome State Fault Refusal := issue (.fsetlt f) (coreFsetlt f) s

/-- FSETLE (R198). -/
def coreFsetle (f : TF) : Core := fset f true flev
/-- FSETLE. -/
def execFsetle (f : TF) (s : State) : Host.Outcome State Fault Refusal := issue (.fsetle f) (coreFsetle f) s

/-- FSETUN (R198). -/
def coreFsetun (f : TF) : Core := fset f false funv
/-- FSETUN. -/
def execFsetun (f : TF) (s : State) : Host.Outcome State Fault Refusal := issue (.fsetun f) (coreFsetun f) s

/-- FMSKEQ (R198). -/
def coreFmskeq (f : TF) : Core := fmsk f false feqv
/-- FMSKEQ. -/
def execFmskeq (f : TF) (s : State) : Host.Outcome State Fault Refusal := issue (.fmskeq f) (coreFmskeq f) s

/-- FMSKLT (R198). -/
def coreFmsklt (f : TF) : Core := fmsk f true fltv
/-- FMSKLT. -/
def execFmsklt (f : TF) (s : State) : Host.Outcome State Fault Refusal := issue (.fmsklt f) (coreFmsklt f) s

/-- FMSKLE (R198). -/
def coreFmskle (f : TF) : Core := fmsk f true flev
/-- FMSKLE. -/
def execFmskle (f : TF) (s : State) : Host.Outcome State Fault Refusal := issue (.fmskle f) (coreFmskle f) s

/-- FMSKUN (R198). -/
def coreFmskun (f : TF) : Core := fmsk f false funv
/-- FMSKUN. -/
def execFmskun (f : TF) (s : State) : Host.Outcome State Fault Refusal := issue (.fmskun f) (coreFmskun f) s

/-- FCLASS (R199). -/
def coreFclass (f : TF) : Core := fbits1 f (fun _ x => (2 ^ fclassBit x, 0))
/-- FCLASS. -/
def execFclass (f : TF) (s : State) : Host.Outcome State Fault Refusal := issue (.fclass f) (coreFclass f) s

/-- FRINT (R200). -/
def coreFrint (f : TF) : Core := fbits1 f (fun m x => frint F32 m true x)
/-- FRINT. -/
def execFrint (f : TF) (s : State) : Host.Outcome State Fault Refusal := issue (.frint f) (coreFrint f) s

/-- FFLOOR (R200). -/
def coreFfloor (f : TF) : Core := fbits1 f (fun _ x => frint F32 3 false x)
/-- FFLOOR. -/
def execFfloor (f : TF) (s : State) : Host.Outcome State Fault Refusal := issue (.ffloor f) (coreFfloor f) s

/-- FCEIL (R200). -/
def coreFceil (f : TF) : Core := fbits1 f (fun _ x => frint F32 2 false x)
/-- FCEIL. -/
def execFceil (f : TF) (s : State) : Host.Outcome State Fault Refusal := issue (.fceil f) (coreFceil f) s

/-- FTRUNC (R200). -/
def coreFtrunc (f : TF) : Core := fbits1 f (fun _ x => frint F32 1 false x)
/-- FTRUNC. -/
def execFtrunc (f : TF) (s : State) : Host.Outcome State Fault Refusal := issue (.ftrunc f) (coreFtrunc f) s

/-- FERRADD (R201): the rounded sum and its exact error. -/
def coreFerradd (f : TF) : Core := laneCore f 1 1 2 false 2 (fun c L =>
  let a := fdec F32 (nA c f L)
  let b := fdec F32 (nB c f L)
  let r := fadd F32 0 a b
  ([BitVec.ofNat 32 r.1, BitVec.ofNat 32 (errOf F32 (dyAdd (dyOf a) (dyOf b)) r.1)], r.2))
/-- FERRADD. -/
def execFerradd (f : TF) (s : State) : Host.Outcome State Fault Refusal := issue (.ferradd f) (coreFerradd f) s

/-- FERRMUL (R201): the rounded product, +0, and its exact F64 error. -/
def coreFerrmul (f : TF) : Core := laneCore f 1 1 4 false 2 (fun c L =>
  let a := fdec F32 (nA c f L)
  let b := fdec F32 (nB c f L)
  let r := fmul F32 0 a b
  let e := errOf F64 (dyMul (dyOf a) (dyOf b)) r.1
  ([BitVec.ofNat 32 r.1, 0] ++ (fw2 (e, 0)).1, r.2))
/-- FERRMUL. -/
def execFerrmul (f : TF) (s : State) : Host.Outcome State Fault Refusal := issue (.ferrmul f) (coreFerrmul f) s

/-- FREDX (R202). -/
def coreFredx (f : TF) : Core := crossCore f 0 2 4 false (fredxRes f)
/-- FREDX. -/
def execFredx (f : TF) (s : State) : Host.Outcome State Fault Refusal := issue (.fredx f) (coreFredx f) s

/-- DADD (R203). -/
def coreDadd (f : TF) : Core := dp2 f 2 4 (fun m a b => fw2 (fadd F64 m (fdec F64 a) (fdec F64 b)))
/-- DADD. -/
def execDadd (f : TF) (s : State) : Host.Outcome State Fault Refusal := issue (.dadd f) (coreDadd f) s

/-- DSUB (R203). -/
def coreDsub (f : TF) : Core := dp2 f 2 4 (fun m a b => fw2 (fadd F64 m (fdec F64 a) (fneg (fdec F64 b))))
/-- DSUB. -/
def execDsub (f : TF) (s : State) : Host.Outcome State Fault Refusal := issue (.dsub f) (coreDsub f) s

/-- DMUL (R203). -/
def coreDmul (f : TF) : Core := dp2 f 2 4 (fun m a b => fw2 (fmul F64 m (fdec F64 a) (fdec F64 b)))
/-- DMUL. -/
def execDmul (f : TF) (s : State) : Host.Outcome State Fault Refusal := issue (.dmul f) (coreDmul f) s

/-- DFMA (R203): three-source pair vD. -/
def coreDfma (f : TF) : Core := laneCore f 2 2 2 true 4 (fun c L =>
  let a := opA2 c .f64 f L
  let b := opB2 c .f64 f L
  let r := fw2 (ffma F64 c.rnd (fdec F64 a.1.toNat) (fdec F64 b.1.toNat) (fdec F64 (vget2 c f.d.toNat L).toNat))
  (r.1, r.2 ||| a.2 ||| b.2))
/-- DFMA. -/
def execDfma (f : TF) (s : State) : Host.Outcome State Fault Refusal := issue (.dfma f) (coreDfma f) s

/-- DMIN (R203, R68). -/
def coreDmin (f : TF) : Core := dp2 f 2 4 (fun _ a b => fw2 (fminmax F64 false a b))
/-- DMIN. -/
def execDmin (f : TF) (s : State) : Host.Outcome State Fault Refusal := issue (.dmin f) (coreDmin f) s

/-- DMAX (R203, R68). -/
def coreDmax (f : TF) : Core := dp2 f 2 4 (fun _ a b => fw2 (fminmax F64 true a b))
/-- DMAX. -/
def execDmax (f : TF) (s : State) : Host.Outcome State Fault Refusal := issue (.dmax f) (coreDmax f) s

/-- DDIV (R203). -/
def coreDdiv (f : TF) : Core := dp2 f 2 16 (fun m a b => fw2 (fdiv F64 m (fdec F64 a) (fdec F64 b)))
/-- DDIV. -/
def execDdiv (f : TF) (s : State) : Host.Outcome State Fault Refusal := issue (.ddiv f) (coreDdiv f) s

/-- DSQRT (R203). -/
def coreDsqrt (f : TF) : Core := dp1 f 16 (fun m a => fsqrt F64 m (fdec F64 a))
/-- DSQRT. -/
def execDsqrt (f : TF) (s : State) : Host.Outcome State Fault Refusal := issue (.dsqrt f) (coreDsqrt f) s

/-- DSETLT (R203). -/
def coreDsetlt (f : TF) : Core := dset f true fltv
/-- DSETLT. -/
def execDsetlt (f : TF) (s : State) : Host.Outcome State Fault Refusal := issue (.dsetlt f) (coreDsetlt f) s

/-- DSETEQ (R203). -/
def coreDseteq (f : TF) : Core := dset f false feqv
/-- DSETEQ. -/
def execDseteq (f : TF) (s : State) : Host.Outcome State Fault Refusal := issue (.dseteq f) (coreDseteq f) s

/-- DSETLE (R203). -/
def coreDsetle (f : TF) : Core := dset f true flev
/-- DSETLE. -/
def execDsetle (f : TF) (s : State) : Host.Outcome State Fault Refusal := issue (.dsetle f) (coreDsetle f) s

/-- DABS (R203): bit 63 cleared. -/
def coreDabs (f : TF) : Core := dp1 f 4 (fun _ a => (a % 2 ^ 63, 0))
/-- DABS. -/
def execDabs (f : TF) (s : State) : Host.Outcome State Fault Refusal := issue (.dabs f) (coreDabs f) s

/-- CVT (R204): the code is the literal in S2. -/
def coreCvt (f : TF) : Core := 
  let o := cvtCore f f.s2.toNat
  { o with illop := fun c s => o.illop c s || f.k2 != 3 || f.s2.toNat > 29 || (lowWater s && cvtHalf f.s2.toNat) }
/-- CVT. -/
def execCvt (f : TF) (s : State) : Host.Outcome State Fault Refusal := issue (.cvt f) (coreCvt f) s

/-- ICVTF (R205): code 14, S32 to F32. -/
def coreIcvtf (f : TF) : Core := cvtCore f 14
/-- ICVTF. -/
def execIcvtf (f : TF) (s : State) : Host.Outcome State Fault Refusal := issue (.icvtf f) (coreIcvtf f) s

/-- UCVTF (R205): code 15, U32 to F32. -/
def coreUcvtf (f : TF) : Core := cvtCore f 15
/-- UCVTF. -/
def execUcvtf (f : TF) (s : State) : Host.Outcome State Fault Refusal := issue (.ucvtf f) (coreUcvtf f) s

/-- FCVTI (R205): code 12, F32 to S32 with `rnd`. -/
def coreFcvti (f : TF) : Core := cvtCore f 12
/-- FCVTI. -/
def execFcvti (f : TF) (s : State) : Host.Outcome State Fault Refusal := issue (.fcvti f) (coreFcvti f) s

/-- DCVTF (R205): code 4, F64 to F32. -/
def coreDcvtf (f : TF) : Core := cvtCore f 4
/-- DCVTF. -/
def execDcvtf (f : TF) (s : State) : Host.Outcome State Fault Refusal := issue (.dcvtf f) (coreDcvtf f) s

/-- FCVTD (R205): code 5, F32 to F64. -/
def coreFcvtd (f : TF) : Core := cvtCore f 5
/-- FCVTD. -/
def execFcvtd (f : TF) (s : State) : Host.Outcome State Fault Refusal := issue (.fcvtd f) (coreFcvtd f) s

/-- FCVTN (R205): F32 to S32 with RNE. -/
def coreFcvtn (f : TF) : Core := fbits1 f (fun _ x => cvtFI F32 32 true 0 x)
/-- FCVTN. -/
def execFcvtn (f : TF) (s : State) : Host.Outcome State Fault Refusal := issue (.fcvtn f) (coreFcvtn f) s

/-- PACKH (R206). -/
def corePackh (f : TF) : Core := packCore f H16
/-- PACKH. -/
def execPackh (f : TF) (s : State) : Host.Outcome State Fault Refusal := issue (.packh f) (corePackh f) s

/-- PACKB (R206). -/
def corePackb (f : TF) : Core := packCore f B16
/-- PACKB. -/
def execPackb (f : TF) (s : State) : Host.Outcome State Fault Refusal := issue (.packb f) (corePackb f) s

/-- UNPKH (R206). -/
def coreUnpkh (f : TF) : Core := unpkCore f .hpair H16
/-- UNPKH. -/
def execUnpkh (f : TF) (s : State) : Host.Outcome State Fault Refusal := issue (.unpkh f) (coreUnpkh f) s

/-- UNPKB (R206). -/
def coreUnpkb (f : TF) : Core := unpkCore f .bpair B16
/-- UNPKB. -/
def execUnpkb (f : TF) (s : State) : Host.Outcome State Fault Refusal := issue (.unpkb f) (coreUnpkb f) s

/-- BFPENC (R207): encodes blocks across lanes; a bad control word traps RANGE. -/
def coreBfpenc (f : TF) : Core := 
  { illop := fun _ s => lowWater s || f.k1 != 0 || f.k2 == 0
    uses := srcUses f.k1 f.s1 1 ++ srcUses f.k2 f.s2 1 ++ [useV f.d 2 true]
    cyc := 4
    cbank := f.k2 == 2
    run := fun x s =>
      let ctl := opB x.c .i32 f 0
      if bfpCtlBad ctl.toNat then .trap s (trapAt x 0x13 (ctl.setWidth 64))
      else .done (updCrew s x.k (fun c => (lanes x.m).foldl (fun c L =>
        let r := bfpencLane f ctl.toNat x.c x.m L
        raiseFlags (putRegs c f.d.toNat L r.1) L r.2) c)) }
/-- BFPENC. -/
def execBfpenc (f : TF) (s : State) : Host.Outcome State Fault Refusal := issue (.bfpenc f) (coreBfpenc f) s

/-- BFPDEC (R208): a width outside 2 to 8 in any active lane traps RANGE. -/
def coreBfpdec (f : TF) : Core := 
  { illop := fun _ s => lowWater s
    uses := srcUses f.k1 f.s1 1 ++ srcUses f.k2 f.s2 1 ++ [useV f.d 1 true]
    cbank := f.k1 == 2 || f.k2 == 2
    run := fun x s =>
      match (lanes x.m).find? (fun L => let b := fld (opB x.c .i32 f L).toNat 11 8; b < 2 || 8 < b) with
      | some L => .trap s (trapAt x 0x13 ((opB x.c .i32 f L).setWidth 64))
      | none => .done (updCrew s x.k (fun c => (lanes x.m).foldl (fun c L => vset c f.d.toNat L (bfpdecLane f x.c L)) c)) }
/-- BFPDEC. -/
def execBfpdec (f : TF) (s : State) : Host.Outcome State Fault Refusal := issue (.bfpdec f) (coreBfpdec f) s

/-- HFMA2 (R209). -/
def coreHfma2 (f : TF) : Core := halfCore f .hpair H16 true (fun m a b d => ffma H16 m a b d)
/-- HFMA2. -/
def execHfma2 (f : TF) (s : State) : Host.Outcome State Fault Refusal := issue (.hfma2 f) (coreHfma2 f) s

/-- BFMA2 (R209). -/
def coreBfma2 (f : TF) : Core := halfCore f .bpair B16 true (fun m a b d => ffma B16 m a b d)
/-- BFMA2. -/
def execBfma2 (f : TF) (s : State) : Host.Outcome State Fault Refusal := issue (.bfma2 f) (coreBfma2 f) s

/-- HADD2 (R209). -/
def coreHadd2 (f : TF) : Core := halfCore f .hpair H16 false (fun m a b _ => fadd H16 m a b)
/-- HADD2. -/
def execHadd2 (f : TF) (s : State) : Host.Outcome State Fault Refusal := issue (.hadd2 f) (coreHadd2 f) s

/-- HMUL2 (R209). -/
def coreHmul2 (f : TF) : Core := halfCore f .hpair H16 false (fun m a b _ => fmul H16 m a b)
/-- HMUL2. -/
def execHmul2 (f : TF) (s : State) : Host.Outcome State Fault Refusal := issue (.hmul2 f) (coreHmul2 f) s

/-- K_FADD (R111): FADD vD, vD, vS. -/
def coreKFadd (f : KF) : Core := coreFadd (kTF f)
/-- K_FADD. -/
def execKFadd (f : KF) (s : State) : Host.Outcome State Fault Refusal := issue (.kFadd f) (coreKFadd f) s

/-- K_FSUB (R111): FSUB vD, vD, vS. -/
def coreKFsub (f : KF) : Core := coreFsub (kTF f)
/-- K_FSUB. -/
def execKFsub (f : KF) (s : State) : Host.Outcome State Fault Refusal := issue (.kFsub f) (coreKFsub f) s

/-- K_FMUL (R111): FMUL vD, vD, vS. -/
def coreKFmul (f : KF) : Core := coreFmul (kTF f)
/-- K_FMUL. -/
def execKFmul (f : KF) (s : State) : Host.Outcome State Fault Refusal := issue (.kFmul f) (coreKFmul f) s

/-- K_FMAX (R111): FMAX vD, vD, vS. -/
def coreKFmax (f : KF) : Core := coreFmax (kTF f)
/-- K_FMAX. -/
def execKFmax (f : KF) (s : State) : Host.Outcome State Fault Refusal := issue (.kFmax f) (coreKFmax f) s

/-- K_FMIN (R111): FMIN vD, vD, vS. -/
def coreKFmin (f : KF) : Core := coreFmin (kTF f)
/-- K_FMIN. -/
def execKFmin (f : KF) (s : State) : Host.Outcome State Fault Refusal := issue (.kFmin f) (coreKFmin f) s

end Sys2Proof.Machine
end

