-- ==== Sys2Proof/Machine/Mem.lean ====
section
/-! DEFINITION. Memory instructions 0x80 to 0x99 and atomics 0xA0 to 0xAE: addresses, spaces, lanes that cannot complete, formatted pages, gathers, constant
banks, tags, the token and read-modify-writes (R210 to R231). -/

namespace Sys2Proof.Machine

/-- A lane's fault: cause, the value for `tva`, and whether it is found at issue (R215). -/
structure LFault where
  cause : Byte
  at_ : Nat
  early : Bool
deriving DecidableEq, Repr

/-- What the lanes of an instruction came to: the state, the words of the lanes that performed, and the faults. -/
structure LRun where
  s : State
  ok : List (Nat × List Word)
  bad : List (Nat × LFault)

/-- Run an action in each lane of a mask, ascending (R7). -/
def runLanes (s : State) (m : Mask) (g : State → Nat → State × Except LFault (List Word)) : LRun :=
  (lanes m).foldl (fun r L =>
    match g r.s L with
    | (s, .ok ws) => { r with s := s, ok := r.ok ++ [(L, ws)] }
    | (s, .error f) => { r with s := s, bad := r.bad ++ [(L, f)] }) { s := s, ok := [], bad := [] }

/-- The mask of listed lanes. -/
def lanesMask {α : Type} (l : List (Nat × α)) : Mask := l.foldl (fun m p => m ||| bit p.1) 0

/-- The least cause and the value of the lowest lane with it (R215). -/
def leastFault (bad : List (Nat × LFault)) : Byte × Nat :=
  match least (fun p => causeRank p.2.cause) bad with
  | some p => (p.2.cause, p.2.at_)
  | none => (0, 0)

/-- Hold an imprecise fault of the instruction (R248): `ret` when it has a register-targeted result, `perf` the lanes that performed. -/
def holdFault (s : State) (x : Ctx) (ret wr : Bool) (perf : Mask) (bad : List (Nat × LFault)) : State :=
  let f := leastFault bad
  updCrew s x.k (fun c => { c with held := c.held ++
    [{ addr := x.pc, next := x.nx, cause := f.1, tva := BitVec.ofNat 64 f.2, tmask := x.m, pcm := perf, seq := x.id, depth := c.tdepth.toNat
       returning := ret, due := false, wr := wr, lanes := bad.map (fun p => (p.1, p.2.at_)), stamps := x.c.stamp }] })

/-- Faults of the lanes become a precise trap or a held imprecise fault; at the basic level the lanes that miss a page are serviced apart (R215, R216, R252). -/
def settleFaults (s : State) (x : Ctx) (ret wr : Bool) (bad : List (Nat × LFault)) : Res :=
  let perf := x.m &&& ~~~(lanesMask bad)
  let basic := !(expertOf x.c 0)
  let pg := if basic then bad.filter (fun p => p.2.cause == 0x10) else []
  let rest := if basic then bad.filter (fun p => p.2.cause != 0x10) else bad
  let f := leastFault rest
  let t := { trapAt x f.1 (BitVec.ofNat 64 f.2) with pcm := perf }
  if bad.isEmpty then .done s
  else
    let s := if pg.isEmpty then s else holdFault s x ret wr perf pg
    if rest.any (fun p => p.2.early) then .trap s t else .done (if rest.isEmpty then s else holdFault s x ret wr perf rest)

/-- The targets of a result of `n` registers from vector register `d` in the lanes that performed. -/
def targetsOf (d : Nat) (ok : List (Nat × List Word)) : List PTarget :=
  ok.flatMap (fun p => p.2.zipIdx.map (fun w => { file := .vector, idx := d + w.2, lane := p.1, val := w.1 }))

/-- The result of a returning access is outstanding (R126). `n` is the number of its registers when no lane performed, which are tracked all the same (R128). -/
def addResult (s : State) (x : Ctx) (d : Nat) (ok : List (Nat × List Word)) (n : Nat := 0) : State :=
  updCrew s x.k (fun c => addPend c
    { id := x.id, kind := .memory, ready := true, drains := true, targets := targetsOf d ok, regs := (List.range n).map (fun k => (.vector, d + k)) })

/-- The access is counted until every lane has performed or faulted (R248). -/
def addCounted (s : State) (x : Ctx) : State :=
  updCrew s x.k (fun c => { c with counted := if c.counted.contains x.id then c.counted else c.counted ++ [x.id] })

/-- Address of lane `L` (R210). -/
def addrOf (c : Crew) (f : MF) (L : Nat) : Nat :=
  if f.b == 31 then (vget2 c f.a.toNat L).toNat
  else (sgetL2 c (2 * f.b.toNat) L + (if f.a == 0 then 0 else sext64 (vget c f.a.toNat L))).toNat

/-- The address registers (R210). -/
def addrUses (f : MF) : List Use :=
  if f.b == 31 then [useV f.a 2 false]
  else [{ file := .scalar, idx := 2 * f.b.toNat, n := 2, al := 2 }] ++ (if f.a == 0 then [] else [useV f.a 1 false])

/-- The field values of R212 that a class of instructions refuses: `sps` are the spaces it admits. -/
def mBad (f : MF) (sps : List Nat) (sync : Bool) : Bool :=
  !(sps.contains f.sp.toNat) || f.os.toNat > 4 || (!sync && f.os != 0) || (f.sp == 2 && f.os != 0)

/-- The checks of an address that need no translation (R211, R215). -/
def addrFault (s : State) (c : Crew) (sp : Nat) (a w : Nat) : Option LFault :=
  if a % w != 0 then some ⟨0x05, a, true⟩
  else if (if sp == 0 then decide (2 ^ 56 ≤ a) else if sp == 1 then decide ((teamAt s c.teamKey).size < a + w) else decide (4096 < a + w)) then
    some ⟨0x13, a, true⟩
  else none

/-- Read `w` bytes in a lane (R211, R215). -/
def laneRead (s : State) (x : Ctx) (sp a w : Nat) : State × Except LFault (List Byte) :=
  match addrFault s x.c sp a w with
  | some f => (s, .error f)
  | none =>
    match sp with
    | 0 =>
      match vread s (whoOf x.c x.pc) a w .rd with
      | (s, .ok bs) => (s, .ok bs)
      | (s, .error c) => (s, .error ⟨c, a, false⟩)
    | 1 => (s, .ok (scB (teamAt s x.c.teamKey) a w))
    | _ => (s, .ok ((List.range w).map (fun k =>
        let n := a + k
        BitVec.ofNat 8 ((mget 0 (crewAt s x.k).banks (64 * (n / 256) + n % 256 / 4)).toNat / 256 ^ (n % 4)))))

/-- The little-endian words of a byte list. -/
def wordsOf : List Byte → List Word
  | a :: b :: c :: d :: r => (d ++ c ++ b ++ a) :: wordsOf r
  | _ => []
/-- The bytes of words. -/
def bytesOf (ws : List Word) : List Byte := ws.flatMap (fun w => natBytes 4 w.toNat)

/-- Log a store into watched regions: one STORE packet for each aligned word written (R416). -/
def logStore (s0 s : State) (x : Ctx) (va n L : Nat) (pa : Nat) : State :=
  if s.regions.isEmpty then s
  else
    let hits := fun (a : Nat) => s.regions.filter (fun r =>
      r.2.part == x.c.part && r.2.base ≤ a && a < r.2.base + r.2.len && (match r.2.lid with | none => true | some l => l == x.c.lid))
    ((List.range ((va + n - 1) / 4 + 1 - va / 4)).map (fun k => va / 4 * 4 + 4 * k)).foldl (fun s a =>
      (hits a).foldl (fun s r =>
        emitPacket s (shelfOf x.c.gcrew) x.c.gcrew none
          (pktHead 5 x.c.gcrew (r.1 + 8 * L) ++ natBytes 4 x.c.lid ++ natBytes 8 a ++ natBytes 4 (rdN s0 (pa + a - va) 4) ++
            natBytes 4 (rdN s (pa + a - va) 4) ++ natBytes 8 x.pc.toNat)) s) s

/-- Write bytes in a lane (R211, R215, R416). -/
def laneWrite (s : State) (x : Ctx) (L sp a : Nat) (bs : List Byte) : State × Except LFault (List Word) :=
  match addrFault s x.c sp a bs.length with
  | some f => (s, .error f)
  | none =>
    if sp == 0 then
      match xlate s (whoOf x.c x.pc) a .wr with
      | (s, .error c) => (s, .error ⟨c, a, false⟩)
      | (s, .ok p) =>
        match pwrite s (p.pa a) bs with
        | (s, some c) => (s, .error ⟨c, a, false⟩)
        | (s1, none) => (logStore s s1 x a bs.length L (p.pa a), .ok [])
    else (scW s x.c.teamKey a bs, .ok [])

/-- Some lane of a store or atomic names a translated ORD page without the token (R217). -/
def ordFault (s : State) (x : Ctx) (sp : Nat) (g : Nat → Nat) (a : Acc) : Bool :=
  x.c.strict && sp == 0 && !(holdsToken s x.c) && (lanes x.m).any (fun L =>
    g L < 2 ^ 56 && (match (xlate s (whoOf x.c x.pc) (g L) a).2 with | .ok p => p.ord | .error _ => false))

/-- After the lanes of an access: results outstanding, objects touched, faults settled. `ret` gives the first destination register and their number, `spans` the scratchpad bytes written. -/
def settleAccess (x : Ctx) (r : LRun) (ret : Option (Nat × Nat)) (glob wr : Bool) (spans : List (Nat × Nat)) : Res :=
  let s := match ret with | some d => addResult r.s x d.1 r.ok (if r.ok.isEmpty && !r.bad.isEmpty then d.2 else 0) | none => if glob then addCounted r.s x else r.s
  let s := if spans.isEmpty then s else barTouch s x.c.teamKey spans
  settleFaults s x ret.isSome wr r.bad

/-- A plain load (R213): width, destination registers, and the words of the bytes read. -/
def loadCore (f : MF) (w nd : Nat) (g : List Byte → List Word) : Core :=
  { illop := fun _ _ => mBad f [0, 1, 2] true
    uses := addrUses f ++ [useV f.d nd true]
    counts := true
    hold := fun x _ =>
      if f.sp == 2 && (lanes x.m).any (fun L => x.c.ldcBusy.any (fun b => b.1 == addrOf x.c f L / 256)) then some .memory else none
    run := fun x s => settleAccess x (runLanes s x.m (fun s L =>
      match laneRead s x f.sp.toNat (addrOf x.c f L) w with
      | (s, .ok bs) => (s, .ok (g bs))
      | (s, .error e) => (s, .error e))) (some (f.d.toNat, nd)) false false [] }

/-- A value of `w` bytes extended to a word. -/
def extWord (w : Nat) (sx : Bool) (bs : List Byte) : List Word :=
  [BitVec.ofNat 32 (if sx then sxN (8 * w) (bytesNat bs) else bytesNat bs)]

/-- A plain store (R213): width, registers read, and the bytes of their words. -/
def storeCore (f : MF) (w nd : Nat) : Core :=
  { illop := fun _ _ => mBad f [0, 1] true
    uses := [useV f.d nd false] ++ addrUses f
    counts := f.sp == 0
    run := fun x s =>
      if ordFault s x f.sp.toNat (addrOf x.c f) .wr then .trap s (trapAt x 0x06 0)
      else
        let r := runLanes s x.m (fun s L =>
          laneWrite s x L f.sp.toNat (addrOf x.c f L) ((bytesOf ((List.range nd).map (fun k => vget x.c (f.d.toNat + k) L))).take w))
        settleAccess x r none (f.sp == 0) true (if f.sp == 1 then r.ok.map (fun p => (addrOf x.c f p.1, w)) else []) }

/-! ## Formatted pages (R218 to R222, R63, R433) -/

/-- Elements of a block: 16, 32 or 64; `none` for the reserved code (R218). -/
def geomN (g : Nat) : Option Nat := match g % 4 with | 0 => some 16 | 1 => some 32 | 2 => some 64 | _ => none
/-- Element width of a float format code (R218). -/
def fmtWidth (f : Nat) : Nat := if f == 1 then 4 else 2
/-- The float format of a code. -/
def fmtOf (f : Nat) : Fmt := if f == 1 then F32 else if f == 2 then H16 else B16
/-- A code names a BFP format. -/
def isBfp (f : Nat) : Bool := 8 ≤ f && f ≤ 14
/-- A code gives LDF, STF and LDGF nothing to decode (R218). -/
def noFormat (p : Pg) : Bool := p.fmt == 0 || fmtReserved p.fmt || (geomN p.geom).isNone
/-- Bytes of a dense BFP block (R59). -/
def blockBytes (b n : Nat) : Nat := 1 + n * b / 8
/-- Bytes of a sparse frame (R433). -/
def frameBytes (p : Pg) (n : Nat) : Nat := if isBfp p.fmt then 9 + n * (p.fmt - 6) / 8 else 8 + fmtWidth p.fmt * n

/-- An element value widened exactly to F32 (R219): an sNaN gives the canonical NaN. -/
def widen (f : Nat) (x : Nat) : Word := if f == 1 then BitVec.ofNat 32 x else BitVec.ofNat 32 (cvtFF (fmtOf f) F32 0 x).1

/-- Elements of a sparse block from its bytes (R63): `none` when it is malformed. -/
def sparseElem (p : Pg) (n : Nat) (bs : List Byte) (i : Nat) : Option Word :=
  let bm := at_ bs 0 8
  if bm / 2 ^ n != 0 then none
  else if bm / 2 ^ i % 2 == 0 then some (if isBfp p.fmt then BitVec.ofNat 32 (bfpF32 (p.fmt - 6) (at_ bs 8 1) 0) else 0)
  else
    let r := ((List.range i).filter (fun j => bm / 2 ^ j % 2 == 1)).length
    if isBfp p.fmt then
      let b := p.fmt - 6
      some (BitVec.ofNat 32 (bfpF32 b (at_ bs 8 1) (bfpMant b (bytesNat (bs.drop 9)) r)))
    else some (widen p.fmt (at_ bs (8 + fmtWidth p.fmt * r) (fmtWidth p.fmt)))

/-- Bytes of a sparse block that a decode reads: its bitmap and stored elements (R63, R433). -/
def sparseLen (p : Pg) (n bm : Nat) : Nat :=
  let cnt := ((List.range n).filter (fun j => bm / 2 ^ j % 2 == 1)).length
  if isBfp p.fmt then 9 + (cnt * (p.fmt - 6) + 7) / 8 else 8 + fmtWidth p.fmt * cnt

/-- Elements `i` of the block at `a` of a page of block size `k` (R219, R222). -/
def blockElems (s : State) (w : Who) (p : Pg) (n k a : Nat) (is : List Nat) : State × Except Byte (List Word) :=
  if (a - p.va0) % k != 0 then (s, .error 0x05)
  else if p.va0 + p.size < a + k then (s, .error 0x13)
  else
    let len := if p.sparse then sparseLen p n (rdN s (p.pa a) 8) else k
    let q := probe s w (p.pa a) len
    if q.2 then (q.1, .error 0x12)
    else
      let bs := rdB q.1 (p.pa a) k
      if p.sparse then
        let es := is.map (sparseElem p n bs)
        if es.any (fun e => e.isNone) then (q.1, .error 0x14) else (q.1, .ok (es.map (fun e => e.getD 0)))
      else
        let b := p.fmt - 6
        (q.1, .ok (is.map (fun i => BitVec.ofNat 32 (bfpF32 b (at_ bs 0 1) (bfpMant b (bytesNat (bs.drop 1)) i)))))

/-- Block size of a page whose lanes' addresses name blocks: elements and bytes (R59, R433). -/
def blockOf (p : Pg) : Option (Nat × Nat) :=
  if p.sparse || isBfp p.fmt then (geomN p.geom).map (fun n => (n, if p.sparse then frameBytes p n else blockBytes (p.fmt - 6) n)) else none

/-- The first two tests of R215 for a formatted access at `a` of page `p`, before any line is read: an element that is not aligned, or an address that is no block start, then a block
beyond the page. -/
def formatFault (p : Pg) (a : Nat) : Option LFault :=
  if p.fmt == 0 || fmtReserved p.fmt then none
  else
    match blockOf p with
    | some (_, k) => if (a - p.va0) % k != 0 then some ⟨0x05, a, false⟩ else if p.va0 + p.size < a + k then some ⟨0x13, a, false⟩ else none
    | none => if !(p.sparse || isBfp p.fmt) && a % fmtWidth p.fmt != 0 then some ⟨0x05, a, true⟩ else none

/-- LDF in a lane (R219). DESIGN CHOICE (log entry 48): on a SPARSE page with N = 64, whatever its format, it writes elements L and L + 32 to vD:vD+1 and needs an even D. -/
def ldfLane (s : State) (x : Ctx) (f : MF) (L : Nat) : State × Except LFault (List Word) :=
  let a := addrOf x.c f L
  let w := whoOf x.c x.pc
  let late := fun (r : State × Except Byte (List Word)) =>
    match r with
    | (s, .ok ws) => (s, Except.ok (ε := LFault) ws)
    | (s, .error c) => (s, .error ⟨c, a, false⟩)
  if 2 ^ 56 ≤ a then (s, .error ⟨0x13, a, true⟩)
  else
    match xlate s w a .rd with
    | (s, .error c) => (s, .error ⟨c, a, false⟩)
    | (s, .ok p) =>
      match formatFault p a with
      | some e => (s, .error e)
      | none =>
        if noFormat p then late (s, .error 0x14)
        else
          match blockOf p with
          | some (n, k) =>
            match blockElems s w p n k a (if n == 64 then [L, L + 32] else [L % n]) with
            | (s, .ok ws) => if n == 64 && f.d.toNat % 2 == 1 then late (s, .error 0x14) else late (s, .ok ws)
            | r => late r
          | none =>
            let q := probe s w (p.pa a) (fmtWidth p.fmt)
            if q.2 then late (q.1, .error 0x12) else late (q.1, .ok [widen p.fmt (rdN q.1 (p.pa a) (fmtWidth p.fmt))])

/-- LDF and STF of a page with N = 64 name vD+1 too; the value of `tva` when the HAZARD check finds it outstanding (R128, R219). -/
def pairHazard (s : State) (x : Ctx) (f : MF) (wr : Bool) : Option Dword :=
  let wide := fun (L : Nat) =>
    match (xlate s (whoOf x.c x.pc) (addrOf x.c f L) (if wr then .rd else .wr)).2 with
    | .ok p => (blockOf p).any (fun b => b.1 == 64)
    | .error _ => false
  if hazardOn x.c && (lanes x.m).any (fun L => addrOf x.c f L < 2 ^ 56 && wide L) then hazardOf x.c x.id [useV (f.d + 1) 1 wr] else none

/-- What STF in a lane comes to before blocks are written: a fault, an element written, or a block named (R219). -/
inductive StfLane where
  | fault (f : LFault)
  | elem (p : Pg) (a : Nat)
  | block (p : Pg) (a n k : Nat)

/-- Two mappings give a block the same place and shape (R76, R220). -/
def sameBlock (p : Pg) (a : Nat) (q : Pg) (b : Nat) : Bool := p.pa a == q.pa b && p.fmt == q.fmt && p.geom == q.geom

/-- The lanes that name the block of `n` elements at `a` of page `p`, by whatever mapping, supply every position of it (R220). -/
def suppliesAll (s : State) (x : Ctx) (f : MF) (p : Pg) (a n : Nat) : Bool :=
  let ls := (lanes x.m).filter (fun L =>
    match (if 2 ^ 56 ≤ addrOf x.c f L then .error 0x13 else (xlate s (whoOf x.c x.pc) (addrOf x.c f L) .wr).2) with
    | .ok q => sameBlock p a q (addrOf x.c f L)
    | .error _ => false)
  (List.range n).all (fun i => ls.any (fun L => L % n == i || (n == 64 && L + 32 == i)))

/-- Judge a lane of STF (R215, R219). A block that its lanes do not supply whole is read, which finds errors in its lines (R220, R435). -/
def stfJudge (s : State) (x : Ctx) (f : MF) (L : Nat) : State × StfLane :=
  let a := addrOf x.c f L
  if 2 ^ 56 ≤ a then (s, .fault ⟨0x13, a, true⟩)
  else
    match xlate s (whoOf x.c x.pc) a .wr with
    | (s, .error c) => (s, .fault ⟨c, a, false⟩)
    | (s, .ok p) =>
      match formatFault p a with
      | some e => (s, .fault e)
      | none =>
        if noFormat p || p.sparse then (s, .fault ⟨0x14, a, false⟩)
        else
          match blockOf p with
          | some (n, k) =>
            let q := if suppliesAll s x f p a n then (s, anyPoison s (p.pa a) k) else probe s (whoOf x.c x.pc) (p.pa a) k
            if q.2 then (q.1, .fault ⟨0x12, a, false⟩)
            else if n == 64 && f.d.toNat % 2 == 1 then (q.1, .fault ⟨0x14, a, false⟩)
            else (q.1, .block p a n k)
          | none => if anyPoison s (p.pa a) (fmtWidth p.fmt) then (s, .fault ⟨0x12, a, false⟩) else (s, .elem p a)

/-- Re-encode the block at `a` from the lanes that name it (R220). -/
def stfBlock (s : State) (x : Ctx) (d : Nat) (p : Pg) (a n k : Nat) (ls : List Nat) : State :=
  let b := p.fmt - 6
  let pos := fun (i : Nat) => (ls.filter (fun L => L % n == i || (n == 64 && L + 32 == i))).getLast?
  let all := (List.range n).all (fun i => (pos i).isSome)
  let bs := rdB s (p.pa a) k
  let xs := (List.range n).map (fun i =>
    match pos i with
    | some L => (vget x.c (if n == 64 && L + 32 == i then d + 1 else d) L).toNat
    | none => if all then 0 else bfpF32 b (at_ bs 0 1) (bfpMant b (bytesNat (bs.drop 1)) i))
  let e := bfpEnc b p.srnd ((a - p.va0) / k) xs
  let s1 := wrB s (p.pa a) (BitVec.ofNat 8 e.E :: natBytes (k - 1) (bfpPack b e.m))
  logStore s s1 x a k (ls.headD 0) (p.pa a)

/-- STF over the lanes (R219, R220): in lane order, a block at the turn of the highest lane that names it, by whatever mapping, so that each byte has the value of the highest lane that writes
it (R76). -/
def stfRun (x : Ctx) (f : MF) (s : State) : LRun :=
  let js := (lanes x.m).foldl (fun (acc : State × List (Nat × StfLane)) L => let r := stfJudge acc.1 x f L; (r.1, acc.2 ++ [(L, r.2)])) (s, [])
  let d := f.d.toNat
  js.2.foldl (fun r j =>
    match j.2 with
    | .fault e => { r with bad := r.bad ++ [(j.1, e)] }
    | .elem p a =>
      let w := fmtWidth p.fmt
      let v := (vget x.c d j.1).toNat
      let bs := natBytes w (if w == 4 then v else (cvtFF F32 (fmtOf p.fmt) x.c.rnd v).1)
      { r with s := logStore r.s (wrB r.s (p.pa a) bs) x a w j.1 (p.pa a), ok := r.ok ++ [(j.1, [])] }
    | .block p a n k =>
      let ls := js.2.filterMap (fun q => match q.2 with | .block u b _ _ => if sameBlock p a u b then some q.1 else none | _ => none)
      { r with s := if ls.getLast? == some j.1 then stfBlock r.s x d p a n k ls else r.s, ok := r.ok ++ [(j.1, [])] })
    { s := js.1, ok := [], bad := [] }

/-- A base of LDGF that is no block start, or not aligned to the element of a float format, SPARSE or not (R222). -/
def baseFault (p : Pg) (base : Nat) : Option LFault :=
  if p.sparse && !(isBfp p.fmt) && p.fmt != 0 && !(fmtReserved p.fmt) then (if base % fmtWidth p.fmt != 0 then some ⟨0x05, base, true⟩ else none)
  else (formatFault p base).filter (fun e => e.cause == 0x05)

/-- LDGF in a lane (R222): `p` is the page of the base. DESIGN CHOICE (log entry 48): an element whose own page has the same format code but is SPARSE faults FMTMIS. -/
def ldgfElem (s : State) (x : Ctx) (f : MF) (base : Nat) (p : Pg) (L : Nat) : State × Except LFault (List Word) :=
  let w := whoOf x.c x.pc
  let i := S32 (vget x.c f.a.toNat L)
  let late := fun (s : State) (c : Byte) (a : Nat) => (s, Except.error (α := List Word) (⟨c, a, false⟩ : LFault))
  if noFormat p || p.sparse then late s 0x14 base
  else
    match blockOf p with
    | some (n, k) =>
      let bo : Int := base - p.va0 + i / n * k
      if bo < 0 || (p.size : Int) < bo + k then late s 0x13 ((BitVec.ofInt 64 (p.va0 + bo)).toNat)
      else
        match blockElems s w p n k (p.va0 + bo.toNat) [(i % n).toNat] with
        | (s, .ok ws) => (s, .ok ws)
        | (s, .error c) => late s c (p.va0 + bo.toNat)
    | none =>
      let e := fmtWidth p.fmt
      let a := (BitVec.ofInt 64 (base + i * e)).toNat
      if 2 ^ 56 ≤ a then late s 0x13 a
      else
        match xlate s w a .rd with
        | (s, .error c) => late s c a
        | (s, .ok q) =>
          let r := probe s w (q.pa a) e
          if r.2 then late r.1 0x12 a
          else if q.fmt != p.fmt || q.sparse || noFormat q then late r.1 0x14 a
          else (r.1, .ok [widen p.fmt (rdN r.1 (q.pa a) e)])

/-- LDGF in a lane: the base, the same in every lane but for an outstanding producer (R127), is translated and tested first (R215, R222). -/
def ldgfLane (s : State) (x : Ctx) (f : MF) (L : Nat) : State × Except LFault (List Word) :=
  let base := (sgetL2 x.c (2 * f.b.toNat) L).toNat
  if 2 ^ 56 ≤ base then (s, .error ⟨0x13, base, true⟩)
  else
    match xlate s (whoOf x.c x.pc) base .rd with
    | (s, .error c) => (s, .error ⟨c, base, false⟩)
    | (s, .ok p) =>
      match baseFault p base with
      | some e => (s, .error e)
      | none => ldgfElem s x f base p L

/-! ## Constant banks, tags, token (R223 to R227) -/

/-- Load one word of a bank for LDC: the word, or the fault. -/
def ldcWord (s : State) (x : Ctx) (sp a : Nat) : State × Except LFault Word :=
  match laneRead s x sp a 4 with
  | (s, .ok bs) => (s, .ok ((wordsOf bs).headD 0))
  | (s, .error e) => (s, .error e)

/-- The faults of an LDC with the least of its words' causes: every lane has them all, one for each page that they name (R223, R257). -/
def ldcFaults (m : Mask) (bad : List (Nat × LFault)) : List (Nat × LFault) :=
  let f := leastFault bad
  let as := (bad.filter (fun p => p.2.cause == f.1)).foldl (fun (acc : List Nat) p => if acc.any (fun a => a / 65536 == p.2.at_ / 65536) then acc else acc ++ [p.2.at_]) []
  (lanes m).flatMap (fun L => as.map (fun a => (L, (⟨f.1, a, false⟩ : LFault))))

/-- The slot of the team's valid entry with a tag (R225). -/
def tagFind (s : State) (c : Crew) (tag : Word) : Option Nat :=
  let i := isleOf c.gcrew
  (s.tags.find? (fun p => p.1 / 1024 == i && p.2.team == c.teamKey && p.2.tag == tag)).map (fun p => p.1 % 1024)
/-- Clear the team's entry with a tag (R225). -/
def tagDrop (s : State) (c : Crew) (tag : Word) : State :=
  match tagFind s c tag with
  | some n => { s with tags := merase s.tags (1024 * isleOf c.gcrew + n) }
  | none => s

/-! ## Atomics (R228 to R231) -/

/-- The contention predictor's step for a global atomic on the line of `a` (R230). -/
def predict (s : State) (c : Crew) (a pa : Nat) : State :=
  let atoll := isleOf c.gcrew / 4
  let k := 512 * atoll + fld a 15 7
  let n := mget 0 s.predictor k
  let line := pa / 128
  if n < 2 then
    let n' := match mfind s.lineOwner line with | none => n | some o => if o == atoll then n - 1 else min 3 (n + 1)
    { s with predictor := mset 0 s.predictor k n', lineOwner := minsert s.lineOwner line atoll }
  else { s with lineOwner := merase s.lineOwner line }

/-- One read-modify-write of `w` bytes in a lane: the old bytes (R228, R215). -/
def laneAtomic (s : State) (x : Ctx) (sp a w L : Nat) (g : Nat → Nat) : State × Except LFault (List Word) :=
  match addrFault s x.c sp a w with
  | some f => (s, .error f)
  | none =>
    if sp == 0 then
      match xlate s (whoOf x.c x.pc) a .rw with
      | (s, .error c) => (s, .error ⟨c, a, false⟩)
      | (s, .ok p) =>
        let q := probe s (whoOf x.c x.pc) (p.pa a) w 3
        if q.2 then (q.1, .error ⟨0x12, a, false⟩)
        else
          let s := predict q.1 x.c a (p.pa a)
          let bs := rdB s (p.pa a) w
          (logStore s (wrN s (p.pa a) w (g (bytesNat bs))) x a w L (p.pa a), .ok (wordsOf bs))
    else
      let bs := scB (teamAt s x.c.teamKey) a w
      let s := scW s x.c.teamKey a (natBytes w (g (bytesNat bs)))
      (barTouch s x.c.teamKey [(a, w)], .ok (wordsOf bs))

/-- An atomic (R229): width, registers of D read, whether it returns the old value, whether it is a floating addition, and the new value from the old one and the
operand registers. -/
def atomCore (f : MF) (w nd : Nat) (ret flt : Bool) (g : Nat → List Word → Nat) : Core :=
  { illop := fun _ _ => mBad f [0, 1] true
    uses := [useV f.d nd false] ++ addrUses f ++ (if ret then [{ file := .vector, idx := f.d.toNat, n := w / 4, al := 1, wr := true }] else [])
    counts := ret || f.sp == 0
    hold := fun x s => if flt && x.c.strict && !(holdsToken s x.c) then some .token else none
    run := fun x s =>
      if ordFault s x f.sp.toNat (addrOf x.c f) .rw then .trap s (trapAt x 0x06 0)
      else
        let r := runLanes s x.m (fun s L => laneAtomic s x f.sp.toNat (addrOf x.c f L) w L (fun old =>
          g old ((List.range nd).map (fun k => vget x.c (f.d.toNat + k) L))))
        settleAccess x r (if ret then some (f.d.toNat, w / 4) else none) (f.sp == 0) true [] }

/-- The first operand word. -/
def w0 (ws : List Word) : Word := ws.headD 0
/-- A 32-bit atomic from words. -/
def atomW (g : Word → Word → Word) (old : Nat) (ws : List Word) : Nat := (g (BitVec.ofNat 32 old) (w0 ws)).toNat
/-- RNE addition in a format (R229). -/
def atomF (f : Fmt) (old d : Nat) : Nat := (fadd f 0 (fdec f old) (fdec f d)).1

/-- LDBS (R213). -/
def coreLdbs (f : MF) : Core := loadCore f 1 1 (extWord 1 true)
/-- LDBS. -/
def execLdbs (f : MF) (s : State) : Host.Outcome State Fault Refusal := issue (.ldbs f) (coreLdbs f) s

/-- LDBZ (R213). -/
def coreLdbz (f : MF) : Core := loadCore f 1 1 (extWord 1 false)
/-- LDBZ. -/
def execLdbz (f : MF) (s : State) : Host.Outcome State Fault Refusal := issue (.ldbz f) (coreLdbz f) s

/-- LDHS (R213). -/
def coreLdhs (f : MF) : Core := loadCore f 2 1 (extWord 2 true)
/-- LDHS. -/
def execLdhs (f : MF) (s : State) : Host.Outcome State Fault Refusal := issue (.ldhs f) (coreLdhs f) s

/-- LDHZ (R213). -/
def coreLdhz (f : MF) : Core := loadCore f 2 1 (extWord 2 false)
/-- LDHZ. -/
def execLdhz (f : MF) (s : State) : Host.Outcome State Fault Refusal := issue (.ldhz f) (coreLdhz f) s

/-- LDW (R213). -/
def coreLdw (f : MF) : Core := loadCore f 4 1 wordsOf
/-- LDW. -/
def execLdw (f : MF) (s : State) : Host.Outcome State Fault Refusal := issue (.ldw f) (coreLdw f) s

/-- LDD (R213). -/
def coreLdd (f : MF) : Core := loadCore f 8 2 wordsOf
/-- LDD. -/
def execLdd (f : MF) (s : State) : Host.Outcome State Fault Refusal := issue (.ldd f) (coreLdd f) s

/-- LDQ (R213). -/
def coreLdq (f : MF) : Core := loadCore f 16 4 wordsOf
/-- LDQ. -/
def execLdq (f : MF) (s : State) : Host.Outcome State Fault Refusal := issue (.ldq f) (coreLdq f) s

/-- LDF (R219): decodes an element of a formatted page. -/
def coreLdf (f : MF) : Core := 
  { illop := fun _ _ => mBad f [0] true
    uses := addrUses f ++ [useV f.d 1 true]
    counts := true
    run := fun x s =>
      match pairHazard s x f true with
      | some v => .trap s (trapAt x 0x04 v)
      | none => settleAccess x (runLanes s x.m (fun s L => ldfLane s x f L)) (some (f.d.toNat, 1)) false false [] }
/-- LDF. -/
def execLdf (f : MF) (s : State) : Host.Outcome State Fault Refusal := issue (.ldf f) (coreLdf f) s

/-- STB (R213). -/
def coreStb (f : MF) : Core := storeCore f 1 1
/-- STB. -/
def execStb (f : MF) (s : State) : Host.Outcome State Fault Refusal := issue (.stb f) (coreStb f) s

/-- STH (R213). -/
def coreSth (f : MF) : Core := storeCore f 2 1
/-- STH. -/
def execSth (f : MF) (s : State) : Host.Outcome State Fault Refusal := issue (.sth f) (coreSth f) s

/-- STW (R213). -/
def coreStw (f : MF) : Core := storeCore f 4 1
/-- STW. -/
def execStw (f : MF) (s : State) : Host.Outcome State Fault Refusal := issue (.stw f) (coreStw f) s

/-- STD (R213). -/
def coreStd (f : MF) : Core := storeCore f 8 2
/-- STD. -/
def execStd (f : MF) (s : State) : Host.Outcome State Fault Refusal := issue (.std f) (coreStd f) s

/-- STQ (R213). -/
def coreStq (f : MF) : Core := storeCore f 16 4
/-- STQ. -/
def execStq (f : MF) (s : State) : Host.Outcome State Fault Refusal := issue (.stq f) (coreStq f) s

/-- STF (R219, R220): encodes into a formatted page. -/
def coreStf (f : MF) : Core := 
  { illop := fun _ _ => mBad f [0] true
    uses := [useV f.d 1 false] ++ addrUses f
    counts := true
    run := fun x s =>
      match pairHazard s x f false with
      | some v => .trap s (trapAt x 0x04 v)
      | none =>
        if ordFault s x 0 (addrOf x.c f) .wr then .trap s (trapAt x 0x06 0)
        else settleAccess x (stfRun x f s) none true true [] }
/-- STF. -/
def execStf (f : MF) (s : State) : Host.Outcome State Fault Refusal := issue (.stf f) (coreStf f) s

/-- LDG (R221): the effect of LDW on a scalar base and per-lane byte offsets. -/
def coreLdg (f : MF) : Core := 
  let o := loadCore f 4 1 wordsOf
  { o with illop := fun _ _ => mBad f [0] true || f.b == 31 || f.a == 0 }
/-- LDG. -/
def execLdg (f : MF) (s : State) : Host.Outcome State Fault Refusal := issue (.ldg f) (coreLdg f) s

/-- STG (R221): the effect of STW on a scalar base and per-lane byte offsets. -/
def coreStg (f : MF) : Core := 
  let o := storeCore f 4 1
  { o with illop := fun _ _ => mBad f [0] true || f.b == 31 || f.a == 0 }
/-- STG. -/
def execStg (f : MF) (s : State) : Host.Outcome State Fault Refusal := issue (.stg f) (coreStg f) s

/-- LDGF (R222): gathers decoded elements; the base page decides the format. -/
def coreLdgf (f : MF) : Core := 
  { illop := fun _ _ => mBad f [0] true || f.b == 31 || f.a == 0
    uses := addrUses f ++ [useV f.d 1 true]
    counts := true
    run := fun x s => settleAccess x (runLanes s x.m (fun s L => ldgfLane s x f L)) (some (f.d.toNat, 1)) false false [] }
/-- LDGF. -/
def execLdgf (f : MF) (s : State) : Host.Outcome State Fault Refusal := issue (.ldgf f) (coreLdgf f) s

/-- TLOOK (R225): the slot of the team's entry with each lane's tag, or all ones. -/
def coreTlook (f : MF) : Core := 
  { uses := [useV f.a 1 false, useV f.d 1 true]
    counts := true
    run := fun x s => .done (addResult s x f.d.toNat ((lanes x.m).map (fun L =>
      (L, [match tagFind s x.c (vget x.c f.a.toNat L) with | some n => BitVec.ofNat 32 n | none => 0xFFFFFFFF])))) }
/-- TLOOK. -/
def execTlook (f : MF) (s : State) : Host.Outcome State Fault Refusal := issue (.tlook f) (coreTlook f) s

/-- TSET (R225): sets entries; a slot of 1024 or above faults RANGE. -/
def coreTset (f : MF) : Core := 
  { uses := [useV f.d 1 false, useV f.a 1 false]
    run := fun x s =>
      let r := runLanes s x.m (fun s L =>
        let n := (vget x.c f.d.toNat L).toNat
        let tag := vget x.c f.a.toNat L
        if 1024 ≤ n then (s, .error ⟨0x13, n, true⟩)
        else
          let s := tagDrop s x.c tag
          ({ s with tags := minsert s.tags (1024 * isleOf x.c.gcrew + n) { team := x.c.teamKey, tag := tag } }, .ok []))
      settleFaults r.s x false true r.bad }
/-- TSET. -/
def execTset (f : MF) (s : State) : Host.Outcome State Fault Refusal := issue (.tset f) (coreTset f) s

/-- TDROP (R225). -/
def coreTdrop (f : MF) : Core := 
  { uses := [useV f.a 1 false]
    run := fun x s => .done ((lanes x.m).foldl (fun s L => tagDrop s x.c (vget x.c f.a.toNat L)) s) }
/-- TDROP. -/
def execTdrop (f : MF) (s : State) : Host.Outcome State Fault Refusal := issue (.tdrop f) (coreTdrop f) s

/-- TINV (R225): clears every entry of the team on the isle. -/
def coreTinv : Core := 
  { run := fun x s => .done { s with tags := s.tags.filter (fun p => !(p.1 / 1024 == isleOf x.c.gcrew && p.2.team == x.c.teamKey)) } }
/-- TINV. -/
def execTinv (s : State) : Host.Outcome State Fault Refusal := issue .tinv coreTinv s

/-- TOKW (R227): waits for the token in a strict launch. -/
def coreTokw : Core := 
  { hold := fun x s => if x.c.strict && !(holdsToken s x.c) then some .token else none
    run := fun _ s => .done s }
/-- TOKW. -/
def execTokw (s : State) : Host.Outcome State Fault Refusal := issue .tokw coreTokw s

/-- TOKP (R227): passes the token; ORDNOTOK without it. -/
def coreTokp : Core := 
  { run := fun x s =>
      if !x.c.strict then .done s
      else if holdsToken s x.c then .done (passToken s x.c.lid x.c.lcid)
      else .trap s (trapAt x 0x06 0) }
/-- TOKP. -/
def execTokp (s : State) : Host.Outcome State Fault Refusal := issue .tokp coreTokp s

/-- LDC (R223): loads 256 bytes into a constant bank; the bank is busy until it is loaded. DESIGN CHOICE (log entry 48): 256 bytes that run past the end of their space fault RANGE
precisely for the whole instruction and no word loads, and a fault found in translation or on reading gives in `tva` the address of the first word with the least cause. -/
def coreLdc (f : MF) : Core := 
  { illop := fun _ _ => mBad f [0, 1] false || f.b == 31 || f.a != 0 || f.d.toNat ≥ 16
    uses := addrUses f
    counts := true
    run := fun x s =>
      let a := addrOf x.c f 0
      let bank := f.d.toNat
      if a % 4 != 0 then .trap s { trapAt x 0x05 (BitVec.ofNat 64 a) with pcm := 0 }
      else if (if f.sp == 0 then 2 ^ 56 < a + 256 else (teamAt s x.c.teamKey).size < a + 256) then .trap s { trapAt x 0x13 (BitVec.ofNat 64 a) with pcm := 0 }
      else
        let r := (List.range 64).foldl (fun (acc : State × Map Word × List (Nat × LFault)) n =>
          match ldcWord acc.1 x f.sp.toNat (a + 4 * n) with
          | (s, .ok w) => (s, mset 0 acc.2.1 (64 * bank + n) w, acc.2.2)
          | (s, .error e) => (s, acc.2.1, acc.2.2 ++ [(n, e)])) (s, (crewAt s x.k).banks, [])
        let s := updCrew r.1 x.k (fun c => { c with banks := r.2.1, ldcBusy := c.ldcBusy ++ [(bank, x.id)] })
        let s := addCounted s x
        match r.2.2 with
        | [] => .done s
        | bad => .done (holdFault s x false false 0 (ldcFaults x.m bad)) }
/-- LDC. -/
def execLdc (f : MF) (s : State) : Host.Outcome State Fault Refusal := issue (.ldc f) (coreLdc f) s

/-- AADD (R229): (old + d) mod 2^32. -/
def coreAadd (f : MF) : Core := atomCore f 4 1 true false (atomW (fun o d => o + d))
/-- AADD. -/
def execAadd (f : MF) (s : State) : Host.Outcome State Fault Refusal := issue (.aadd f) (coreAadd f) s

/-- AADDF (R229): RNE F32 sum. -/
def coreAaddf (f : MF) : Core := atomCore f 4 1 true true (fun o ws => atomF F32 o (w0 ws).toNat)
/-- AADDF. -/
def execAaddf (f : MF) (s : State) : Host.Outcome State Fault Refusal := issue (.aaddf f) (coreAaddf f) s

/-- AADDD (R229): RNE F64 sum. -/
def coreAaddd (f : MF) : Core := atomCore f 8 2 true true (fun o ws => atomF F64 o (join (w0 ws) (ws.getD 1 0)).toNat)
/-- AADDD. -/
def execAaddd (f : MF) (s : State) : Host.Outcome State Fault Refusal := issue (.aaddd f) (coreAaddd f) s

/-- AMIN (R229): signed minimum. -/
def coreAmin (f : MF) : Core := atomCore f 4 1 true false (atomW (fun o d => if sltW d o then d else o))
/-- AMIN. -/
def execAmin (f : MF) (s : State) : Host.Outcome State Fault Refusal := issue (.amin f) (coreAmin f) s

/-- AMAX (R229): signed maximum. -/
def coreAmax (f : MF) : Core := atomCore f 4 1 true false (atomW (fun o d => if sltW o d then d else o))
/-- AMAX. -/
def execAmax (f : MF) (s : State) : Host.Outcome State Fault Refusal := issue (.amax f) (coreAmax f) s

/-- AUMIN (R229): unsigned minimum. -/
def coreAumin (f : MF) : Core := atomCore f 4 1 true false (atomW (fun o d => if ultW d o then d else o))
/-- AUMIN. -/
def execAumin (f : MF) (s : State) : Host.Outcome State Fault Refusal := issue (.aumin f) (coreAumin f) s

/-- AUMAX (R229): unsigned maximum. -/
def coreAumax (f : MF) : Core := atomCore f 4 1 true false (atomW (fun o d => if ultW o d then d else o))
/-- AUMAX. -/
def execAumax (f : MF) (s : State) : Host.Outcome State Fault Refusal := issue (.aumax f) (coreAumax f) s

/-- AAND (R229): AND. -/
def coreAand (f : MF) : Core := atomCore f 4 1 true false (atomW (fun o d => o &&& d))
/-- AAND. -/
def execAand (f : MF) (s : State) : Host.Outcome State Fault Refusal := issue (.aand f) (coreAand f) s

/-- AOR (R229): OR. -/
def coreAor (f : MF) : Core := atomCore f 4 1 true false (atomW (fun o d => o ||| d))
/-- AOR. -/
def execAor (f : MF) (s : State) : Host.Outcome State Fault Refusal := issue (.aor f) (coreAor f) s

/-- AXOR (R229): XOR. -/
def coreAxor (f : MF) : Core := atomCore f 4 1 true false (atomW (fun o d => o ^^^ d))
/-- AXOR. -/
def execAxor (f : MF) (s : State) : Host.Outcome State Fault Refusal := issue (.axor f) (coreAxor f) s

/-- AXCHG (R229): exchange. -/
def coreAxchg (f : MF) : Core := atomCore f 4 1 true false (atomW (fun _ d => d))
/-- AXCHG. -/
def execAxchg (f : MF) (s : State) : Host.Outcome State Fault Refusal := issue (.axchg f) (coreAxchg f) s

/-- ACAS (R229): compare vD, new vD+1. -/
def coreAcas (f : MF) : Core := atomCore f 4 2 true false (fun o ws => if BitVec.ofNat 32 o == w0 ws then (ws.getD 1 0).toNat else o)
/-- ACAS. -/
def execAcas (f : MF) (s : State) : Host.Outcome State Fault Refusal := issue (.acas f) (coreAcas f) s

/-- AINCW (R229): wrapping increment. -/
def coreAincw (f : MF) : Core := atomCore f 4 1 true false (atomW (fun o d => if d.toNat ≤ o.toNat then 0 else o + 1))
/-- AINCW. -/
def execAincw (f : MF) (s : State) : Host.Outcome State Fault Refusal := issue (.aincw f) (coreAincw f) s

/-- AADDN (R229): no result. -/
def coreAaddn (f : MF) : Core := atomCore f 4 1 false false (atomW (fun o d => o + d))
/-- AADDN. -/
def execAaddn (f : MF) (s : State) : Host.Outcome State Fault Refusal := issue (.aaddn f) (coreAaddn f) s

/-- AADDFN (R229): RNE F32 sum, no result. -/
def coreAaddfn (f : MF) : Core := atomCore f 4 1 false true (fun o ws => atomF F32 o (w0 ws).toNat)
/-- AADDFN. -/
def execAaddfn (f : MF) (s : State) : Host.Outcome State Fault Refusal := issue (.aaddfn f) (coreAaddfn f) s

/-- K.LDW (R214): LDW vD, [vS] in the global space. -/
def coreKLdw (f : KF) : Core := coreLdw { os := 0, sp := 0, b := 31, a := f.s.setWidth 6, d := f.d.setWidth 6 }
/-- K_LDW. -/
def execKLdw (f : KF) (s : State) : Host.Outcome State Fault Refusal := issue (.kLdw f) (coreKLdw f) s

/-- PFETCH (R224) with bits [31:10] of its word: no register, no fault, no effect that a party sees. -/
def corePfetch (aux : BitVec 22) : Core :=
  { illop := fun _ _ => !(auxOk .pfetch aux)
    uses := addrUses { os := 0, sp := 0, b := (aux >>> 12).setWidth 5, a := (aux >>> 6).setWidth 6, d := 0 }
    run := fun _ s => .done s }
/-- PFETCH. -/
def execPfetch (s : State) : Host.Outcome State Fault Refusal := issue .pfetch (corePfetch s.ir.aux) s

/-- FENCE (R84, R224) with bits [31:10] of its word. Steps of the model are indivisible and in crew order (log entry 2), so it only advances. -/
def coreFence (aux : BitVec 22) : Core :=
  { illop := fun _ _ => !(auxOk .fence aux) || (aux >>> 19).toNat > 4
    run := fun _ s => .done s }
/-- FENCE. -/
def execFence (s : State) : Host.Outcome State Fault Refusal := issue .fence (coreFence s.ir.aux) s

/-- A fault held for an instruction may be delivered once it is reported (R248). -/
def reported (c : Crew) (id : Nat) : Crew :=
  { c with counted := c.counted.filter (fun n => n != id), held := c.held.map (fun h => if h.seq == id && !h.returning then { h with due := true } else h) }

/-- LDC_BANK_LOADED (R223): the oldest load of bank `arg.a` of crew `arg.crew` completes. -/
def execLdcBankLoaded (s : State) : Host.Outcome State Fault Refusal :=
  .next (lateFaults (updCrew s s.arg.crew (fun c =>
    match c.ldcBusy.find? (fun b => b.1 == s.arg.a) with
    | some b => reported { c with ldcBusy := c.ldcBusy.erase b } b.2
    | none => c)) s.arg.crew)

/-- An instruction without a register result may still report a fault: its bank is loading, a write-combining line holds its lanes, or a post of it is not
accepted (R248). -/
def stillOut (s : State) (k : Nat) (c : Crew) (id : Nat) : Bool :=
  c.ldcBusy.any (fun b => b.2 == id) || s.wcb.any (fun l => l.owners.any (fun o => o.crew == k && o.seq == id)) ||
  s.reqs.any (fun r => r.crew == k && r.seq == id)

/-- COUNTED_ACCESS_COMPLETE (R248): every lane of instruction `arg.a` of crew `arg.crew`, which has no register result, has performed or faulted. -/
def execCountedAccessComplete (s : State) : Host.Outcome State Fault Refusal :=
  let k := s.arg.crew
  if stillOut s k (crewAt s k) s.arg.a then .next s
  else .next (lateFaults (updCrew s k (fun c => let c := reported c s.arg.a; if drains c then drained c else c)) k)

end Sys2Proof.Machine
end

