-- ==== Sys2Proof/Machine/Strait.lean ====
section
/-! DEFINITION. The strait engine: RSTO, RLOAD, RATOM, RFLAG, RDRAIN, ROPEN and RCLOSE, the packets it receives and the steps of its links (R329 to R359). -/

namespace Sys2Proof.Machine

/-! ## Addresses and checks (R343) -/

/-- The fabric address of a lane: base pair plus the offset register, if there is one. -/
def remAddr (c : Crew) (p1 : BitVec 6) (off : Option Nat) (L : Nat) : Dword :=
  sget2 c p1.toNat + (match off with | some r => sext64 (vget c r L) | none => 0)
/-- The device of a fabric address. -/
def devOf (a : Dword) : BitVec 12 := BitVec.ofNat 12 (fld a.toNat 63 52)
/-- The device and slot of a slot word (R340). -/
def slotDev (w : Word) : BitVec 12 := BitVec.ofNat 12 (fld w.toNat 27 16)
/-- The slot of a slot word. -/
def slotNum (w : Word) : BitVec 16 := w.setWidth 16
/-- The slot word is OK. -/
def slotOk (w : Word) : Bool := w.getLsbD 31

/-- The fault of a lane's address: MISALIGN, RANGE for an unrouted device, STREAM 0x02 for another device than the slot word's (R343). -/
def remFault (s : State) (a : Dword) (w : Nat) (sw : Option Word) : Option LFault :=
  if a.toNat % w != 0 then some ⟨0x05, a.toNat, true⟩
  else if !(routed s (devOf a)) then some ⟨0x13, a.toNat, true⟩
  else match sw with
    | some v => if devOf a != slotDev v then some ⟨0x30, (streamTva 2 v.toNat).toNat, true⟩ else none
    | none => none

/-- The lanes that fault at issue. -/
def remBad (s : State) (m : Mask) (g : Nat → Dword) (w : Nat) (sw : Option Word) : List (Nat × LFault) :=
  (lanes m).filterMap (fun L => (remFault s (g L) w sw).map (fun f => (L, f)))

/-- A slot word with OK = 0 traps STREAM 0x01 for every lane (R343). -/
def slotTrap (x : Ctx) (w : Word) : TrapReq := trapAt x 0x30 (streamTva 1 w.toNat)

/-- The fabric key of a crew's partition (R339). -/
def keyOf (s : State) (c : Crew) : BitVec 16 := (partOf s c.part).key

/-! ## RSTO and the drains (R343 to R346) -/

/-- What a lane writes into the buffer: its crew and instruction, address, bytes and stamp. -/
structure WcLane where
  x : Ctx
  lane : Nat
  addr : Dword
  slot : BitVec 16
  stamp : Dword
  bytes : List Byte

/-- A lane joins the line of its key, or allocates one after the oldest has drained from a full buffer; a line of the same place with another stamp drains first (R21), and
a line whose bytes are all valid drains (R344). -/
def joinLine (s : State) (w : WcLane) : State :=
  let isle := isleOf w.x.c.gcrew
  let dev := devOf w.addr
  let line := w.addr.toNat / 128
  let place := fun (l : WcLine) => l.isle == isle && l.dev == dev && l.slot == w.slot && l.line == line
  let same := fun (l : WcLine) => place l && l.stamp == w.stamp
  let s := (s.wcb.filter (fun l => place l && l.stamp != w.stamp)).foldl drainLine s
  let mine := s.wcb.filter (fun l => l.isle == isle)
  let s := if s.wcb.any same || mine.length < 64 then s else match mine with | l :: _ => drainLine s l | [] => s
  let s := if s.wcb.any same then s
    else { s with wcb := s.wcb ++ [{ isle := isle, dev := dev, slot := w.slot, line := line, stamp := w.stamp, bytes := [], born := s.clock, owners := []
                                     key := keyOf s w.x.c }] }
  let put := fun (l : WcLine) =>
    let bytes := (w.bytes.zipIdx).foldl (fun m b => minsert m (w.addr.toNat % 128 + b.2) b.1) l.bytes
    let own := fun (o : WcOwner) => o.crew == w.x.k && o.seq == w.x.id
    let owners := if l.owners.any own then l.owners.map (fun o => if own o then { o with lanes := o.lanes ||| bit w.lane } else o)
      else l.owners ++ [{ crew := w.x.k, seq := w.x.id, pcAt := w.x.pc, tmask := w.x.m, lanes := bit w.lane, depth := w.x.c.tdepth.toNat, stamps := w.x.c.stamp }]
    { l with bytes := bytes, owners := owners }
  let s := { s with wcb := s.wcb.map (fun l => if same l then put l else l) }
  match s.wcb.find? (fun l => same l && l.bytes.length == 128) with
  | some l => drainLine s l
  | none => s

/-- The offset register of RSTO, after the data. -/
def rstoOff (f : QF) : Option Nat := if f.sub.getLsbD 2 then some (f.p2.toNat + 2 ^ (f.sub.toNat % 4)) else none

/-- RSTO (R343). -/
def coreRsto (f : QF) : Core := 
  let nd := 2 ^ (f.sub.toNat % 4)
  { illop := fun _ _ => f.sub.toNat % 4 == 3
    uses := [useS f.d 1 false, useS f.p1 2 false, useV f.p2 nd false] ++ (match rstoOff f with | some r => [{ file := .vector, idx := r }] | none => [])
    counts := true
    run := fun x s =>
      let v := sget x.c f.d.toNat
      let addr := remAddr x.c f.p1 (rstoOff f)
      if !(slotOk v) then .trap s (slotTrap x v)
      else
        let bad := remBad s x.m addr (4 * nd) (some v)
        let s := (lanes (x.m &&& ~~~(lanesMask bad))).foldl (fun s L =>
          joinLine s { x := x, lane := L, addr := addr L, slot := slotNum v, stamp := if f.sub.getLsbD 3 then stampOf x.c L else 0
                       bytes := bytesOf ((List.range nd).map (fun k => vget x.c (f.p2.toNat + k) L)) }) (addCounted s x)
        settleFaults s x false true bad }
/-- RSTO. -/
def execRsto (f : QF) (s : State) : Host.Outcome State Fault Refusal := issue (.rsto f) (coreRsto f) s

/-- The lines that RDRAIN drains, and the wait until the router has taken them in (R346). -/
def rdrainRun (x : Ctx) (p : WcLine → Bool) (s : State) : Res := .done (waitIn (drainLines s (isleOf x.c.gcrew) p) x.k .drain)

/-- RDRAIN (R346): every line of the isle. -/
def coreRdrain : Core := 
  { run := fun x s => rdrainRun x (fun _ => true) s }
/-- RDRAIN. -/
def execRdrain (s : State) : Host.Outcome State Fault Refusal := issue .rdrain coreRdrain s

/-- RDRAIN of one device (R346); at the basic level as RDRAIN. -/
def coreRdrainS (f : QF) : Core := 
  { uses := [useS f.d 1 false]
    run := fun x s => rdrainRun x (fun l => !(expertOf x.c 4) || l.dev == slotDev (sget x.c f.d.toNat)) s }
/-- RDRAIN_S. -/
def execRdrainS (f : QF) (s : State) : Host.Outcome State Fault Refusal := issue (.rdrainS f) (coreRdrainS f) s

/-- DRAIN_COMPLETE (R346): every line that crew `arg.crew` drained has been taken in, and the crew may issue again. -/
def execDrainComplete (s : State) : Host.Outcome State Fault Refusal :=
  .next (updCrew s s.arg.crew (fun c => if c.wait == .drain then { c with wait := .none, readySince := max c.readySince s.clock } else c))

/-- A crew by its key, or what is kept of it once it has retired. -/
def ownerAt (s : State) (k : Nat) : Crew := (mfind s.crews k).getD (mget {} s.ghosts k)

/-- The ageing time of a line, that of its first writer's launch (R344, R359). -/
def ageOf (s : State) (l : WcLine) : Nat :=
  match l.owners with
  | o :: _ =>
    let c := ownerAt s o.crew
    if expertOf c 4 then us (launchOf s c).desc.age else us 4
  | [] => us 4

/-- WC_LINE_AGE_DRAIN (R344): every line whose age has reached its ageing time drains. -/
def execWcLineAgeDrain (s : State) : Host.Outcome State Fault Refusal :=
  .next ((s.wcb.filter (fun l => l.born + ageOf s l ≤ s.clock)).foldl drainLine s)

/-! ## RFLAG, ROPEN, RCLOSE (R340, R342, R347) -/

/-- RFLAG: drains the lines towards the flag's device and hands the flag to the router, which sets its target count (R347). -/
def rflagCore (f : QF) : Core :=
  let w := if f.sub.getLsbD 0 then 8 else 4
  { uses := [useS f.d 1 false, useS f.p1 2 false, useV f.p2 (w / 4) false]
    counts := true
    run := fun x s =>
      let v := sget x.c f.d.toNat
      let a := sget2 x.c f.p1.toNat
      if !(slotOk v) then .trap s (slotTrap x v)
      else
        match remBad s x.m (fun _ => a) w (some v) with
        | [] =>
          let dev := slotDev v
          let slot := slotNum v
          let s := addCounted (drainLines s (isleOf x.c.gcrew) (fun l => l.dev == dev)) x
          let t := txAt s dev slot
          match injectReason t with
          | some r =>
            .done (lateFault s x.k (injectFault { crew := x.k, seq := x.id, pcAt := x.pc, tmask := x.m, lanes := x.m, depth := x.c.tdepth.toNat, stamps := x.c.stamp } r dev slot))
          | none =>
            let L := lowest x.m
            .done (sendPacket s { mkPkt s 2 0 dev with
              slot := slot, len := w, opx := f.sub, faddr := a, stamp := stampOf x.c L, count := t.sent, key := keyOf s x.c
              data := bytesOf ((List.range (w / 4)).map (fun k => vget x.c (f.p2.toNat + k) L)) })
        | bad => settleFaults s x false true bad }

/-- RFLAG, a store flag (R347). -/
def coreRflag (f : QF) : Core := rflagCore f
/-- RFLAG. -/
def execRflag (f : QF) (s : State) : Host.Outcome State Fault Refusal := issue (.rflag f) (coreRflag f) s

/-- RFLAG, an ADD flag (R347). -/
def coreRflagAdd (f : QF) : Core := rflagCore f
/-- RFLAG_ADD. -/
def execRflagAdd (f : QF) (s : State) : Host.Outcome State Fault Refusal := issue (.rflagAdd f) (coreRflagAdd f) s

/-- Free request entries of an isle, `n` of them, lowest first (R353). -/
def freeTags (s : State) (isle n : Nat) : List Nat :=
  (((List.range 128).filter (fun e => !(s.reqs.any (fun r => r.tag == isle + 256 * e)))).take n).map (fun e => isle + 256 * e)

/-- A request of the issuing crew; its packet carries the tag. -/
def reqOf (x : Ctx) (s : State) (kind : ReqKind) (tag : Nat) (dst : BitVec 12) : RemoteReq :=
  { tag := tag, kind := kind, crew := x.k, gcrew := x.c.gcrew, lid := x.c.lid, part := x.c.part, pendId := x.id, seq := x.id, pcAt := x.pc, pcNext := x.nx
    dst := dst, lanes := [], tmask := x.m, regD := 0, w := 0, addr := 0, since := s.clock, stamp := stampOf x.c (lowest x.m), stamps := x.c.stamp, depth := x.c.tdepth.toNat
    operands := [], sub := 0 }

/-- The destination and tag of an ROPEN. -/
def ropenDst (x : Ctx) (f : QF) : BitVec 12 := (sget x.c f.p1.toNat).setWidth 12
/-- The flag timeout in µs that an ROPEN asks for. -/
def ropenTime (x : Ctx) (f : QF) : Nat := if expertOf x.c 4 then (sget x.c f.p2.toNat).toNat else 0

/-- Some port towards the destination of an ROPEN is up (R340). -/
def reachable (s : State) (dst : BitVec 12) : Bool :=
  routed s dst && (dst == s.deviceId || (pickPort s (mkPkt s 0x21 2 dst)).isSome)

/-- The FLAG bit that a slot takes from its partition (R25, R340); it says nothing until full service begins (R26). -/
def flagBit (s : State) (part : Nat) : Bool := (partOf s part).mode.getLsbD 2

/-- ROPEN (R340). -/
def coreRopen (f : QF) : Core := 
  { uses := [useS f.p1 1 false, useS f.p2 1 false, useS f.d 1 true]
    counts := true
    hold := fun x s =>
      if ropenTime x f ≤ 1000000 && reachable s (ropenDst x f) && (freeTags s (isleOf x.c.gcrew) 1).isEmpty then some .memory else none
    run := fun x s =>
      let dst := ropenDst x f
      let t := ropenTime x f
      if 1000000 < t then .trap s (trapAt x 0x13 (BitVec.ofNat 64 t))
      else if !(reachable s dst) then .done (updCrew s x.k (fun c => addPend c { statusPend x f.d.toNat (some 2) with kind := .memory }))
      else
        let tag := (freeTags s (isleOf x.c.gcrew) 1).headD 0
        let hw : BitVec 4 := if flagBit s x.c.part then 1 else 0
        let s := updCrew s x.k (fun c => addPend c { statusPend x f.d.toNat none with kind := .memory, drains := true })
        let s := { s with reqs := s.reqs ++ [{ reqOf x s .open_ tag dst with regD := f.d.toNat, sub := hw.toNat, addr := (sget x.c f.p1.toNat).toNat / 65536 }] }
        .done (sendPacket s { mkPkt s 0x21 2 dst with
          slot := BitVec.ofNat 16 ((sget x.c f.p1.toNat).toNat / 65536), opx := hw, count := BitVec.ofNat 32 (if t == 0 then 100 else t), tag := BitVec.ofNat 16 tag
          key := keyOf s x.c }) }
/-- ROPEN. -/
def execRopen (f : QF) (s : State) : Host.Outcome State Fault Refusal := issue (.ropen f) (coreRopen f) s

/-- RCLOSE (R342). -/
def coreRclose (f : QF) : Core := 
  { uses := [useS f.d 1 false]
    run := fun x s =>
      let v := sget x.c f.d.toNat
      if !(slotOk v) then .trap s (slotTrap x v)
      else
        let dev := slotDev v
        let slot := slotNum v
        let s := drainLines s (isleOf x.c.gcrew) (fun l => l.dev == dev)
        let t := txAt s dev slot
        let s := { s with txSlots := minsert s.txSlots (txKey dev slot) { t with st := .closed } }
        .done (sendPacket s { mkPkt s 3 0 dev with slot := slot, count := t.sent, stamp := stampOf x.c (lowest x.m), key := keyOf s x.c }) }
/-- RCLOSE. -/
def execRclose (f : QF) (s : State) : Host.Outcome State Fault Refusal := issue (.rclose f) (coreRclose f) s

/-! ## RLOAD and RATOM (R353, R354) -/

/-- The offset register of RLOAD and RATOM. -/
def remOff (f : QF) : Option Nat := if f.p2 == 0 then none else some f.p2.toNat
/-- Lanes grouped by a key, by ascending lowest lane. -/
def groupLanes (ls : List Nat) (g : Nat → Nat) : List (Nat × List Nat) :=
  ls.foldl (fun acc L =>
    if acc.any (fun p => p.1 == g L) then acc.map (fun p => if p.1 == g L then (p.1, p.2 ++ [L]) else p) else acc ++ [(g L, [L])]) []

/-- What a remote request instruction sends: the groups of its lanes that pass their checks, and the faults of the others. -/
def remGroups (s : State) (x : Ctx) (f : QF) (w unit : Nat) : List (Nat × List Nat) × List (Nat × LFault) :=
  let addr := remAddr x.c f.p1 (remOff f)
  let bad := remBad s x.m addr w none
  (groupLanes (lanes (x.m &&& ~~~(lanesMask bad))) (fun L => (addr L).toNat / unit), bad)

/-- Lanes that need request entries wait at issue until they are free (R353). -/
def remHold (s : State) (x : Ctx) (f : QF) (w unit : Nat) : Option WaitKind :=
  let n := (remGroups s x f w unit).1.length
  if (freeTags s (isleOf x.c.gcrew) n).length < n then some .memory else none

/-- The outstanding result of a remote request in the lanes that it was sent for. -/
def remPend (x : Ctx) (d nd : Nat) (ls : List Nat) : Pend :=
  { id := x.id, kind := .memory, ready := false, drains := true
    targets := ls.flatMap (fun L => (List.range nd).map (fun k => { file := .vector, idx := d + k, lane := L, val := 0 })) }

/-- Send one request for each group. -/
def remSend (s : State) (x : Ctx) (gs : List (Nat × List Nat)) (req : Nat → List Nat → RemoteReq → RemoteReq) (pkt : Nat → List Nat → Packet → Packet) : State :=
  let tags := freeTags s (isleOf x.c.gcrew) gs.length
  (gs.zip tags).foldl (fun s g =>
    let dst := BitVec.ofNat 12 (fld ((req g.1.1 g.1.2 (reqOf x s .load g.2 0)).addr) 63 52)
    let r := { req g.1.1 g.1.2 (reqOf x s .load g.2 dst) with dst := dst }
    let k := pkt g.1.1 g.1.2 { mkPkt s 4 0 dst with tag := BitVec.ofNat 16 g.2, key := keyOf s x.c, faddr := BitVec.ofNat 64 r.addr, stamp := r.stamp }
    sendPacket { s with reqs := s.reqs ++ [r] } k) s

/-- RLOAD (R353): one LOAD for each distinct line. DESIGN CHOICE (log entry 48): a packet that serves several lanes carries the stamp of its lowest lane. -/
def coreRload (f : QF) : Core := 
  let nd := 2 ^ (f.sub.toNat % 4)
  { illop := fun _ _ => f.sub.toNat % 4 == 3
    uses := [useS f.p1 2 false] ++ (if f.p2 == 0 then [] else [useV f.p2 1 false]) ++ [useV f.d nd true]
    counts := true
    hold := fun x s => remHold s x f (4 * nd) 128
    run := fun x s =>
      let addr := remAddr x.c f.p1 (remOff f)
      let g := remGroups s x f (4 * nd) 128
      let ls := g.1.flatMap (fun p => p.2)
      let s := if ls.isEmpty then s else updCrew s x.k (fun c => addPend c (remPend x f.d.toNat nd ls))
      let s := remSend s x g.1
        (fun u ls r => { r with
          kind := .load, lanes := ls.map (fun L => (L, (addr L).toNat % 128)), regD := f.d.toNat, w := 4 * nd, addr := 128 * u, sub := f.sub.toNat
          stamp := stampOf x.c (ls.headD 0), operands := ls.map (fun L => (L, addr L)) })
        (fun _ _ k => { k with len := 128 })
      settleFaults s x true false g.2 }
/-- RLOAD. -/
def execRload (f : QF) (s : State) : Host.Outcome State Fault Refusal := issue (.rload f) (coreRload f) s

/-- The width in bytes of a RATOM operation. -/
def ratomW (sub : Nat) : Nat := if sub == 1 || sub == 3 then 8 else 4
/-- The new value of a RATOM operation from the old one and the 8 operand bytes as a number (R354). -/
def ratomNew (sub old d : Nat) : Nat :=
  let o := BitVec.ofNat 32 old
  let v := BitVec.ofNat 32 d
  match sub with
  | 0 => (o + v).toNat
  | 1 => (old + d) % 2 ^ 64
  | 2 => atomF F32 o.toNat v.toNat
  | 3 => atomF F64 old d
  | 4 => (if sltW v o then v else o).toNat
  | 5 => (if sltW o v then v else o).toNat
  | 6 => (if ultW v o then v else o).toNat
  | 7 => (if ultW o v then v else o).toNat
  | 8 => (o &&& v).toNat
  | 9 => (o ||| v).toNat
  | 10 => (o ^^^ v).toNat
  | 11 => v.toNat
  | 12 => if o == v then d / 2 ^ 32 % 2 ^ 32 else o.toNat
  | _ => if v.toNat ≤ o.toNat then 0 else (o + 1).toNat

/-- RATOM (R354): one ATOMIC for each distinct location, with the operands of its lanes in ascending order. -/
def ratomCore (f : QF) : Core :=
  let sub := f.sub.toNat
  let w := ratomW sub
  let pair := w == 8 || sub == 12
  { uses := [useV f.d (if pair then 2 else 1) false, useS f.p1 2 false] ++ (if f.p2 == 0 then [] else [useV f.p2 1 false]) ++
      [{ file := .vector, idx := f.d.toNat, n := w / 4, al := 1, wr := true }]
    counts := true
    hold := fun x s => if (sub == 2 || sub == 3) && x.c.strict && !(holdsToken s x.c) then some .token else remHold s x f w 1
    run := fun x s =>
      let addr := remAddr x.c f.p1 (remOff f)
      let g := remGroups s x f w 1
      let ls := g.1.flatMap (fun p => p.2)
      let s := if ls.isEmpty then s else updCrew s x.k (fun c => addPend c (remPend x f.d.toNat (w / 4) ls))
      let opd := fun L => if pair then (vget2 x.c f.d.toNat L).toNat else (vget x.c f.d.toNat L).toNat
      let s := remSend s x g.1
        (fun u ls r => { r with
          kind := .atom, lanes := ls.zipIdx.map (fun p => (p.1, 8 * p.2)), regD := f.d.toNat, w := w, addr := u, sub := sub
          stamp := stampOf x.c (ls.headD 0), operands := ls.map (fun L => (L, addr L)) })
        (fun _ ls k => { k with typ := 5, opx := f.sub, count := BitVec.ofNat 32 ls.length, len := 8 * ls.length, data := ls.flatMap (fun L => natBytes 8 (opd L)) })
      settleFaults s x true true g.2 }

/-- RATOM `.add` (R354). -/
def coreRatomAdd (f : QF) : Core := ratomCore f
/-- RATOM_ADD. -/
def execRatomAdd (f : QF) (s : State) : Host.Outcome State Fault Refusal := issue (.ratomAdd f) (coreRatomAdd f) s

/-- RATOM `.add64` (R354). -/
def coreRatomAdd64 (f : QF) : Core := ratomCore f
/-- RATOM_ADD64. -/
def execRatomAdd64 (f : QF) (s : State) : Host.Outcome State Fault Refusal := issue (.ratomAdd64 f) (coreRatomAdd64 f) s

/-- RATOM `.addf` (R354). -/
def coreRatomAddf (f : QF) : Core := ratomCore f
/-- RATOM_ADDF. -/
def execRatomAddf (f : QF) (s : State) : Host.Outcome State Fault Refusal := issue (.ratomAddf f) (coreRatomAddf f) s

/-- RATOM `.addd` (R354). -/
def coreRatomAddd (f : QF) : Core := ratomCore f
/-- RATOM_ADDD. -/
def execRatomAddd (f : QF) (s : State) : Host.Outcome State Fault Refusal := issue (.ratomAddd f) (coreRatomAddd f) s

/-- RATOM `.min` (R354). -/
def coreRatomMin (f : QF) : Core := ratomCore f
/-- RATOM_MIN. -/
def execRatomMin (f : QF) (s : State) : Host.Outcome State Fault Refusal := issue (.ratomMin f) (coreRatomMin f) s

/-- RATOM `.max` (R354). -/
def coreRatomMax (f : QF) : Core := ratomCore f
/-- RATOM_MAX. -/
def execRatomMax (f : QF) (s : State) : Host.Outcome State Fault Refusal := issue (.ratomMax f) (coreRatomMax f) s

/-- RATOM `.umin` (R354). -/
def coreRatomUmin (f : QF) : Core := ratomCore f
/-- RATOM_UMIN. -/
def execRatomUmin (f : QF) (s : State) : Host.Outcome State Fault Refusal := issue (.ratomUmin f) (coreRatomUmin f) s

/-- RATOM `.umax` (R354). -/
def coreRatomUmax (f : QF) : Core := ratomCore f
/-- RATOM_UMAX. -/
def execRatomUmax (f : QF) (s : State) : Host.Outcome State Fault Refusal := issue (.ratomUmax f) (coreRatomUmax f) s

/-- RATOM `.and` (R354). -/
def coreRatomAnd (f : QF) : Core := ratomCore f
/-- RATOM_AND. -/
def execRatomAnd (f : QF) (s : State) : Host.Outcome State Fault Refusal := issue (.ratomAnd f) (coreRatomAnd f) s

/-- RATOM `.or` (R354). -/
def coreRatomOr (f : QF) : Core := ratomCore f
/-- RATOM_OR. -/
def execRatomOr (f : QF) (s : State) : Host.Outcome State Fault Refusal := issue (.ratomOr f) (coreRatomOr f) s

/-- RATOM `.xor` (R354). -/
def coreRatomXor (f : QF) : Core := ratomCore f
/-- RATOM_XOR. -/
def execRatomXor (f : QF) (s : State) : Host.Outcome State Fault Refusal := issue (.ratomXor f) (coreRatomXor f) s

/-- RATOM `.xchg` (R354). -/
def coreRatomXchg (f : QF) : Core := ratomCore f
/-- RATOM_XCHG. -/
def execRatomXchg (f : QF) (s : State) : Host.Outcome State Fault Refusal := issue (.ratomXchg f) (coreRatomXchg f) s

/-- RATOM `.cas` (R354). -/
def coreRatomCas (f : QF) : Core := ratomCore f
/-- RATOM_CAS. -/
def execRatomCas (f : QF) (s : State) : Host.Outcome State Fault Refusal := issue (.ratomCas f) (coreRatomCas f) s

/-- RATOM `.incw` (R354). -/
def coreRatomIncw (f : QF) : Core := ratomCore f
/-- RATOM_INCW. -/
def execRatomIncw (f : QF) (s : State) : Host.Outcome State Fault Refusal := issue (.ratomIncw f) (coreRatomIncw f) s

/-! ## Windows at the receiver (R338, R339) -/

/-- A window and the address behind it, or the stream reason; poison is told apart. -/
inductive WinOut where
  | bad (reason : Nat)
  | poison
  | ok (pa : Nat) (part : Nat)

/-- The checks of a request's window and page in the order of their codes (R339): a page that is ORD counts as 0x07 before its poison counts. `perm` is the permission that the request
needs; poisoned lines are the request's own to judge. -/
def winCheck (s : State) (k : Packet) (n : Nat) (perm : Window → Bool) (a : Acc) : State × WinOut :=
  let f := k.faddr.toNat
  let w := mget {} s.windows (fld f 51 48)
  let off := fld f 47 0
  if !w.en || w.size < off + n || (!w.phys && (mfind s.parts w.part).isNone) then (s, .bad 6)
  else if (w.key != 0 && w.key != k.key) || !(perm w) then (s, .bad 7)
  else if w.phys then (s, .ok (w.base + off) w.part)
  else
    match xlate s { part := w.part } (w.base + off) a with
    | (s, .error c) =>
      let ord := (leafOf s { part := w.part } (w.base + off)).any (fun e => fld e 61 61 == 1)
      (s, if c == 0x10 then .bad 8 else if c == 0x12 && !ord then .poison else .bad 7)
    | (s, .ok p) => (s, if p.ord then .bad 7 else .ok (p.pa (w.base + off)) w.part)

/-! ## Counted flags at the receiver (R348 to R350) -/

/-- A failed WRITE, FLAG or CLOSE: the record, the DAMAGED slot and the LOSS notice; a failed CLOSE only writes the record (R350). -/
def streamFail (s : State) (k : Packet) (reason : Nat) (r : Option RxSlot) : State :=
  let s := postRec s
    { typ := 0x30, hw := slotHw s ((r.map (fun r => r.hw)).getD false), stamp := k.stamp, addr := k.faddr
      detail := BitVec.ofNat 64 (reason + 256 * k.slot.toNat + 2 ^ 24 * k.src.toNat) } .nobody
  if k.typ == 3 then s
  else
    let s := if r.isSome then damageRx s k.slot.toNat else s
    sendPacket s (slotLoss s k.src s.deviceId k)

/-- The slot that a packet names, when it is bound to the packet's source. -/
def rxOf (s : State) (k : Packet) : Option RxSlot :=
  match mfind s.rxSlots k.slot.toNat with
  | some r => if r.src == k.src && r.st != .free then some r else none
  | none => none

/-- The checks of a WRITE, FLAG or CLOSE in the order of R339: its window and page, its slot, and poison. -/
def streamCheck (s : State) (k : Packet) (n : Nat) (a : Acc) : State × WinOut :=
  match winCheck s k n (fun w => w.wr) a with
  | (s, .bad r) => (s, .bad r)
  | (s, w) => if (rxOf s k).isNone then (s, .bad 9) else (s, w)

/-- A flag's count is reached (R348). -/
def flagDue (arrived target : Word) : Bool := (arrived - target).toNat < 2 ^ 31

/-- Perform one flag: a store or an atomic add, once its window and line allow it (R348). -/
def performFlag (s : State) (k : Packet) (r : RxSlot) : State :=
  let w := if k.opx.getLsbD 0 then 8 else 4
  match winCheck s k w (fun w => w.wr) (if k.opx.getLsbD 1 then .rw else .wr) with
  | (s, .bad n) => streamFail s k n (some r)
  | (s, .poison) => streamFail s k 0x0A (some r)
  | (s, .ok pa part) =>
    let q := probe s { part := part } pa w (if k.opx.getLsbD 1 then 3 else 1)
    let s := q.1
    if q.2 then streamFail s k 0x0A (some r)
    else
      let v := bytesNat (k.data.take w)
      wrN s pa w ((if k.opx.getLsbD 1 then v + rdN s pa w else v) % 256 ^ w)

/-- Perform the pending flags of a slot that qualify, in ascending target order; a CLOSE that qualifies frees the slot (R348, R342). -/
def performFlags : Nat → State → Nat → State
  | 0, s, _ => s
  | n + 1, s, slot =>
    match mfind s.rxSlots slot with
    | none => s
    | some r =>
      if r.st != .open_ then s
      else
        let due := s.pflags.filter (fun f => f.slot == slot && flagDue r.arrived f.target)
        match least (fun f => 2 * (2 ^ 32 - (r.arrived - f.target).toNat) + (if f.pkt.typ == 3 then 1 else 0)) due with
        | none => s
        | some f =>
          let s := { s with pflags := s.pflags.erase f }
          if f.pkt.typ == 3 then
            let rest := s.pflags.filter (fun g => g.slot == slot)
            let s := { s with pflags := s.pflags.filter (fun g => g.slot != slot), rxSlots := merase s.rxSlots slot }
            if rest.isEmpty then s else flagLoss s r.hw slot r.src rest
          else performFlags n (performFlag s f.pkt r) slot

/-- Look at a slot's pending flags after a change. -/
def flagsOn (s : State) (slot : Nat) : State := performFlags (s.pflags.length + 1) s slot

/-- Hold a flag or CLOSE in the pending table, or damage the slot when its overflow area is full (R348). -/
def holdFlag (s : State) (k : Packet) : State :=
  let slot := k.slot.toNat
  let f : PFlag := { slot := slot, target := k.count, pkt := k, since := s.clock, starved := false }
  if 4096 + 2 ^ 20 ≤ s.pflags.length then damageRx s slot (if k.typ == 2 then [f] else []) else flagsOn { s with pflags := s.pflags ++ [f] } slot

/-- WRITE_PACKET (R344): packet `arg.pkt` performs its masked bytes, or fails, and its slot's arrival count rises. -/
def execWritePacket (s : State) : Host.Outcome State Fault Refusal :=
  let k := s.arg.pkt
  let full := k.len == 128 && k.mask == BitVec.allOnes 128
  let put := fun (s : State) (pa : Nat) =>
    if full then (pwrite s pa (padTo 128 k.data)).1
    else ((List.range k.len).filter (fun i => k.mask.getLsbD i)).foldl (fun s i => wrB s (pa + i) [k.data.getD i 0]) s
  let q := streamCheck s k k.len .wr
  let s := match q.2 with
    | .bad n => streamFail q.1 k n (rxOf q.1 k)
    | .poison => streamFail q.1 k 0x0A (rxOf q.1 k)
    | .ok pa part =>
      if full then put q.1 pa
      else
        let p := probe q.1 { part := part } pa k.len
        if p.2 then streamFail p.1 k 0x0A (rxOf p.1 k) else put p.1 pa
  if (rxOf s k).isNone then .next s
  else .next (flagsOn { s with rxSlots := mmodify s.rxSlots k.slot.toNat (fun r => { r with arrived := r.arrived + 1 }) } k.slot.toNat)

/-- FLAG_PACKET (R348): flag `arg.pkt` is checked on arrival and held until its count qualifies. -/
def execFlagPacket (s : State) : Host.Outcome State Fault Refusal :=
  let k := s.arg.pkt
  let w := if k.opx.getLsbD 0 then 8 else 4
  match streamCheck s k w (if k.opx.getLsbD 1 then .rw else .wr) with
  | (s, .bad n) => .next (streamFail s k n (rxOf s k))
  | (s, .poison) => .next (streamFail s k 0x0A (rxOf s k))
  | (s, .ok pa _) => .next (if anyPoison s pa w then streamFail s k 0x0A (rxOf s k) else holdFlag s k)

/-- The slot of a CLOSE is freed: at once when it is DAMAGED, otherwise the CLOSE is held as a flag is (R342). -/
def closeSlot (s : State) (k : Packet) : State :=
  match rxOf s k with
  | none => s
  | some r =>
    if r.st != .damaged then holdFlag s k
    else
      let slot := k.slot.toNat
      let mine := s.pflags.filter (fun f => f.slot == slot)
      flagLoss { s with pflags := s.pflags.filter (fun f => f.slot != slot), rxSlots := merase s.rxSlots slot } r.hw slot r.src mine

/-- CLOSE_PACKET (R342): CLOSE `arg.pkt` passes the checks of R339 for the byte that its fabric address names, then closes its slot. -/
def execClosePacket (s : State) : Host.Outcome State Fault Refusal :=
  let k := s.arg.pkt
  match streamCheck s k k.len .wr with
  | (s, .bad n) => .next (streamFail s k n (rxOf s k))
  | (s, .poison) => .next (streamFail s k 0x0A (rxOf s k))
  | (s, .ok pa _) => .next (if anyPoison s pa 1 then streamFail s k 0x0A (rxOf s k) else closeSlot s k)

/-- QUERY about a slot that device `holder` receives on: to the source for its send count, or to `holder` for its arrival count (R351); COUNT names `holder`, and `key` is that of the slot
(log entry 13). -/
def queryPkt (s : State) (dst holder : BitVec 12) (slot key : BitVec 16) : Packet :=
  { mkPkt s 0x24 2 dst with
    slot := slot, key := key, faddr := BitVec.ofNat 64 (dst.toNat * 2 ^ 52 + (if dst == holder then 1 else 0)), count := BitVec.ofNat 32 (holder.toNat * 65536) }

/-- FLAG_TIMEOUT (R349): a flag held on slot `arg.a` past its timeout writes its one FLAGSTARVE record and stays pending. In hardware mode the source's firmware hears of it by a
QUERY for its send count (log entry 13). -/
def execFlagTimeout (s : State) : Host.Outcome State Fault Refusal :=
  match mfind s.rxSlots s.arg.a with
  | none => .next s
  | some r =>
    match s.pflags.find? (fun f => f.slot == s.arg.a && f.pkt.typ == 2 && !f.starved && f.since + us r.timeout ≤ s.clock) with
    | none => .next s
    | some f =>
      let s := { s with pflags := s.pflags.map (fun g => if g == f then { g with starved := true } else g) }
      let s := postRec s { typ := 0x81, hw := slotHw s r.hw, stamp := f.pkt.stamp, addr := f.pkt.faddr, detail := join f.target r.arrived } .nobody
      .next (if slotHw s r.hw then sendPacket s (queryPkt s r.src s.deviceId (BitVec.ofNat 16 s.arg.a) r.key) else s)

/-! ## Loads and atomics at the home (R353, R354, R356) -/

/-- The launch of this device that belongs to a fabric job's timeline group; job 0 is none (R51). DESIGN CHOICE (log entry 13): EVPOST and EVCAN packets carry the job
in SLOT, and the first timeline launch of that job takes them. -/
def jobLaunch (s : State) (job : Nat) : Option Nat := if job == 0 then none else ((s.launches.find? (fun p => p.2.desc.job == job && (mfind s.timelines p.1).isSome))).map (fun p => p.1)

/-- The fabric key of the party that answers a request: that of the window's partition, of the timeline launch's, or else the request's own (R339, log entry 13). -/
def replyKey (s : State) (k : Packet) : BitVec 16 :=
  if k.typ == 4 || k.typ == 5 then (partOf s (mget {} s.windows (fld k.faddr.toNat 51 48)).part).key
  else
    match (if k.typ == 6 || k.typ == 7 then jobLaunch s k.slot.toNat else none) with
    | some lid => (partOf s (mget {} s.launches lid).part).key
    | none => k.key

/-- A reply to a request. -/
def replyTo (s : State) (k : Packet) (typ : Nat) (cause reason : Nat) (data : List Byte) : Packet :=
  { mkPkt s typ 1 k.src with tag := k.tag, key := replyKey s k, count := BitVec.ofNat 32 (cause + 256 * reason), len := data.length, data := data }

/-- LOAD_PACKET (R353): LOAD `arg.pkt` reads the window's bytes and is answered. -/
def execLoadPacket (s : State) : Host.Outcome State Fault Refusal :=
  let k := s.arg.pkt
  match winCheck s k k.len (fun w => w.rd) .rd with
  | (s, .bad n) => .next (sendPacket s (replyTo s k 0x11 0x30 n []))
  | (s, .poison) => .next (sendPacket s (replyTo s k 0x11 0x12 0 []))
  | (s, .ok pa part) =>
    let q := probe s { part := part } pa k.len
    let s := q.1
    .next (sendPacket s (if q.2 then replyTo s k 0x11 0x12 0 [] else replyTo s k 0x11 0 0 (rdB s pa k.len)))

/-- Apply operands in order to a location; answers the last value and the old value that each saw. -/
def applyOps (sub : Nat) (old : Nat) (ds : List Nat) : Nat × List Nat := ds.foldl (fun a d => (ratomNew sub a.1 d, a.2 ++ [a.1])) (old, [])

/-- The reply to an ATOMIC brings its SLOT back (log entry 13). -/
def atomReply (s : State) (k : Packet) (cause reason : Nat) (data : List Byte) : Packet := { replyTo s k 0x12 cause reason data with slot := k.slot }

/-- ATOMIC_PACKET (R354, R356): ATOMIC `arg.pkt` applies its operands in order and is answered with the old values. -/
def execAtomicPacket (s : State) : Host.Outcome State Fault Refusal :=
  let k := s.arg.pkt
  let sub := k.opx.toNat
  let w := ratomW sub
  match winCheck s k w (fun w => w.at_) .rw with
  | (s, .bad n) => .next (sendPacket s (atomReply s k 0x30 n []))
  | (s, .poison) => .next (sendPacket s (atomReply s k 0x12 0 []))
  | (s, .ok pa part) =>
    let q := probe s { part := part } pa w 3
    let s := q.1
    if q.2 then .next (sendPacket s (atomReply s k 0x12 0 []))
    else
      let r := applyOps sub (rdN s pa w) ((List.range k.count.toNat).map (fun i => at_ k.data (8 * i) 8))
      .next (sendPacket (wrN s pa w r.1) (atomReply s k 0 0 (r.2.flatMap (fun v => natBytes 8 v))))

/-! ## Replies at the requester (R339, R340, R355, R357) -/

/-- The request of a tag. -/
def reqAt (s : State) (tag : Nat) : Option RemoteReq := s.reqs.find? (fun r => r.tag == tag)
/-- A request ends. -/
def dropReq (s : State) (tag : Nat) : State := { s with reqs := s.reqs.filter (fun r => r.tag != tag) }

/-- The imprecise fault that a request's lanes take (R357). -/
def reqFault (r : RemoteReq) (cause reason : Nat) (ret : Bool) : HeldFault :=
  let m := lanesMask r.lanes
  let a := (mget 0 r.operands (lowest m)).toNat % 2 ^ 52
  { addr := r.pcAt, next := r.pcNext, cause := BitVec.ofNat 8 cause, tva := BitVec.ofNat 64 (reason * 2 ^ 56 + a), tmask := r.tmask, pcm := r.tmask &&& ~~~m
    seq := r.seq, depth := r.depth, returning := ret, due := !ret, stamps := r.stamps }

/-- The target belongs to a lane of the request. -/
def laneOfReq (r : RemoteReq) (t : PTarget) : Bool := t.file == .vector && r.lanes.any (fun l => l.1 == t.lane)

/-- The lanes of a load or atomic fault; their registers keep their values. -/
def remoteFail (s : State) (r : RemoteReq) (cause reason : Nat) : State :=
  landPend (lateFault (dropReq s r.tag) r.crew (reqFault r cause reason true)) r.crew r.pendId (laneOfReq r) (fun _ => none)

/-- The lanes of a load or atomic receive their bytes. -/
def remoteData (s : State) (r : RemoteReq) (data : List Byte) : State :=
  landPend (dropReq s r.tag) r.crew r.pendId (laneOfReq r) (fun t =>
    (r.lanes.find? (fun l => l.1 == t.lane)).map (fun l => BitVec.ofNat 32 (at_ data (l.2 + 4 * (t.idx - r.regD)) 4)))

/-- The slot word of an ROPEN returns. -/
def openDone (s : State) (r : RemoteReq) (w : Nat) : State :=
  landPend (dropReq s r.tag) r.crew r.pendId (fun t => t.file == .scalar) (fun _ => some (BitVec.ofNat 32 w))

/-- A remote post that faults gives its child index back (R319). -/
def giveBack (s : State) (r : RemoteReq) : State :=
  { s with timelines := mmodify s.timelines r.lid (fun t => { t with table := t.table.map (fun (p : RoundLane) =>
      if p.pos == r.addr / 256 && r.lanes.any (fun l => l.1 == p.lane) then { p with back := p.back ++ [r.addr % 256] } else p) }) }

/-- A load, atomic or open fails with a cause and a reason. -/
def reqFail (s : State) (r : RemoteReq) (cause reason : Nat) : State :=
  match r.kind with
  | .load => remoteFail s r cause reason
  | .atom => remoteFail s r cause reason
  | .open_ => openDone s r reason
  | .evpost =>
    let s := giveBack s r
    if r.sub == 1 then lateFault (dropReq s r.tag) r.crew (reqFault r cause reason false) else remoteFail s r cause reason
  | .evcan => lateFault (dropReq s r.tag) r.crew (reqFault r cause reason false)
  | .query => dropReq s r.tag

/-- LOADREP (R353, R357): reply `arg.pkt` fills its lanes or delivers their fault. -/
def execLoadrep (s : State) : Host.Outcome State Fault Refusal :=
  let k := s.arg.pkt
  match reqAt s k.tag.toNat with
  | none => .next s
  | some r =>
    if r.kind != .load then .next s
    else if k.count != 0 then .next (remoteFail s r (k.count.toNat % 256) (k.count.toNat / 256 % 256)) else .next (remoteData s r k.data)

/-- Split the reply of a combined request: each member's old value is the one returned plus the operands that arrived before it (R355). -/
def splitReply (s : State) (e : CombEntry) (k : Packet) : State :=
  let s := { s with comb := s.comb.filter (fun x => x.id != e.id) }
  (e.members.foldl (fun (a : State × Nat) m =>
    let d := if k.count != 0 then [] else natBytes 8 ((at_ k.data 0 8 + a.2) % (if e.wide then 2 ^ 64 else 2 ^ 32))
    (sendPacket a.1 { mkPkt a.1 0x12 1 m.src with tag := m.tag, key := k.key, slot := m.slot, count := k.count, len := d.length, data := d }, a.2 + bytesNat m.data)) (s, 0)).1

/-- ATOMREP (R354, R355): reply `arg.pkt` returns old values to its lanes, or to a combining entry. -/
def execAtomrep (s : State) : Host.Outcome State Fault Refusal :=
  let k := s.arg.pkt
  match s.comb.find? (fun e => e.closed && e.sentSlot == k.slot.toNat) with
  | some e => .next (splitReply s e k)
  | none =>
    match reqAt s k.tag.toNat with
    | none => .next s
    | some r =>
      if r.kind != .atom then .next s
      else if k.count != 0 then .next (remoteFail s r (k.count.toNat % 256) (k.count.toNat / 256 % 256)) else .next (remoteData s r k.data)

/-- COMBINING_WINDOW_CLOSE (R355): entry `arg.a` closes 64 cycles after it opened and sends its one request. -/
def execCombiningWindowClose (s : State) : Host.Outcome State Fault Refusal :=
  match s.comb.find? (fun e => e.id == s.arg.a && !e.closed && e.since + 64 ≤ s.clock) with
  | some e => .next (closeComb s e)
  | none => .next s

/-- OPEN_PACKET (R340): OPEN `arg.pkt` finds the slot bound to its source and tag, or takes the lowest FREE one, and is answered. -/
def execOpenPacket (s : State) : Host.Outcome State Fault Refusal :=
  let k := s.arg.pkt
  match s.rxSlots.find? (fun p => p.2.src == k.src && p.2.tag == k.slot && p.2.st != .free) with
  | some p => .next (sendPacket s { replyTo s k 0x14 0 0 [] with slot := BitVec.ofNat 16 p.1 })
  | none =>
    let n := firstFree (s.rxSlots.map (fun p => p.1)) (s.rxSlots.length + 1) 0
    if 65536 ≤ n then .next (sendPacket s (replyTo s k 0x14 1 0 []))
    else
      let r : RxSlot := { st := .open_, src := k.src, tag := k.slot, arrived := 0, timeout := k.count.toNat, hw := k.opx == 1, key := k.key }
      let s := { s with rxSlots := minsert s.rxSlots n r }
      .next (sendPacket s { replyTo s k 0x14 0 0 [] with slot := BitVec.ofNat 16 n, opx := 1 })

/-- OPENREP (R340): reply `arg.pkt` opens the slot at the source and returns the slot word. -/
def execOpenrep (s : State) : Host.Outcome State Fault Refusal :=
  let k := s.arg.pkt
  match reqAt s k.tag.toNat with
  | none => .next s
  | some r =>
    if r.kind != .open_ then .next s
    else if k.count != 0 then .next (openDone s r (k.count.toNat % 256))
    else
      let t := txAt s k.src k.slot
      let t' : TxSlot :=
        if k.opx == 1 || (t.st != .open_ && t.st != .damaged) then
          { st := .open_, sent := if k.opx == 1 then 0 else t.sent, tag := BitVec.ofNat 16 r.addr, hw := r.sub == 1, lastLoss := t.lastLoss, key := (partOf s r.part).key }
        else t
      .next (openDone { s with txSlots := minsert s.txSlots (txKey k.src k.slot) t' } r (slotWordOf k.src k.slot))

/-- REMOTE_REPLY_TIMEOUT (R339): request `arg.a` has had no reply for 1 ms. -/
def execRemoteReplyTimeout (s : State) : Host.Outcome State Fault Refusal :=
  match reqAt s s.arg.a with
  | some r => if r.since + us 1000 ≤ s.clock then .next (reqFail s r 0x30 5) else .next s
  | none => .next s

/-! ## Notices and recovery (R337, R349, R351) -/

/-- A LOSS notice about a slot or a request (R337); notices about collective packets are not of this kind. -/
def lossNotice (s : State) (k : Packet) : State :=
  let v := k.count.toNat
  if v / 2 ^ 31 == 1 then
    let dev := BitVec.ofNat 12 (fld v 27 16)
    damageTx (if dev == s.deviceId then damageRx s k.slot.toNat else s) dev k.slot
  else
    let t := fld v 30 16
    let e := s.comb.find? (fun e => e.closed && (t == 5 || t == 0x12) && e.sentSlot == k.slot.toNat)
    let r := if t == 0x24 || t == 0x16 then s.reqs.find? (fun r => r.kind == .query && r.addr == k.slot.toNat) else reqAt s k.tag.toNat
    match e, r with
    | some e, _ => splitReply s e { k with count := BitVec.ofNat 32 (0x30 + 256 * 4) }
    | none, some r => reqFail s r 0x30 4
    | none, none => s

/-- The code of a slot's state in a QUERYREP (R351). -/
def streamCode (t : StreamState) : BitVec 4 := match t with | .free => 0 | .open_ => 1 | .damaged => 2 | .closed => 3

/-- QUERY (R351): query `arg.pkt` asks for a slot's count and state at the end that FADDR [0] names. One of the receiver for the send count tells the source's firmware of a
starved flag (R349, log entry 13). -/
def execQuery (s : State) : Host.Outcome State Fault Refusal :=
  let k := s.arg.pkt
  let r := mget {} s.rxSlots k.slot.toNat
  let dev := BitVec.ofNat 12 (fld k.count.toNat 27 16)
  let t := txAt s dev k.slot
  let s := if !(k.faddr.getLsbD 0) && k.src == dev && t.hw then
    { s with txSlots := mmodify s.txSlots (txKey dev k.slot) (fun t => { t with starved := true }) } else s
  let a := if k.faddr.getLsbD 0 then (r.arrived, streamCode r.st) else (t.sent, streamCode t.st)
  .next (sendPacket s { replyTo s k 0x16 0 0 [] with slot := k.slot, key := if k.faddr.getLsbD 0 then r.key else t.key, count := a.1, opx := a.2 })

/-- The last LOSS notice of a slot is at least 1 ms old, or there was none (R351). -/
def lossOver (s : State) (t : TxSlot) : Bool := t.lastLoss == 0 || t.lastLoss + us 1000 ≤ s.clock

/-- RESYNC of this device's firmware for its slot at receiver `dev` (R351). -/
def resyncPkt (s : State) (dev : BitVec 12) (slot : BitVec 16) (t : TxSlot) : Packet :=
  { mkPkt s 0x23 2 dev with slot := slot, key := t.key, count := t.sent, faddr := BitVec.ofNat 64 (s.deviceId.toNat * 2 ^ 52 + dev.toNat) }

/-- QUERYREP (R351): the answer `arg.pkt` reaches the recovering firmware, which resynchronises a slot that is DAMAGED at either end. -/
def execQueryrep (s : State) : Host.Outcome State Fault Refusal :=
  let k := s.arg.pkt
  match s.reqs.find? (fun r => r.kind == .query && r.dst == k.src && r.addr == k.slot.toNat) with
  | none => .next s
  | some r =>
    let s := dropReq s r.tag
    let t := txAt s r.dst k.slot
    let bad := t.st == .damaged || k.opx == 2
    if bad && !(lossOver s t) then .next s
    else
      let s := { s with txSlots := mmodify s.txSlots (txKey r.dst k.slot) (fun t => { t with starved := false }) }
      .next (if bad then sendPacket s (resyncPkt s r.dst k.slot t) else s)

/-- FIRMWARE_FLAG_RECOVERY (R349, R351): the firmware queries the counts of slot `arg.b` towards device `arg.a`. -/
def execFirmwareFlagRecovery (s : State) : Host.Outcome State Fault Refusal :=
  let dev := BitVec.ofNat 12 s.arg.a
  let slot := BitVec.ofNat 16 s.arg.b
  let t := txAt s dev slot
  let busy := s.reqs.any (fun r => r.kind == .query && r.dst == dev && r.addr == slot.toNat)
  let tag := firstFree (s.reqs.map (fun r => r.tag)) (s.reqs.length + 1) 0x8000
  if !(slotHw s t.hw) || busy || (t.st == .damaged && !(lossOver s t)) then .next s
  else
    let x : Ctx := { k := 0, c := {}, m := 0, pc := 0, nx := 0, id := 0 }
    let s := { s with reqs := s.reqs ++ [{ reqOf x s .query tag dev with addr := slot.toNat }] }
    .next (sendPacket s (queryPkt s dev dev slot t.key))

/-- A control packet that changes routes or slots comes from a listed manager, or from this device's own firmware (R329, log entry 13). -/
def fromManager (s : State) (k : Packet) : Bool := k.src == s.deviceId || s.managers.contains k.src

/-- RESYNC (R351): packet `arg.pkt` sets the receiver's arrival count, discards its pending flags, reopens the slot and goes on with OPX 1 to the source, which
reopens it there. FADDR [11:0] names the receiver, and SRC stays that of the recovering party, which must be a manager at either end (R329, log entry 13). -/
def execResync (s : State) : Host.Outcome State Fault Refusal :=
  let k := s.arg.pkt
  let slot := k.slot.toNat
  if !(fromManager s k) then .next { s with discards := s.discards + 1 }
  else if k.opx == 1 then .next { s with txSlots := mmodify s.txSlots (txKey (k.faddr.setWidth 12) k.slot) (fun t => { t with st := .open_ }) }
  else
    match mfind s.rxSlots slot with
    | none => .next s
    | some r =>
      let s := { s with
        rxSlots := minsert s.rxSlots slot { r with st := .open_, arrived := k.count }
        pflags := s.pflags.filter (fun f => f.slot != slot) }
      .next (sendPacket s { k with dst := devOf k.faddr, hop := 0, opx := 1 })

/-- ROUTE (R329): packet `arg.pkt` writes route table entries, 8 bytes each: the destination, then the entry (log entry 13). -/
def execRoute (s : State) : Host.Outcome State Fault Refusal :=
  let k := s.arg.pkt
  if !(fromManager s k) then .next { s with discards := s.discards + 1 }
  else .next ((List.range (k.data.length / 8)).foldl (fun (s : State) i =>
    { s with routes := minsert s.routes (at_ k.data (8 * i) 2 % 4096) (BitVec.ofNat 32 (at_ k.data (8 * i + 4) 4) &&& 0x807FFFE0) }) s)

/-! ## Links (R332 to R337) -/

/-- A packet that has come in: it is for this device, or it goes on with its hop raised (R331). -/
def packetIn (s : State) (k : Packet) : State :=
  if k.dst == s.deviceId then
    let known := [0x01, 0x02, 0x03, 0x04, 0x05, 0x06, 0x07, 0x11, 0x12, 0x13, 0x14, 0x15, 0x16, 0x21, 0x22, 0x23, 0x24, 0x25]
    if known.contains k.typ.toNat || k.typ.toNat / 16 == 3 then { s with netIn := s.netIn ++ [k] } else { s with discards := s.discards + 1 }
  else sendPacket s { k with hop := k.hop + 1 }

/-- Flits that a link sends in a cycle of the device's clock (R333). -/
def flitRate (l : Link) : Nat := if l.narrow then 2 else 4

/-- Everything after the last flit that the other side accepted is sent again, which each flit counts (R334, R336). -/
def replayFrom (l : Link) (now ack : Nat) : Link :=
  let left := l.replay.filter (fun f => (ack + 4096 - f.1) % 4096 ≥ 2048)
  { l with
    replay := left.map (fun f => (f.1, { f.2 with tries := f.2.tries + 1 })), wire := l.wire ++ left.map (fun f => flitBytes l f.2.kind f.1 f.2.ch f.2.payload)
    lastNak := some ack, nakUntil := now + (left.length + flitRate l - 1) / flitRate l, flits := mset 0 l.flits 2 (mget 0 l.flits 2 + left.length) }

/-- Some flit has been resent 16 times without acknowledgement (R336). -/
def resentOut (l : Link) : Bool := l.replay.any (fun f => 16 ≤ f.2.tries)

/-- An ACK covers the flits up to it, and a credit count of a channel supersedes the one before (R334, R335). -/
def ackIn (l : Link) (ack cvc cc : Nat) : Link :=
  let left := l.replay.filter (fun f => (ack + 4096 - f.1) % 4096 ≥ 2048)
  { l with
    replay := left
    lastNak := if left.length < l.replay.length then none else l.lastNak
    ccount := if cvc < 20 then minsert l.ccount cvc cc else l.ccount }

/-- A NAK is acted on unless it repeats the ACK of a replay that has not passed yet (R334). -/
def nakIn (l : Link) (now ack : Nat) : Link := if l.lastNak == some ack && now < l.nakUntil then l else replayFrom l now ack

/-- One more flit has been seen; the lanes' error counts start again after 10^7 (R336). -/
def tallyFlit (l : Link) : Link :=
  let l := countFlit l 1
  if 10000000 ≤ l.seen + 1 then { l with seen := 0, errs := [] } else { l with seen := l.seen + 1 }

/-- The credits announced by a retrain mark (R335). -/
def markSizes (bs : List Byte) : Map Nat := (List.range 20).map (fun c => (c, max 1 (min 2048 (at_ bs (2 * c) 2))))

/-- Sent flits of each channel that no ACK covers: they are sent and counted again after a retrain, since the other side, whose mark's ACK covers what it has accepted, counts them then. -/
def unacked (l : Link) : Map Nat := l.replay.foldl (fun m f => mset 0 m f.2.ch (mget 0 m f.2.ch + 1)) []

/-- A retrain mark comes in at port `p`: the credits start again, and this side's mark goes out unless it began the retrain (R335, R336). -/
def markIn (p : Nat) (l : Link) (bs : List Byte) : Link :=
  let l' := { l with retraining := false, repair := none, sentOn := unacked l, ccount := [], freed := [], buf := markSizes bs }
  if l.retraining then l' else { l' with wire := l'.wire ++ [markFlit p l'] }

/-- Fields of a flit's overhead. -/
def ovOf (bs : List Byte) (hi lo : Nat) : Nat := fld (at_ bs 64 16) hi lo
/-- A flit's CRC is good. -/
def flitGood (bs : List Byte) : Bool := bs.length == 80 && crc32 (bs.take 76) == at_ bs 76 4

/-- FLIT_RECEIVE (R334, R335): flit `arg.bytes` comes in at port `arg.a`; a body or tail flit belongs to channel `arg.b`. -/
def execFlitReceive (s : State) : Host.Outcome State Fault Refusal :=
  let p := s.arg.a
  let bs := s.arg.bytes
  let l := tallyFlit (linkAt s p)
  let kind := ovOf bs 54 52
  let nak := fun (l : Link) => { l with wire := l.wire ++ [flitBytes l 5 0 31 []] }
  if !(portOn s p) || !l.up then .next s
  else if flitGood bs && kind == 7 then .next (setLink s p l)
  else if !(flitGood bs) then .next (setLink s p (nak l))
  else if kind == 6 then
    .next (pump (setLink s p (markIn p (ackIn l (ovOf bs 83 72) 31 0) bs)) p)
  else if kind == 5 then .next (pump (setLink s p (nakIn (ackIn l (ovOf bs 83 72) (ovOf bs 71 67) (ovOf bs 66 55)) s.clock (ovOf bs 83 72))) p)
  else if kind == 0 then .next (pump (setLink s p (ackIn l (ovOf bs 83 72) (ovOf bs 71 67) (ovOf bs 66 55))) p)
  else if ovOf bs 95 84 != l.rxSeq then .next (setLink s p (nak l))
  else
    let l := { ackIn l (ovOf bs 83 72) (ovOf bs 71 67) (ovOf bs 66 55) with rxSeq := (l.rxSeq + 1) % 4096 }
    let pay := bs.take 64
    let ch := if kind == 1 || kind == 4 then channelOf (parsePacket pay []) else s.arg.b
    let have_ := if kind == 1 || kind == 4 then pay else mget [] l.part ch ++ pay
    let l := { l with freed := minsert l.freed ch ((mget 0 l.freed ch + 1) % 4096) }
    if kind == 3 || kind == 4 then
      let s := pump (setLink s p { l with part := merase l.part ch }) p
      .next (packetIn s (parsePacket (have_.take 64) (have_.drop 64)))
    else .next (pump (setLink s p { l with part := minsert l.part ch have_ }) p)

/-- NAK_RECEIVE (R334): a NAK with ACK `arg.b` comes in at port `arg.a`. -/
def execNakReceive (s : State) : Host.Outcome State Fault Refusal := .next (setLink s s.arg.a (nakIn (linkAt s s.arg.a) s.clock (s.arg.b % 4096)))

/-- A link has not sent its counts for 4096 flit times (R335). -/
def refreshDue (s : State) (l : Link) : Bool := l.up && !l.retraining && l.refreshAt + 4096 / flitRate l ≤ s.clock

/-- CREDIT_REFRESH (R335): port `arg.a` sends each channel's freed count in an idle flit. -/
def execCreditRefresh (s : State) : Host.Outcome State Fault Refusal :=
  let l := linkAt s s.arg.a
  .next (setLink s s.arg.a (if portOn s s.arg.a && l.up && !l.retraining then { l with refreshAt := s.clock, wire := l.wire ++ (List.range 20).map (fun c => flitBytes l 0 0 c []) } else l))

/-- The LINKREPAIR record (R352). -/
def linkRecord (s : State) (port lane errs : Nat) (narrow died : Bool) : State :=
  postRec s { typ := 0x85, detail := BitVec.ofNat 64 (port + 32 * lane + (if narrow then 512 else 0) + (if died then 1024 else 0) + 2 ^ 32 * errs) } .nobody

/-- A link dies (R337): its flits and partial packets are discarded, a LOSS goes out for every packet whose header was kept, and packets not yet begun
take another route. -/
def linkDies (s : State) (port lane errs : Nat) : State :=
  let l := linkAt s port
  if !l.up then s
  else
    let begun := fun (f : OutFlit) => f.kind == 2 || f.kind == 3
    let lost := ((l.replay.map (fun f => f.2.pkt)) ++ ((l.outq.filter (fun f => begun f &&
      !(l.outq.any (fun g => g.kind == 1 && g.pkt == f.pkt)))).map (fun f => f.pkt))).eraseDups
    let whole := (l.outq.filter (fun f => f.kind == 1 || f.kind == 4)).map (fun f => f.pkt)
    let s := setLink s port { l with up := false, replay := [], outq := [], part := [], retraining := false, repair := none }
    let s := linkRecord s port lane errs l.narrow true
    let s := (lost.flatMap (lossOf s)).foldl (fun s n => (routePacket s n).getD s) s
    whole.foldl sendPlain s

/-- A link that is to be repaired has come to rest: the replay under way has passed, and the flit that was the oldest unacknowledged one is acknowledged (R336). -/
def repairReady (s : State) (l : Link) : Bool :=
  match l.repair with
  | some (_, _, q) => l.up && !l.retraining && decide (l.nakUntil ≤ s.clock) && (match q with | some n => l.replay.all (fun f => f.1 != n) | none => true)
  | none => false

/-- A link at rest retrains: the spare lane takes the failing lane's traffic, or the link narrows. It resumes with marks (R336). -/
def retrainLink (s : State) (p : Nat) : State :=
  let l := linkAt s p
  match l.repair with
  | none => s
  | some (lane, n, _) =>
    let l' := { l with repair := none, spareUsed := true, narrow := l.spareUsed, retraining := true, retrainAt := s.clock }
    linkRecord (setLink s p { l' with wire := l'.wire ++ [markFlit p l'] }) p lane n l.spareUsed false

/-- A lane of a link has counted more errors than the threshold: the link sends no new flit from now on and is repaired once it has come to rest; on 4 lanes it dies (R336). -/
def repairLane (s : State) (p lane n : Nat) : State :=
  let l := linkAt s p
  if l.spareUsed && l.narrow then linkDies s p lane n
  else
    let l' := { l with errs := merase l.errs lane, repair := some (lane, n, l.replay.head?.map (fun f => f.1)) }
    let s := setLink s p l'
    if repairReady s l' then retrainLink s p else s

/-- LINK_LANE_REPAIR (R336): lane `arg.b` of port `arg.a` has met `arg.c` more symbol errors, and is repaired when it exceeds the threshold of 16 in 10^7 flits. A link that awaits its
repair and has come to rest retrains. -/
def execLinkLaneRepair (s : State) : Host.Outcome State Fault Refusal :=
  let l := linkAt s s.arg.a
  let n := mget 0 l.errs s.arg.b + s.arg.c
  if !l.up then .next s
  else if l.repair.isSome && s.arg.c == 0 then .next (if repairReady s l then retrainLink s s.arg.a else s)
  else
    let s := setLink s s.arg.a { l with errs := minsert l.errs s.arg.b n }
    .next (if n ≤ 16 || l.repair.isSome || l.retraining then s else repairLane s s.arg.a s.arg.b n)

/-- LINK_RETRAIN_TIMEOUT (R336): a retrain of port `arg.a` has taken more than 2 µs. -/
def execLinkRetrainTimeout (s : State) : Host.Outcome State Fault Refusal :=
  let l := linkAt s s.arg.a
  if l.retraining && l.retrainAt + us 2 < s.clock then .next (linkDies s s.arg.a 0 0) else .next s

/-- FLIT_RESEND_LIMIT (R336): a flit of port `arg.a` has been resent 16 times without acknowledgement. -/
def execFlitResendLimit (s : State) : Host.Outcome State Fault Refusal :=
  if resentOut (linkAt s s.arg.a) then .next (linkDies s s.arg.a 0 0) else .next s

end Sys2Proof.Machine
end

