-- ==== Sys2Proof/Machine/Ferry.lean ====
section
/-! DEFINITION. The ferry engine: QSEND, QRECV, QTRY, growth into overflow and cyclic waits (R376 to R386). -/

namespace Sys2Proof.Machine

/-- A ferry. -/
def ferryAt (s : State) (n : Nat) : Ferry := mget {} s.ferries n
/-- Elements held, as COUNT gives them (R380). -/
def ferryCount (f : Ferry) : Nat := min (2 ^ 24 - 1) f.elems.length
/-- The status word (R380): code 0 OK, 1 EMPTY, 2 FULL, 3 CLOSED. -/
def ferryStatus (code count : Nat) : Word := BitVec.ofNat 32 (2 ^ 31 + code * 2 ^ 28 + count)
/-- A ferry has room for an element (R380). -/
def ferryRoom (f : Ferry) : Bool := f.elems.length < f.cap + f.granted
/-- The ferry is closed (R386). -/
def ferryClosed (f : Ferry) : Bool := !f.en && f.everClosed
/-- Replace a ferry. -/
def setFerry (s : State) (n : Nat) (q : Ferry) : State := { s with ferries := minsert s.ferries n q }

/-! ## Elements (R376, R378, R381) -/

/-- The lowest place of the overflow area that holds no element; which one an element takes is a DESIGN CHOICE (log entry 30). -/
def overflowPlace (q : Ferry) : Option Nat :=
  ((List.range (min q.ovcap (q.elems.length + 1))).map (fun i => q.ovbase + i * q.esize)).find? (fun a => !(q.elems.any (fun e => e.at_ == some a)))

/-- Where element `i` in order lies: the oldest on chip, the others in the overflow area, which is physical memory (R376, R378). -/
def layElem (s : State) (q : Ferry) (i : Nat) (e : FElem) : State × FElem :=
  match e.at_ with
  | some a => (s, if i < q.cap then { e with bytes := rdB s a q.esize, at_ := none } else e)
  | none =>
    match (if i < q.cap then none else overflowPlace q) with
    | none => (s, e)
    | some a => ((pwrite s a e.bytes).1, { e with bytes := [], at_ := some a })

/-- Lay a ferry's elements out anew and replace the ferry: the oldest overflow elements move into slots that are free (R378). -/
def layFerry (s : State) (n : Nat) (q : Ferry) : State :=
  let r := q.elems.zipIdx.foldl (fun (r : State × Ferry) (e : FElem × Nat) =>
    let l := layElem r.1 r.2 e.2 e.1
    (l.1, { r.2 with elems := r.2.elems.set e.2 l.2 })) (s, q)
  setFerry r.1 n r.2

/-- A ferry accepts an element, which takes the next SEQ (R378). -/
def ferryPut (s : State) (n : Nat) (e : FElem) : State :=
  let q := ferryAt s n
  layFerry (count s 5362 1) n { q with elems := q.elems ++ [e], accepted := q.accepted + 1, lastMove := s.clock }

/-- A ferry's oldest element is taken (R378); the granted overflow falls to zero when none is left (R381). -/
def ferryDrop (s : State) (n : Nat) : State :=
  let q := ferryAt s n
  layFerry (count s 5363 1) n { q with elems := q.elems.tail, granted := if q.elems.tail.isEmpty then 0 else q.granted, lastMove := s.clock }

/-- The element that a crew sends from offset `off` of its team's scratchpad, with the stamp of its lowest active lane (R380, R384). -/
def ferryElem (s : State) (c : Crew) (q : Ferry) (off : Nat) : FElem :=
  { bytes := scB (teamAt s c.teamKey) off q.esize, stamp := stampOf c (lowest c.exm), seq := q.accepted }

/-- What a send on a fabric ferry waits for: the write-combining lines of its isle (R383). -/
def fabricDrain (s : State) (q : Ferry) (c : Crew) : State := if q.fabric then drainLines s (isleOf c.gcrew) (fun _ => true) else s

/-! ## Parked crews (R382) -/

/-- What a ferry did for this crew, which is parked at its PC and has not issued since, and which ferry: the one that its registers named then, whatever they name now (R124). -/
def turnOf (s : State) (k : Nat) (pc : BitVec 56) (send : Bool) : Option (Nat × FTurn) :=
  s.ferries.findSome? (fun q => (q.2.turns.find? (fun t => t.crew == k && t.pcAt == pc && t.send == send)).map (fun t => (q.1, t)))

/-- The ferry that a crew is parked on, whether it sends, and its element's offset. -/
def ferryWait (s : State) (k : Nat) (c : Crew) : Option (Nat × Bool × Nat) :=
  if c.wait != .atIssue .ferry then none
  else match (fetchAt s c c.pc).2 with
    | .good f =>
      let w := match f.instr with
        | .qsend q => some ((sget c q.p1.toNat).toNat, true, (sget c q.p2.toNat).toNat)
        | .qrecv q => some ((sget c q.p1.toNat).toNat, false, (sget c q.p2.toNat).toNat)
        | _ => none
      w.filter (fun w => (turnOf s k c.pc w.2.1).isNone)
    | _ => none

/-- A resident crew parked on ferry `n` that the ferry may serve. -/
def servable (s : State) (n : Nat) (send : Bool) (k : Nat) (c : Crew) : Bool :=
  let q := ferryAt s n
  !c.saved && c.part == (if send then q.prod else q.cons) &&
  (ferryWait s k c).any (fun w => w.1 == n && w.2.1 == send && w.2.2 + q.esize ≤ (teamAt s c.teamKey).size)

/-- The parked sender or receiver of a ferry that is served next: the one that parked first, the lowest `gcrew` among equals. -/
def longestParked (s : State) (n : Nat) (send : Bool) : Option (Nat × Crew) :=
  least (fun (p : Nat × Crew) => p.2.parkedAt * 2 ^ 32 + p.2.gcrew.toNat) (s.crews.filter (fun p => servable s n send p.1 p.2))

/-- Note that a ferry has served a parked crew. Where an element moved, its ENGINE packet is written (R410). -/
def giveTurn (s : State) (n : Nat) (p : Nat × Crew) (send : Bool) (e : Option FElem) (code count : Nat) : State :=
  let q := ferryAt s n
  let off := ((ferryWait s p.1 p.2).map (fun w => w.2.2)).getD 0
  let w := ferryStatus code count
  let s := setFerry s n { q with turns := q.turns ++ [{ crew := p.1, send := send, pcAt := p.2.pc, off := off, status := w, elem := e }] }
  match e with
  | some e => traceEngine s p.1 (if send then 5 else 6) w e.stamp n
  | none => s

/-- The home serves the crews parked on ferry `n`: a receiver takes the oldest element, a sender's element is accepted where there is room, until neither can be (R382). -/
def serveFerry (n : Nat) : Nat → State → State
  | 0, s => s
  | m + 1, s =>
    let q := ferryAt s n
    match q.elems.head?, longestParked s n false with
    | some e, some p =>
      let t := ferryDrop s n
      serveFerry n m (giveTurn t n p false (some e) 0 (ferryCount (ferryAt t n)))
    | _, _ =>
      match (if q.en && ferryRoom q then longestParked s n true else none) with
      | none => s
      | some p =>
        let e := ferryElem s p.2 q (((ferryWait s p.1 p.2).map (fun w => w.2.2)).getD 0)
        let t := ferryPut (fabricDrain s q p.2) n e
        serveFerry n m (giveTurn t n p true (some e) 0 (ferryCount (ferryAt t n)))

/-- Every crew that can be served is. -/
def serveAll (s : State) (n : Nat) : State := serveFerry n (2 * s.crews.length) s

/-- The home serves the ferry that crew `k`, which is back, is parked on (R255, R382). -/
def ferryBack (s : State) (k : Nat) : State :=
  match ferryWait s k (crewAt s k) with
  | some w => serveAll s w.1
  | none => s

/-- A crew that is over is no longer served. -/
def dropTurns (s : State) (k : Nat) : State :=
  { s with ferries := s.ferries.map (fun q => (q.1, { q.2 with turns := q.2.turns.filter (fun t => t.crew != k) })) }

/-! ## The instructions (R379, R380, R383) -/

/-- The ferry number that P1 gives. -/
def ferryNum (x : Ctx) (f : QF) : Nat := (sget x.c f.p1.toNat).toNat
/-- The element's offset that P2 gives. -/
def ferryOff (x : Ctx) (f : QF) : Nat := (sget x.c f.p2.toNat).toNat

/-- The checks of R379 after those of R131. -/
def ferryBad (x : Ctx) (f : QF) (send : Bool) (s : State) : Option TrapReq :=
  let n := ferryNum x f
  let off := ferryOff x f
  let q := ferryAt s n
  if off % 4 != 0 then some (trapAt x 0x05 (BitVec.ofNat 64 off))
  else if 1024 ≤ n || !(q.en || q.everClosed) || x.c.part != (if send then q.prod else q.cons) then some (trapAt x 0x13 (BitVec.ofNat 64 n))
  else if (teamAt s x.c.teamKey).size < off + q.esize then some (trapAt x 0x13 (BitVec.ofNat 64 off))
  else none

/-- A send finds room, or a receive an element. -/
def ferryServes (q : Ferry) (send : Bool) : Bool := if send then ferryRoom q else !q.elems.isEmpty

/-- What a ferry did for the crew while it was parked. -/
def ferryTurn (x : Ctx) (send : Bool) (s : State) : Option (Nat × FTurn) := turnOf s x.k x.pc send

/-- The waits of a ferry instruction: the token in a strict launch, then its turn (R382). -/
def ferryHold (f : QF) (send try_ : Bool) (x : Ctx) (s : State) : Option WaitKind :=
  let q := ferryAt s (ferryNum x f)
  if x.c.strict && !(holdsToken s x.c) then some .token
  else if try_ || (ferryTurn x send s).isSome || (ferryBad x f send s).isSome || ferryClosed q || ferryServes q send then none
  else some .ferry

/-- A status word returns (R126). -/
def ferryResult (s : State) (x : Ctx) (d : Nat) (ws : List Word) : State :=
  updCrew s x.k (fun c => addPend c
    { id := x.id, kind := .status, ready := true, drains := true, targets := ws.zipIdx.map (fun w => { file := .scalar, idx := d + w.2, lane := 0, val := w.1 }) })

/-- What the crew of a receive has: the element's bytes, its status word, SEQ and stamp (R380, R384). -/
def recvResult (s : State) (x : Ctx) (f : QF) (off : Nat) (w : Word) (e : FElem) : State :=
  let s := barTouch (scW s x.c.teamKey off e.bytes) x.c.teamKey [(off, e.bytes.length)]
  ferryResult s x f.d.toNat [w, e.seq, loWord e.stamp, hiWord e.stamp]

/-- Accept an element, with its ENGINE packet, and serve who is parked (R378, R380, R382, R383, R384, R410). -/
def ferrySend (x : Ctx) (f : QF) (s : State) : State :=
  let n := ferryNum x f
  let q := ferryAt s n
  let e := { ferryElem s x.c q (ferryOff x f) with stamp := stampOf x.c (lowest x.m) }
  let s := ferryPut (fabricDrain s q x.c) n e
  let w := ferryStatus 0 (ferryCount (ferryAt s n))
  ferryResult (serveAll (traceEngine s x.k 5 w e.stamp n) n) x f.d.toNat [w]

/-- Take the oldest element, with its ENGINE packet, and serve who is parked (R378, R380, R382, R384, R410). -/
def ferryRecv (x : Ctx) (f : QF) (s : State) : State :=
  let n := ferryNum x f
  match (ferryAt s n).elems with
  | [] => s
  | e :: _ =>
    let s := ferryDrop s n
    let w := ferryStatus 0 (ferryCount (ferryAt s n))
    recvResult (serveAll (traceEngine s x.k 6 w e.stamp n) n) x f (ferryOff x f) w e

/-- A crew that was parked has what its ferry did for it (R382, R386). -/
def ferryHas (x : Ctx) (f : QF) (n : Nat) (t : FTurn) (s : State) : State :=
  let q := ferryAt s n
  let s := setFerry s n { q with turns := q.turns.erase t }
  match t.elem with
  | none => ferryResult s x f.d.toNat [t.status]
  | some e => if t.send then ferryResult s x f.d.toNat [t.status] else recvResult s x f t.off t.status e

/-- The effect of a ferry instruction: what a parked crew has; a trap, CLOSED, the element moved, or EMPTY or FULL for a QTRY (R380, R386). It holds its slot 1 + ceil(ESIZE / 128)
cycles (R379). -/
def ferryRun (f : QF) (send : Bool) (x : Ctx) (s : State) : Res :=
  let n := ferryNum x f
  let q := ferryAt s n
  let held := fun (s : State) => Res.done (holdSlot s x.k ((q.esize + 127) / 128))
  match ferryTurn x send s with
  | some t => held (ferryHas x f t.1 t.2 s)
  | none =>
    match ferryBad x f send s with
    | some r => .trap s r
    | none =>
      if ferryClosed q then held (ferryResult s x f.d.toNat [ferryStatus 3 0])
      else if !(ferryServes q send) then held (ferryResult s x f.d.toNat [ferryStatus (if send then 2 else 1) (ferryCount q)])
      else held (if send then ferrySend x f s else ferryRecv x f s)

/-- A ferry instruction. -/
def ferryCore (f : QF) (send try_ : Bool) : Core :=
  { uses := [useS f.p1 1 false, useS f.p2 1 false, useS f.d (if send then 1 else 4) true]
    counts := true
    hold := ferryHold f send try_
    run := ferryRun f send }

/-- QSEND (R380). -/
def coreQsend (f : QF) : Core := ferryCore f true false
/-- QSEND. -/
def execQsend (f : QF) (s : State) : Host.Outcome State Fault Refusal := issue (.qsend f) (coreQsend f) s

/-- QRECV (R380). -/
def coreQrecv (f : QF) : Core := ferryCore f false false
/-- QRECV. -/
def execQrecv (f : QF) (s : State) : Host.Outcome State Fault Refusal := issue (.qrecv f) (coreQrecv f) s

/-- QTRY, receiving (R380). -/
def coreQtryRecv (f : QF) : Core := ferryCore f false true
/-- QTRY_RECV. -/
def execQtryRecv (f : QF) (s : State) : Host.Outcome State Fault Refusal := issue (.qtryRecv f) (coreQtryRecv f) s

/-- QTRY, sending (R380). -/
def coreQtrySend (f : QF) : Core := ferryCore f true true
/-- QTRY_SEND. -/
def execQtrySend (f : QF) (s : State) : Host.Outcome State Fault Refusal := issue (.qtrySend f) (coreQtrySend f) s

/-! ## Growth and cycles (R381, R385) -/

/-- A ferry's granted overflow is to grow now. -/
def growDue (s : State) (n : Nat) : Bool :=
  let q := ferryAt s n
  q.en && q.granted < q.ovcap && q.cap ≤ q.elems.length &&
  s.crews.any (fun p => (ferryWait s p.1 p.2).any (fun w => w.1 == n && w.2.1) && max p.2.parkedAt q.growAt + us 2 ≤ s.clock)

/-- FERRY_OVERFLOW_GROW (R381): some sender has stayed parked on ferry `arg.a` for 2 µs since it parked and since the last growth. -/
def execFerryOverflowGrow (s : State) : Host.Outcome State Fault Refusal :=
  let n := s.arg.a
  let q := ferryAt s n
  let g := min q.ovcap (q.granted + 64)
  if growDue s n then .next (serveAll (count (setFerry s n { q with granted := g, growAt := s.clock }) 5364 (g - q.granted)) n) else .next s

/-- The waits of crews of partitions whose crews are all parked on ferries: waiting partition, the one waited on, and the ferry (R385). -/
def cycleEdges (s : State) : List (Nat × Nat × Nat) :=
  let ws := s.crews.map (fun q => (q.2.part, (ferryWait s q.1 q.2).map (fun w => (if w.2.1 then (ferryAt s w.1).cons else (ferryAt s w.1).prod, w.1))))
  let stuck := fun (p : Nat) => ws.any (fun w => w.1 == p) && ws.all (fun w => w.1 != p || w.2.isSome)
  ((ws.filterMap (fun w => w.2.map (fun e => (w.1, e)))).filter (fun e => stuck e.1 && stuck e.2.1)).eraseDups

/-- The ways from partition `p` back to `start` over partitions above `start`, none visited twice. -/
def cyclesFrom (es : List (Nat × Nat × Nat)) (start : Nat) : Nat → Nat → List Nat → List (List Nat)
  | 0, _, _ => []
  | n + 1, p, way =>
    (if es.any (fun e => e.1 == p && e.2.1 == start) then [way] else []) ++
    (((es.filter (fun e => e.1 == p && start < e.2.1 && !(way.contains e.2.1))).map (fun e => e.2.1)).eraseDups).flatMap
      (fun r => cyclesFrom es start n r (way ++ [r]))

/-- The ferries whose waits make a cycle of partitions. -/
def cycleFerries (es : List (Nat × Nat × Nat)) (way : List Nat) : List Nat :=
  let next := way.tail ++ way.take 1
  (es.filter (fun e => (way.zip next).contains (e.1, e.2.1))).map (fun e => e.2.2)

/-- The true cyclic waits: the partitions of each as a mask, and its lowest ferry (R385). -/
def ferryCycles (s : State) : List (Nat × Nat) :=
  let es := cycleEdges s
  let true_ := fun (n : Nat) => let q := ferryAt s n; (ferryRoom q || q.ovcap ≤ q.granted) && (q.lastMove == 0 || q.lastMove + us 1000 ≤ s.clock)
  ((List.range 16).flatMap (fun p => cyclesFrom es p 16 p [p])).filterMap (fun way =>
    let fs := cycleFerries es way
    if fs.all true_ then (least id fs).map (fun f => (way.foldl (fun m p => m ||| 2 ^ p) 0, f)) else none)

/-- CHANCYCLE_DETECT (R385): each true cyclic wait that has no record yet writes one. -/
def execChancycleDetect (s : State) : Host.Outcome State Fault Refusal :=
  let cs := ferryCycles s
  .next ((cs.filter (fun c => !(s.cycleRec.contains c))).foldl (fun s c => postRec s
    { typ := 0x83, part := ((List.range 16).find? (fun p => c.1.testBit p)).getD 0, detail := BitVec.ofNat 64 (c.1 + 65536 * c.2) } .nobody) { s with cycleRec := cs })

end Sys2Proof.Machine
end

