-- ==== Sys2Proof/Machine/Tide.lean ====
section
/-! DEFINITION. The tide engine: EVPOST, EVCAN, EVEND, EVKEY, the shoal store, spans and rounds (R304 to R328). -/

namespace Sys2Proof.Machine

/-! ## Keys, handles and homes (R307 to R310) -/

/-- The order of events: the 120-bit key, then the order of storing (R307, R308). -/
def evKey (e : EvRec) : Nat := (e.time * 2 ^ 56 + e.tail) * 2 ^ 64 + e.order

/-- A handle (R309). -/
def mkHandle (dev : BitVec 12) (shelf slot gen : Nat) : Nat := dev.toNat * 2 ^ 52 + shelf * 2 ^ 48 + slot * 2 ^ 20 + gen

/-- The shelf whose stack holds the HBM4 page that an address maps, whatever access the page allows (R38, R310). -/
def placeShelf (s : State) (part va : Nat) : Option Nat :=
  match mfind s.parts part with
  | none => none
  | some p =>
    match walkAt s (lowWater s) va walkLevels 0 p.root with
    | .leaf e size =>
      let pa := (leafPg e size va).pa va
      if isHbm pa then some (stackOf pa) else none
    | _ => none

/-- The home shelf of an event (R310). -/
def homeShelf (s : State) (part placeAddr tail : Nat) : Nat :=
  match (if placeAddr == 0 || 2 ^ 56 ≤ placeAddr then none else placeShelf s part placeAddr) with
  | some sh => sh
  | none => (fld tail 23 8 + fld tail 7 0) % 16

/-- The timeline of a launch. -/
def timeAt (s : State) (lid : Nat) : Timeline := mget {} s.timelines lid
/-- Update a timeline. -/
def updTime (s : State) (lid : Nat) (g : Timeline → Timeline) : State := { s with timelines := mmodify s.timelines lid g }
/-- The shoal of a shelf. -/
def shoalAt (t : Timeline) (sh : Nat) : Shoal := mget {} t.shoals sh
/-- Update a shoal. -/
def updShoal (s : State) (lid sh : Nat) (g : Shoal → Shoal) : State :=
  updTime s lid (fun t => { t with shoals := minsert t.shoals sh (g (shoalAt t sh)) })

/-- A communicator slot. -/
def commAt (s : State) (n : Nat) : Comm := mget {} s.comms n
/-- Update a slot. -/
def updComm (s : State) (n : Nat) (g : Comm → Comm) : State := { s with comms := mmodify s.comms n g }
/-- The other ranks, from rank + 1 upwards, wrapping (R367). -/
def otherRanks (c : Comm) : List Nat := (List.range (c.n - 1)).map (fun i => (c.rank + 1 + i) % c.n)

/-- The communicator that carries the reductions of a launch's group (R393). -/
def tideSlot (s : State) (lid : Nat) : Nat := (mget {} s.launches lid).desc.tlcomm
/-- The reduction that a timeline's group makes next: it starts the span after this one, or ends this round (log entry 26). -/
def tideKey (t : Timeline) : Nat := 2 * (16 * t.span + t.round) + (if t.open_ then 1 else 0)
/-- This member has given its value to a reduction. -/
def tideGave (c : Comm) (key : Nat) : Bool := c.tideIn.any (fun v => v.1 == key && v.2.1 == c.rank)
/-- A span is under way: it is open, or this member of a group has given its value to the reduction that starts it (R313, R328). -/
def spanBegun (s : State) (lid : Nat) (t : Timeline) : Bool := t.open_ || (1 < t.n && tideGave (commAt s (tideSlot s lid)) (tideKey t))

/-- Base-2 logarithm, rounded up. -/
def ceilLog2 (n : Nat) : Nat := if n ≤ 1 then 0 else Nat.log2 (n - 1) + 1
/-- Bucket width of a launch (R311). -/
def bucketW (d : Desc) : Nat := if d.expert.getLsbD 3 then d.w else min 40 (ceilLog2 d.lookahead - 6)
/-- An event lies within the ring's 4,096 buckets (R311). -/
def inRing (d : Desc) (sh : Shoal) (time : Nat) : Bool := time / 2 ^ bucketW d < sh.b0 + 4096

/-- The 64 bytes of an event record (R306). -/
def evBytes (e : EvRec) : List Byte :=
  natBytes 8 e.time ++ natBytes 8 e.tail ++
  natBytes 8 (e.gen * 2 ^ 32 + e.uflags * 2 ^ 24 + (if e.host then 2 ^ 18 else 0) + (if e.remote then 2 ^ 17 else 0) + (if e.nohandle then 2 ^ 16 else 0) +
    e.handler) ++ natBytes 8 e.placeAddr ++ padTo 32 e.payload

/-! ## Storing an event (R309 to R312) -/

/-- Record numbers in use on a shelf: events not spilled, and gathered ones that have not ended. -/
def recsUsed (t : Timeline) (sh : Nat) : List Nat :=
  (((shoalAt t sh).evs.filter (fun e => e.place != 2)).map (fun e => e.recIx)) ++
  ((t.table.filter (fun r => r.shelf == sh && !r.ended && !r.spilled)).map (fun r => r.recIx))
/-- Places in use in a shelf's spill area. -/
def spillUsed (t : Timeline) (sh : Nat) : List Nat :=
  (((shoalAt t sh).evs.filter (fun e => e.place == 2)).map (fun e => e.recIx)) ++
  ((t.table.filter (fun r => r.shelf == sh && !r.ended && r.spilled)).map (fun r => r.recIx))

/-- The slot that a post would take: the lowest FREE entry, else the lowest RETIRED or CANCELLED one (R309). -/
def pickSlot (sh : Shoal) : Option Nat :=
  let n := firstFree (sh.tab.map (fun p => p.1)) (sh.tab.length + 1) 0
  if n < sh.slots then some n
  else (sh.tab.find? (fun p => p.2.1 == .retired || p.2.1 == .cancelled)).map (fun p => p.1)

/-- Write an event's record. -/
def writeRec (s : State) (part : Nat) (sh : Shoal) (e : EvRec) : State :=
  (vwriteAll s { part := part } ((if e.place == 2 then sh.spillBase else sh.base) + 64 * e.recIx) (evBytes e)).1

/-- Free one record of a full area by spilling the far-list event of latest time (R312). -/
def spillOne (s : State) (lid sh : Nat) : Option State :=
  let l := mget {} s.launches lid
  let t := timeAt s lid
  let shoal := shoalAt t sh
  let ix := firstFree (spillUsed t sh) ((spillUsed t sh).length + 1) 0
  match least (fun e => 2 ^ 200 - evKey e) (shoal.evs.filter (fun e => e.place == 1)) with
  | none => none
  | some e =>
    if !(modeBit s l.part 1) || shoal.spillSize < 64 * (ix + 1) then none
    else
      let e' := { e with place := 2, recIx := ix }
      some (writeRec (updShoal s lid sh (fun h => { h with evs := h.evs.map (fun x => if x == e then e' else x) })) l.part shoal e')

/-- Pending events of the device, in records and spill areas. -/
def pendingAll (s : State) : Nat := s.timelines.foldl (fun n p => p.2.shoals.foldl (fun n h => n + h.2.evs.length) n) 0

/-- Store an event on its home shelf, with a slot unless it has no handle; `none` when the shelf has no record or no slot for it, or the device holds 2^34 pending events (R312). -/
def storeEvent (s : State) (lid sh : Nat) (e : EvRec) : Option (State × Nat) :=
  let l := mget {} s.launches lid
  let full := fun (s : State) => (shoalAt (timeAt s lid) sh).recs ≤ (recsUsed (timeAt s lid) sh).length
  let slot := if 2 ^ 34 ≤ pendingAll s then none else if e.nohandle then some 0 else pickSlot (shoalAt (timeAt s lid) sh)
  match slot, (if full s then spillOne s lid sh else some s) with
  | some slot, some s =>
    let t := timeAt s lid
    let shoal := shoalAt t sh
    let used := recsUsed t sh
    let ix := firstFree used (used.length + 1) 0
    let old := match mfind shoal.tab slot with | some x => x.2 | none => 0
    let gen := if e.nohandle then 0 else if (old + 1) % 2 ^ 20 == 0 then 1 else (old + 1) % 2 ^ 20
    let e := { e with slot := slot, gen := gen, recIx := ix, order := t.order, place := if inRing l.desc shoal e.time then 0 else 1 }
    let s := updShoal s lid sh (fun h => { h with
      evs := h.evs ++ [e], tab := if e.nohandle then h.tab else minsert h.tab slot (.pending, gen) })
    let begun := spanBegun s lid t
    let s := updTime s lid (fun t => { t with order := t.order + 1, fresh := if e.host && begun then t.fresh ++ [e.order] else t.fresh })
    some (writeRec s l.part shoal e, if e.nohandle then 0 else mkHandle s.deviceId sh slot gen)
  | _, _ => none

/-- The EVCAP record (R312). -/
def evcapRecord (s : State) (c : Crew) (pc : BitVec 56) (shelf t : Nat) (ls pcm : Mask) (stamps : Map Dword) (o : RecOwner) : State :=
  postRec s
    { typ := 0x21, impr := true, gcrew := c.gcrew, lid := BitVec.ofNat 32 c.lid, part := c.part, addr := BitVec.ofNat 64 shelf, pc := pc.setWidth 64
      lanes := ls, pcm := pcm, stamp := stampIn stamps (lowest ls), detail := BitVec.ofNat 64 t } o

/-! ## EVPOST (R318 to R320) -/

/-- The row of a lane in the round table (R314). -/
def rowOf (t : Timeline) (pos L : Nat) : Option RoundLane := t.table.find? (fun r => r.pos == pos && r.lane == L)
/-- Change the row of a lane. -/
def updRow (s : State) (lid pos L : Nat) (g : RoundLane → RoundLane) : State :=
  updTime s lid (fun t => { t with table := t.table.map (fun r => if r.pos == pos && r.lane == L then g r else r) })

/-- A handler number names an entry that is not empty (R304). -/
def handlerOk (t : Timeline) (n : Nat) : Bool := (mfind t.handlers n).isSome

/-- The offending value of a lane's EVPOST that faults RANGE at issue (R320), for a device whose route entry is not VALID too (R330). -/
def postEarly (s : State) (t : Timeline) (c : Crew) (r L : Nat) : Option Nat :=
  let w2 := (vget c (r + 2) L).toNat
  let w3 := (vget c (r + 3) L).toNat
  let w5 := (vget c (r + 5) L).toNat
  if !(handlerOk t (w2 % 65536)) then some w2
  else if w3 / 4096 != 0 || !(t.members.contains (BitVec.ofNat 12 w3)) || !(routed s (BitVec.ofNat 12 w3)) then some w3
  else if w5 / 2 ^ 24 != 0 then some w5 else none

/-- How far an EVPOST has come: handles by lane, late causes with their `tva`, lanes that found no room with home shelf and time, and lanes sent away. -/
structure PostRun where
  s : State
  ok : List (Nat × Nat) := []
  late : List (Nat × Nat × Byte × Nat) := []
  cap : List (Nat × Nat × Nat) := []
  away : List Nat := []

/-- The child index of a lane's next post: one that a faulted post gave back, else its counter (R319). -/
def childOf (r : RoundLane) : Nat := (least id r.back).getD r.child
/-- The lane has taken its next child index. -/
def takeChild (r : RoundLane) : RoundLane := if r.back.isEmpty then { r with child := r.child + 1 } else { r with back := r.back.erase (childOf r) }

/-- The event that a lane posts, before it is stored (R318, R319). -/
def postEvent (t : Timeline) (c : Crew) (f : QF) (row : RoundLane) (L : Nat) (remote : Bool) : EvRec :=
  let r := f.p1.toNat
  let w2 := (vget c (r + 2) L).toNat
  { time := (vget2 c r L).toNat
    tail := fld w2 23 16 * 2 ^ 48 + t.span * 2 ^ 28 + t.round * 2 ^ 24 + row.ordinal % 65536 * 256 + childOf row % 256
    handler := w2 % 65536, uflags := w2 / 2 ^ 24, placeAddr := fld (vget2 c (r + 4) L).toNat 55 0, host := false, remote := remote, nohandle := f.sub == 1
    slot := 0, gen := 0, payload := (List.range 8).flatMap (fun k => natBytes 4 (vget c (f.p2.toNat + k) L).toNat), recIx := 0, order := 0, place := 0 }

/-- Post for one lane that passed its checks at issue (R319). A remote post leaves as an EVPOST packet. -/
def postLane (x : Ctx) (f : QF) (a : PostRun) (L : Nat) : PostRun :=
  let s := a.s
  let lid := x.c.lid
  let t := timeAt s lid
  match rowOf t x.c.team.toNat L with
  | none => a
  | some row =>
    let dev := BitVec.ofNat 12 (vget x.c (f.p1.toNat + 3) L).toNat
    let e := postEvent t x.c f row L (dev != s.deviceId)
    if e.time < row.time then { a with late := a.late ++ [(L, 0, 0x20, e.time)] }
    else if 256 ≤ childOf row then { a with late := a.late ++ [(L, 1, 0x13, e.time)] }
    else
      let took := fun (s : State) => updRow s lid x.c.team.toNat L takeChild
      if dev == s.deviceId then
        let sh := homeShelf s x.c.part e.placeAddr e.tail
        match storeEvent s lid sh e with
        | some q => { a with s := took q.1, ok := a.ok ++ [(L, q.2)] }
        | none => { a with cap := a.cap ++ [(L, sh, e.time)] }
      else
        let tag := (freeTags s (isleOf x.c.gcrew) 1).headD 0
        let s := took s
        let r := { reqOf x s .evpost tag dev with
          lanes := [(L, 0)], regD := f.d.toNat, sub := f.sub.toNat, addr := 256 * x.c.team.toNat + childOf row, stamp := stampOf x.c L
          operands := [(L, BitVec.ofNat 64 e.time)] }
        let job := (launchOf s x.c).desc.job
        { a with
          s := sendPacket { s with reqs := s.reqs ++ [r] } { mkPkt s 6 0 dev with
            slot := BitVec.ofNat 16 job, opx := f.sub, stamp := stampOf x.c L, tag := BitVec.ofNat 16 tag, key := keyOf s x.c, len := 64, data := evBytes e }
          away := a.away ++ [L] }

/-- Lanes of an EVPOST that go to another device need request entries (R319). -/
def postHold (x : Ctx) (f : QF) (s : State) : Option WaitKind :=
  let n := ((lanes x.m).filter (fun L => (vget x.c (f.p1.toNat + 3) L).toNat != s.deviceId.toNat)).length
  if x.c.strict && !(holdsToken s x.c) then some .token
  else if (freeTags s (isleOf x.c.gcrew) n).length < n then some .memory else none

/-- Hold the late fault of an EVPOST (R320); EVCAP stays apart, since it parks the crew (R312). -/
def postFault (s : State) (x : Ctx) (ret : Bool) (pcm : Mask) (cause : Byte) (tva : Nat) (ls : List (Nat × Nat)) : State :=
  updCrew s x.k (fun c => { c with held := c.held ++
    [{ addr := x.pc, next := x.nx, cause := cause, tva := BitVec.ofNat 64 tva, tmask := x.m, pcm := pcm, seq := x.id, depth := c.tdepth.toNat
       returning := ret, due := !ret, lanes := ls, stamps := x.c.stamp }] })

/-- EVPOST with and without a handle (R318 to R320). DESIGN CHOICE (log entry 51): EVCAP of lanes with different home shelves is one fault, whose record names the shelf of the lowest of
them (R312). -/
def evpostCore (f : QF) (nh : Bool) : Core :=
  { illop := fun c _ => !c.timeline
    uses := [{ file := .vector, idx := f.p1.toNat, n := 6, al := 4 }, useV f.p2 8 false] ++ (if nh then [] else [useV f.d 2 true])
    counts := true
    hold := fun x s => postHold x f s
    run := fun x s =>
      let t := timeAt s x.c.lid
      let early := (lanes x.m).filterMap (fun L => (postEarly s t x.c f.p1.toNat L).map (fun v => (L, v)))
      let r := (lanes (x.m &&& ~~~(lanesMask early))).foldl (postLane x f) { s := s }
      let pcm := x.m &&& ~~~(lanesMask early) &&& ~~~(lanesMask r.late) &&& ~~~(lanesMask r.cap)
      let s := if nh then (if r.away.isEmpty then r.s else addCounted r.s x)
        else
          let now := r.ok.flatMap (fun p => [(p.1, 0, p.2 % 2 ^ 32), (p.1, 1, p.2 / 2 ^ 32)])
          let ts : List PTarget := now.map (fun p => { file := .vector, idx := f.d.toNat + p.2.1, lane := p.1, val := BitVec.ofNat 32 p.2.2 })
          let us : List PTarget := r.away.flatMap (fun L => [0, 1].map (fun k => { file := .vector, idx := f.d.toNat + k, lane := L, val := 0 }))
          let s := if ts.isEmpty && r.away.isEmpty then r.s
            else updCrew r.s x.k (fun c => addPend c { id := x.id, kind := .memory, ready := r.away.isEmpty, drains := true, targets := ts ++ us })
          if r.away.isEmpty then s else landPend s x.k x.id (fun t => !(r.away.contains t.lane)) (fun t => some t.val)
      let home := match r.cap with | (_, sh, _) :: _ => sh | [] => 0
      let s := if r.cap.isEmpty then s else postFault s x (!nh) pcm 0x21 home (r.cap.map (fun p => (p.1, p.2.2)))
      match early with
      | e :: _ => .trap s { trapAt x 0x13 (BitVec.ofNat 64 e.2) with pcm := pcm }
      | [] =>
        match least (fun (p : Nat × Nat × Byte × Nat) => 64 * p.2.1 + p.1) r.late with
        | some p => .done (postFault s x (!nh) pcm p.2.2.1 p.2.2.2 (r.late.map (fun q => (q.1, q.2.2.2))))
        | none => .done s }

/-- EVPOST with a handle (R318). -/
def coreEvpost (f : QF) : Core := evpostCore f false
/-- EVPOST. -/
def execEvpost (f : QF) (s : State) : Host.Outcome State Fault Refusal := issue (.evpost f) (coreEvpost f) s

/-- EVPOST without a handle (R318). -/
def coreEvpostN (f : QF) : Core := evpostCore f true
/-- EVPOST_N. -/
def execEvpostN (f : QF) (s : State) : Host.Outcome State Fault Refusal := issue (.evpostN f) (coreEvpostN f) s

/-- An event read from the 64 bytes of a record; what the store fills is zero. -/
def evFrom (bs : List Byte) : EvRec :=
  let m := at_ bs 16 8
  { time := at_ bs 0 8, tail := fld (at_ bs 8 8) 55 0, handler := m % 65536, uflags := fld m 31 24, placeAddr := at_ bs 24 8, host := fld m 18 18 == 1
    remote := fld m 17 17 == 1, nohandle := fld m 16 16 == 1, slot := 0, gen := 0, payload := (bs.drop 32).take 32, recIx := 0, order := 0, place := 0 }

/-- EVPOST_PACKET (R319): the event in packet `arg.pkt` is stored at its home shelf, and the handle, or EVCAP with the home shelf, is returned. One that names an empty entry of this
device's handler table is not stored (R304) and returns RANGE. -/
def execEvpostPacket (s : State) : Host.Outcome State Fault Refusal :=
  let k := s.arg.pkt
  match jobLaunch s k.slot.toNat with
  | none => .next (sendPacket s (replyTo s k 0x13 0x30 6 []))
  | some lid =>
    let e := evFrom k.data
    let sh := homeShelf s (mget {} s.launches lid).part e.placeAddr e.tail
    if !(handlerOk (timeAt s lid) e.handler) then .next (sendPacket s (replyTo s k 0x13 0x13 0 [])) else
    match storeEvent s lid sh e with
    | some q => .next (sendPacket q.1 (replyTo q.1 k 0x13 0 0 (natBytes 8 q.2)))
    | none => .next (sendPacket s (replyTo s k 0x13 0x21 0 (natBytes 8 sh)))

/-- EVREP (R319): reply `arg.pkt` returns the handle of a remote post, or its fault. -/
def execEvrep (s : State) : Host.Outcome State Fault Refusal :=
  let k := s.arg.pkt
  match reqAt s k.tag.toNat with
  | none => .next s
  | some r =>
    if r.kind != .evpost then .next s
    else if k.count == 0 then
      if r.sub == 1 then .next (dropReq s r.tag)
      else .next (landPend (dropReq s r.tag) r.crew r.pendId (laneOfReq r) (fun t => some (BitVec.ofNat 32 (at_ k.data (4 * (t.idx - r.regD)) 4))))
    else if k.count.toNat % 256 == 0x21 then
      let nh := r.sub == 1
      let m := lanesMask r.lanes
      let h : HeldFault :=
        { addr := r.pcAt, next := r.pcNext, cause := 0x21, tva := BitVec.ofNat 64 (at_ k.data 0 8), tmask := r.tmask, pcm := r.tmask &&& ~~~m, seq := r.seq
          depth := r.depth, returning := !nh, due := nh, lanes := r.operands.map (fun p => (p.1, p.2.toNat)), stamps := r.stamps }
      .next (landPend (lateFault (dropReq (giveBack s r) r.tag) r.crew h) r.crew r.pendId (laneOfReq r) (fun _ => none))
    else .next (reqFail s r (k.count.toNat % 256) (k.count.toNat / 256 % 256))

/-! ## EVCAN and EVKEY (R321, R322) -/

/-- Fields of a handle. -/
def hDev (h : Dword) : BitVec 12 := BitVec.ofNat 12 (fld h.toNat 63 52)
/-- The slot's state and generation when the handle is current. -/
def hState (s : State) (lid : Nat) (h : Dword) : SlotState :=
  match mfind (shoalAt (timeAt s lid) (fld h.toNat 51 48)).tab (fld h.toNat 47 20) with
  | some p => if p.2 == fld h.toNat 19 0 then p.1 else .free
  | none => .free

/-- Apply one cancel at the owner: the code (R321). -/
def cancelEvent (s : State) (lid : Nat) (h : Dword) : State × Nat :=
  let sh := fld h.toNat 51 48
  let slot := fld h.toNat 47 20
  match hState s lid h with
  | .pending =>
    (updShoal s lid sh (fun x => { x with
      evs := x.evs.filter (fun e => e.nohandle || e.slot != slot), tab := minsert x.tab slot (.cancelled, fld h.toNat 19 0) }), 0)
  | .current => (s, 1)
  | .retired => (s, 1)
  | _ => (s, 2)

/-- The handles that fault EVHANDLE (R321, R322). -/
def badHandles (s : State) (x : Ctx) (r : Nat) : List (Nat × LFault) :=
  (lanes x.m).filterMap (fun L =>
    let h := vget2 x.c r L
    if fld h.toNat 19 0 == 0 || !((timeAt s x.c.lid).members.contains (hDev h)) then some (L, ⟨0x22, h.toNat, true⟩) else none)

/-- The lanes of an EVCAN that fault at issue: EVHANDLE, or RANGE for a handle whose owner's route entry is not VALID (R321, R330). -/
def cancelBad (s : State) (x : Ctx) (r : Nat) : List (Nat × LFault) :=
  let far := (lanes (x.m &&& ~~~(lanesMask (badHandles s x r)))).filter (fun L => !(routed s (hDev (vget2 x.c r L))))
  badHandles s x r ++ far.map (fun L => (L, ⟨0x13, (vget2 x.c r L).toNat, true⟩))

/-- Cancel for one lane: the code goes with the lane; a foreign handle is forwarded to its owner. -/
def cancelLane (x : Ctx) (f : QF) (a : State × List (Nat × List Word)) (L : Nat) : State × List (Nat × List Word) :=
  let s := a.1
  let h := vget2 x.c f.p1.toNat L
  if hDev h == s.deviceId then
    let q := cancelEvent s x.c.lid h
    (q.1, a.2 ++ [(L, [BitVec.ofNat 32 q.2])])
  else
    let tag := (freeTags s (isleOf x.c.gcrew) 1).headD 0
    let r := { reqOf x s .evcan tag (hDev h) with lanes := [(L, 0)], stamp := stampOf x.c L, addr := h.toNat, operands := [(L, h)] }
    (sendPacket { s with reqs := s.reqs ++ [r] } { mkPkt s 7 0 (hDev h) with
      slot := BitVec.ofNat 16 (launchOf s x.c).desc.job, stamp := stampOf x.c L, tag := BitVec.ofNat 16 tag, key := keyOf s x.c, len := 8, data := natBytes 8 h.toNat },
     a.2 ++ [(L, [3])])

/-- EVCAN (R321). -/
def coreEvcan (f : QF) : Core := 
  { illop := fun c _ => !c.timeline
    uses := [useV f.p1 2 false, useV f.d 1 true]
    counts := true
    hold := fun x s =>
      let n := ((lanes x.m).filter (fun L => hDev (vget2 x.c f.p1.toNat L) != s.deviceId)).length
      if x.c.strict && !(holdsToken s x.c) then some .token
      else if (freeTags s (isleOf x.c.gcrew) n).length < n then some .memory else none
    run := fun x s =>
      let bad := cancelBad s x f.p1.toNat
      let r := (lanes (x.m &&& ~~~(lanesMask bad))).foldl (cancelLane x f) (s, [])
      settleFaults (if r.2.isEmpty then r.1 else addResult r.1 x f.d.toNat r.2) x true false bad }
/-- EVCAN. -/
def execEvcan (f : QF) (s : State) : Host.Outcome State Fault Refusal := issue (.evcan f) (coreEvcan f) s

/-- EVCAN_PACKET (R321): the cancel in packet `arg.pkt` is applied at the owner, and its code is returned. -/
def execEvcanPacket (s : State) : Host.Outcome State Fault Refusal :=
  let k := s.arg.pkt
  match jobLaunch s k.slot.toNat with
  | none => .next (sendPacket s { replyTo s k 0x15 0 0 [] with opx := 2 })
  | some lid =>
    let q := cancelEvent s lid (BitVec.ofNat 64 (at_ k.data 0 8))
    .next (sendPacket q.1 { replyTo q.1 k 0x15 0 0 [] with opx := BitVec.ofNat 4 q.2 })

/-- CANREP (R321): reply `arg.pkt` causes a CANCELRES record with the owner's code. -/
def execCanrep (s : State) : Host.Outcome State Fault Refusal :=
  let k := s.arg.pkt
  match reqAt s k.tag.toNat with
  | none => .next s
  | some r =>
    if r.kind != .evcan then .next s
    else .next (postRec (dropReq s r.tag)
      { typ := 0x88, gcrew := r.gcrew, lid := BitVec.ofNat 32 r.lid, part := r.part, addr := BitVec.ofNat 64 r.addr, pc := r.pcAt.setWidth 64
        lanes := lanesMask r.lanes, stamp := r.stamp, detail := k.opx.setWidth 64 } .nobody)

/-- What EVKEY returns: TIME and the key tail with its code (R322). -/
def keyWords (time tail code : Nat) : List Word := wordsOf (natBytes 8 time ++ natBytes 8 (tail + code * 2 ^ 56))

/-- EVKEY of a handle (R322). -/
def evkeyOf (s : State) (c : Crew) (h : Dword) : List Word :=
  if hDev h != s.deviceId then keyWords 0 0 3
  else
    let t := timeAt s c.lid
    let sh := fld h.toNat 51 48
    match hState s c.lid h with
    | .pending =>
      match (shoalAt t sh).evs.find? (fun e => !e.nohandle && e.slot == fld h.toNat 47 20) with
      | some e => keyWords e.time e.tail 0
      | none => keyWords 0 0 2
    | .current =>
      match t.table.find? (fun r => r.handle == h.toNat) with
      | some r => keyWords r.time r.tail 1
      | none => keyWords 0 0 1
    | .retired => keyWords 0 0 1
    | _ => keyWords 0 0 2

/-- EVKEY by handle (R322). -/
def coreEvkey (f : QF) : Core := 
  { illop := fun c _ => !c.timeline
    uses := [useV f.p1 2 false, useV f.d 4 true]
    counts := true
    run := fun x s =>
      let bad := badHandles s x f.p1.toNat
      let ok := (lanes (x.m &&& ~~~(lanesMask bad))).map (fun L => (L, evkeyOf s x.c (vget2 x.c f.p1.toNat L)))
      settleFaults (if ok.isEmpty then s else addResult s x f.d.toNat ok) x true false bad }
/-- EVKEY. -/
def execEvkey (f : QF) (s : State) : Host.Outcome State Fault Refusal := issue (.evkey f) (coreEvkey f) s

/-- EVKEY of the lane's own event (R322). -/
def coreEvkeySelf (f : QF) : Core := 
  { illop := fun c _ => !c.timeline
    uses := [useV f.d 4 true]
    counts := true
    run := fun x s =>
      let t := timeAt s x.c.lid
      .done (addResult s x f.d.toNat ((lanes x.m).map (fun L =>
        (L, match rowOf t x.c.team.toNat L with | some r => keyWords r.time r.tail 1 | none => keyWords 0 0 1)))) }
/-- EVKEY_SELF. -/
def execEvkeySelf (f : QF) (s : State) : Host.Outcome State Fault Refusal := issue (.evkeySelf f) (coreEvkeySelf f) s

/-! ## EVEND (R323) -/

/-- The events of lanes end: their slots become RETIRED and their records are free. -/
def retireEvents (s : State) (lid pos : Nat) (m : Mask) : State :=
  (lanes m).foldl (fun s L =>
    match rowOf (timeAt s lid) pos L with
    | none => s
    | some r =>
      if r.ended then s
      else
        let s := updRow s lid pos L (fun r => { r with ended := true })
        if r.handle == 0 then s
        else updShoal s lid r.shelf (fun h => { h with tab := minsert h.tab (fld r.handle 47 20) (.retired, fld r.handle 19 0) })) s

/-- EVEND (R323). -/
def coreEvend : Core := 
  { illop := fun c _ => !c.timeline
    run := fun x s => .ended (retireEvents s x.c.lid x.c.team.toNat x.m) }
/-- EVEND. -/
def execEvend (s : State) : Host.Outcome State Fault Refusal := issue .evend coreEvend s

/-! ## Spans and rounds (R313 to R315, R328) -/

/-- Cut a list into pieces of at most 32. -/
def chunks32 {α : Type} : Nat → List α → List (List α)
  | 0, _ => []
  | n + 1, l => if l.isEmpty then [] else l.take 32 :: chunks32 n (l.drop 32)

/-- Pending events of the device whose time lies in the window, with their shelves, less host posts of the span (R313, R315, R328). -/
def windowEvents (t : Timeline) : List (Nat × EvRec) :=
  t.shoals.flatMap (fun p => (p.2.evs.filter (fun e => t.t ≤ e.time && e.time < t.wend && !(t.fresh.contains e.order))).map (fun e => (p.1, e)))

/-- The rows of a crew of a round. -/
def rowsOf (dev : BitVec 12) (pos : Nat) (es : List ((Nat × EvRec) × Nat)) : List RoundLane :=
  es.zipIdx.map (fun p =>
    let e := p.1.1.2
    { pos := pos, lane := p.2, shelf := p.1.1.1, time := e.time, tail := e.tail, handle := if e.nohandle then 0 else mkHandle dev p.1.1.1 e.slot e.gen
      handler := e.handler, prio := fld e.tail 55 48, ordinal := p.1.2, child := 0, payload := e.payload, recIx := e.recIx, spilled := e.place == 2
      ended := false })

/-- A record of a shelf is free, if need be after the spill of an event later than the window (R312). -/
def freeRec (s : State) (lid sh : Nat) : Option State :=
  let t := timeAt s lid
  if (recsUsed t sh).length < (shoalAt t sh).recs then some s
  else if (shoalAt t sh).evs.any (fun e => e.place == 1 && t.wend ≤ e.time) then spillOne s lid sh else none

/-- A spilled event comes back into a free record of its shelf's area. -/
def unspill (s : State) (lid sh : Nat) (e : EvRec) (place : Nat) : State :=
  let t := timeAt s lid
  let used := recsUsed t sh
  let e' := { e with place := place, recIx := firstFree used (used.length + 1) 0 }
  writeRec (updShoal s lid sh (fun h => { h with evs := h.evs.map (fun x => if x == e then e' else x) })) (mget {} s.launches lid).part (shoalAt t sh) e'

/-- The spilled events of the window are read back from the spill areas into free records (R311, R312); one for which no record can be freed is gathered from where it lies. -/
def readBack (s : State) (lid : Nat) : State :=
  (windowEvents (timeAt s lid)).foldl (fun s p =>
    if p.2.place != 2 then s
    else match freeRec s lid p.1 with
      | some s => unspill s lid p.1 p.2 1
      | none => s) s

/-- A team of an earlier round, whose crew has retired while copies still touch its scratchpad (R301), leaves its key to the new round. -/
def setAside (s : State) (tk : Nat) : State :=
  let g := 2 ^ 91 + firstFree (s.teams.map (fun p => p.1 - 2 ^ 91)) (s.teams.length + 1) 0
  let re := fun (x : Nat) => if x == tk then g else x
  match mfind s.teams tk with
  | none => s
  | some t =>
    { s with
      teams := minsert (merase s.teams tk) g { t with old := true }, copies := s.copies.map (fun (o : CopyOp) => { o with team := re o.team, remote := re o.remote })
      tags := s.tags.map (fun p => (p.1, { p.2 with team := re p.2.team })), chans := s.chans.map (fun p => (p.1, { p.2 with team := re p.2.team })) }

/-- One more span (`w` 1) or round (`w` 2) on each of the sixteen shelves, which all report to it (R313, R421). -/
def shelfCounts (s : State) (w : Nat) : State := (List.range 16).foldl (fun s sh => count s (5136 + 8 * sh + w) 1) s

/-- A round forms: the device's share of the window's events by key, their ordinals, and crews by shelf and handler in the order of their lanes 0 (R313, R314). In a strict launch only
the first crew is ready at once (R38). -/
def formRound (s : State) (lid : Nat) : State :=
  let s := readBack s lid
  let t := timeAt s lid
  let share := 65536 / max 1 t.n
  let taken := ((sortBy (fun p => evKey p.2) (windowEvents t)).take share).zipIdx.map (fun p => (p.1, t.g * share + p.2))
  let shelves := (taken.map (fun p => p.1.1)).eraseDups
  let groups := shelves.flatMap (fun sh =>
    let mine := taken.filter (fun p => p.1.1 == sh)
    ((mine.map (fun p => p.1.2.handler)).eraseDups).flatMap (fun h => chunks32 (mine.length + 1) (mine.filter (fun p => p.1.2.handler == h))))
  let crews := sortBy (fun (g : List ((Nat × EvRec) × Nat)) => match g with | p :: _ => p.2 | [] => 0) groups
  let table := (crews.zipIdx).flatMap (fun p => rowsOf s.deviceId p.2 p.1)
  let orders := taken.map (fun p => p.1.2.order)
  let s := updTime s lid (fun t => { t with
    table := table, ncrews := crews.length
    shoals := t.shoals.map (fun p =>
      let gone := p.2.evs.filter (fun e => orders.contains e.order && !e.nohandle)
      (p.1, { p.2 with
        evs := p.2.evs.filter (fun e => !(orders.contains e.order))
        tab := gone.foldl (fun m e => minsert m e.slot (.current, e.gen)) p.2.tab })) })
  let s := shelfCounts s 2
  let firsts := if (mget {} s.launches lid).desc.strict then min 1 crews.length else crews.length
  let s := (s.teams.filter (fun p => p.2.lid == lid && !p.2.old)).foldl (fun s p => setAside s p.1) s
  let s := shelves.foldl (fun s sh => count s (5136 + 8 * sh) (taken.filter (fun p => p.1.1 == sh)).length) s
  { s with launches := mmodify s.launches lid (fun l => { l with tokPos := 0, passed := [], dispatched := [], retired := [], readyAt := (List.range firsts).map (fun k => (k, s.clock)) }) }

/-- Far-list and spilled events whose bucket now lies within the ring come into it; a spilled one needs a free record (R311, R312). -/
def moveFar (s : State) (lid sh : Nat) : State :=
  let l := mget {} s.launches lid
  (shoalAt (timeAt s lid) sh).evs.foldl (fun s e =>
    let t := timeAt s lid
    let shoal := shoalAt t sh
    if e.place == 0 || !(inRing l.desc shoal e.time) then s
    else if e.place == 1 then updShoal s lid sh (fun h => { h with evs := h.evs.map (fun x => if x == e then { e with place := 0 } else x) })
    else if shoal.recs ≤ (recsUsed t sh).length then s
    else unspill s lid sh e 0) s

/-- The least pending time of the device (R313). -/
def leastTime (t : Timeline) : Option Nat := (least (fun (e : EvRec) => e.time) (t.shoals.flatMap (fun p => p.2.evs))).map (fun e => e.time)

/-- The 128 bytes of entry `n` of a queue (R389). -/
def entryBytes (s : State) (q : Queue) (n : Nat) : State × Except (Byte × Nat) (List Byte) :=
  let a := q.base + n % 2 ^ q.size * 128
  if q.physical then (s, .ok (rdB s a 128)) else vreadAll s { part := q.part } a 128

/-- A host post for the launch that its queue held when it started is still to be stored (R328). -/
def postsLeft (s : State) (lid : Nat) : Bool :=
  let l := mget {} s.launches lid
  let t := timeAt s lid
  match mfind s.queues l.queue with
  | none => false
  | some q =>
  let n := min (2 ^ q.size) (t.hostUntil - q.head).toNat
  (t.hostUntil - q.head).toNat < 2 ^ 31 && (List.range n).any (fun i =>
    match (entryBytes s q (q.head.toNat + i)).2 with
    | .ok bs => at_ bs 0 1 == 3 && at_ bs 24 4 == lid
    | .error _ => false)

/-- The next span serial (R307). -/
def nextSpan (n : Nat) : Nat := if n + 1 == 2 ^ 20 then 1 else n + 1

/-! ## Reductions of a group (R313, R315, R373) -/

/-- This member gives its value, which goes to every other one. -/
def tideGive (s : State) (n key : Nat) (v : Option Nat) : State :=
  updComm s n (fun c =>
    if c.st != .ready || tideGave c key then c
    else { c with tideBorn := some s.clock, tideOut := c.tideOut ++ (otherRanks c).map (fun r => (key, r, v)), tideIn := c.tideIn ++ [(key, c.rank, v)] })
/-- The minimum of a reduction once every member's value is held: nothing when no member has a value. -/
def tideResult (c : Comm) (key : Nat) : Option (Option Nat) :=
  let vs := c.tideIn.filter (fun v => v.1 == key)
  if (List.range c.n).all (fun r => vs.any (fun v => v.2.1 == r)) then some (least id (vs.filterMap (fun v => v.2.2))) else none
/-- The reduction has been made. -/
def tideTake (s : State) (n key : Nat) : State := updComm s n (fun c => { c with tideBorn := none, tideIn := c.tideIn.filter (fun v => v.1 != key) })

/-- A reduction of a launch's group: with one device its own value is the result. Otherwise the value is given, and what follows waits for those of the other members. -/
def tideReduce (s : State) (lid : Nat) (v : Option Nat) (go : State → Option Nat → State) : State :=
  let t := timeAt s lid
  if t.n ≤ 1 then go s v
  else
    let n := tideSlot s lid
    match tideResult (commAt s n) (tideKey t) with
    | some r => go (tideTake s n (tideKey t)) r
    | none => tideGive s n (tideKey t) v

/-- The span of least time `T` opens, or the last round has ended when no member holds an event (R311, R313). -/
def startSpan (lid : Nat) (s : State) (T : Option Nat) : State :=
  match T with
  | none => updTime s lid (fun t => { t with done := true, table := [], ncrews := 0 })
  | some T =>
    let d := (mget {} s.launches lid).desc
    let s := updTime s lid (fun t => { t with
      open_ := true, span := nextSpan t.span, round := 0, t := T, wend := min (T + d.lookahead) (2 ^ 64)
      shoals := t.shoals.map (fun p => (p.1, { p.2 with b0 := T / 2 ^ bucketW d })) })
    let s := shelfCounts s 1
    formRound (((timeAt s lid).shoals.map (fun p => p.1)).foldl (fun s sh => moveFar s lid sh) s) lid

/-- A span of launch `lid` may start. -/
def spanWaits (s : State) (lid : Nat) (t : Timeline) : Bool := !t.open_ && !t.done && !(t.span == 0 && postsLeft s lid)

/-- SPAN_START (R313, R328): the least pending time of launch `arg.a` goes into the reduction, or the result of the reduction gives T. A host post stored from then on takes no part in the
span. -/
def execSpanStart (s : State) : Host.Outcome State Fault Refusal :=
  match mfind s.timelines s.arg.a with
  | none => .next s
  | some t =>
    let s1 := if spanBegun s s.arg.a t then s else updTime s s.arg.a (fun t => { t with fresh := [] })
    .next (if spanWaits s s.arg.a t then tideReduce s1 s.arg.a (leastTime t) (startSpan s.arg.a) else s)

/-- Every crew of the round has retired (R49), whatever its team still waits for, and no post or cancel of it is still to be accepted or applied (R315). -/
def roundOver (s : State) (lid : Nat) : Bool :=
  let t := timeAt s lid
  (List.range t.ncrews).all (fun k => (mget {} s.launches lid).dispatched.contains k && !(s.crews.any (fun p => p.2.lid == lid && p.2.team.toNat == k))) &&
  !(s.reqs.any (fun r => r.lid == lid && (r.kind == .evpost || r.kind == .evcan)))

/-- The round has ended on every device: the next one forms while some device holds an event of the window, else the span ends (R315). -/
def nextRound (lid : Nat) (s : State) (v : Option Nat) : State :=
  if (timeAt s lid).round < 15 && v.isSome then formRound (updTime s lid (fun t => { t with round := t.round + 1 })) lid
  else updTime s lid (fun t => { t with open_ := false, table := [], ncrews := 0, endedAt := s.clock })

/-- ROUND_END (R315): the round of launch `arg.a` is over on this device, which tells its group the least time of its events of the window, or on every device. -/
def execRoundEnd (s : State) : Host.Outcome State Fault Refusal :=
  let lid := s.arg.a
  match mfind s.timelines lid with
  | none => .next s
  | some t =>
    .next (if t.open_ && roundOver s lid then tideReduce s lid ((least (fun (p : Nat × EvRec) => p.2.time) (windowEvents t)).map (fun p => p.2.time)) (nextRound lid) else s)

end Sys2Proof.Machine
end

