-- ==== Sys2Proof/Machine/Place.lean ====
section
/-! DEFINITION. Units of a launch: when they are ready, where they go, the crews they start, retirement, pre-emption and restoration (R37 to R39, R45, R49, R50, R256,
R316, R397 to R402). -/

namespace Sys2Proof.Machine

/-! ## Room (R30, R417) -/

/-- Crews that hold a resident slot of an isle. -/
def onIsle (s : State) (i : Nat) : List Crew := (s.crews.filter (fun p => !p.2.saved && isleOf p.2.gcrew == i)).map (fun p => p.2)
/-- Teams that hold scratchpad on an isle. -/
def teamsOn (s : State) (i : Nat) : List Team := (s.teams.filter (fun p => !p.2.saved && p.2.isle == i)).map (fun p => p.2)
/-- An isle under an isle stop counts as having no room (R417). -/
def isleStopped (s : State) (i : Nat) : Bool := s.isleStops.any (fun p => p.1 == i)
/-- Free resident slots of an isle. -/
def freeSlots (s : State) (i : Nat) : Nat := if isleStopped s i then 0 else 32 - (onIsle s i).length

/-- What a team, or one crew, needs of an isle: slots, vector bytes, accumulator bytes, scratchpad bytes, and channel numbers that must be free (R30, R301). -/
structure Need where
  slots : Nat
  regs : Nat
  accs : Nat
  scratch : Nat
  chans : List Nat := []

/-- Vector registers of a crew, rounded up (R30). -/
def regsUp (n : Nat) : Nat := (n + 7) / 8 * 8
/-- What a team of a launch needs. -/
def teamNeed (d : Desc) : Need :=
  { slots := d.team, regs := d.team * regsUp d.regs * 128, accs := d.team * d.accs * 2560, scratch := (d.scratch + 1023) / 1024 * 1024 }

/-- Every resource fits on an isle (R30). -/
def isleFits (s : State) (n : Need) (i : Nat) : Bool :=
  let cs := onIsle s i
  n.slots ≤ freeSlots s i && cs.foldl (fun a c => a + regsUp c.nregs * 128) n.regs ≤ 256 * 1024 &&
  cs.foldl (fun a c => a + c.naccs * 2560) n.accs ≤ 256 * 1024 && (teamsOn s i).foldl (fun a t => a + t.size) n.scratch ≤ 512 * 1024 &&
  n.chans.all (fun c => (mfind s.chans (16 * i + c)).isNone)

/-- Isles for teams in order: distinct, ascending (R38). -/
def pickIsles (s : State) : List Need → List Nat → Option (List Nat)
  | [], _ => some []
  | _ :: _, [] => none
  | n :: ns, i :: is => if isleFits s n i then (pickIsles s ns is).map (fun r => i :: r) else pickIsles s (n :: ns) is

/-- Isles of an atoll for the teams of a cohort. -/
def fitAtoll (s : State) (ns : List Need) (a : Nat) : Option (List Nat) := pickIsles s ns ((List.range 4).map (fun k => 4 * a + k))
/-- Free resident slots of an atoll. -/
def atollFree (s : State) (a : Nat) : Nat := (List.range 4).foldl (fun n k => n + freeSlots s (4 * a + k)) 0
/-- A partition's atolls on a shelf. -/
def atollsOn (s : State) (part sh : Nat) : List Nat := ((List.range 4).map (fun k => 4 * sh + k)).filter (fun a => (partOf s part).mask.getLsbD a)
/-- The isles that a cohort takes on a shelf: on the atoll with the most free slots of those that can hold it (R38). -/
def fitShelf (s : State) (part : Nat) (ns : List Need) (sh : Nat) : Option (List Nat) :=
  match least (fun a => 200 - atollFree s a) ((atollsOn s part sh).filter (fun a => (fitAtoll s ns a).isSome)) with
  | some a => fitAtoll s ns a
  | none => none
/-- Free resident slots of a partition on a shelf (R400). -/
def shelfFree (s : State) (part sh : Nat) : Nat := (atollsOn s part sh).foldl (fun n a => n + atollFree s a) 0

/-! ## Crews at their start (R20, R159 to R161, R316) -/

/-- The lowest resident slot of an isle that is free. -/
def freeRes (s : State) (i : Nat) : Nat := firstFree ((onIsle s i).map (fun c => c.gcrew.toNat % 32)) 32 0
/-- `gcrew` of a slot (R36). -/
def gcrewOf (i res : Nat) : Word := BitVec.ofNat 32 (32 * i + res)
/-- Trace of a crew at its start. -/
def startTrace (l : Launch) (n : Nat) : TraceSt := { traced := l.traceAll || l.traced.contains n }

/-- What every crew of a launch starts with. -/
def baseCrew (s : State) (l : Launch) (lcid team : Nat) (g : Word) : Crew :=
  let d := l.desc
  { lid := d.lid, lcid := lcid, part := l.part, teamKey := d.lid * 2 ^ 26 + team, team := BitVec.ofNat 32 team, gcrew := g, nregs := regsUp d.regs, naccs := d.accs
    strict := d.strict, timeline := d.kind == 2, expert := d.expert, text := BitVec.ofNat 56 d.text
    vecBase := if d.trapv == 0xFFFFFFFF then none else some (BitVec.ofNat 56 (d.text + d.trapv)), readySince := s.clock, trace := startTrace l lcid }

/-- A crew of a plain launch at its start. -/
def plainCrew (s : State) (l : Launch) (team ix : Nat) (g : Word) : Crew :=
  let d := l.desc
  let c := baseCrew s l (team * d.team + ix) team g
  let st := (List.range 32).foldl (fun m L => mset 0 m L (BitVec.ofNat 64 d.stamp)) []
  let fr := (List.range 32).foldl (fun m L => frSet m L { st := .live, resume := BitVec.ofNat 56 (d.text + d.entry) }) []
  reform { c with crewIx := BitVec.ofNat 32 ix, cohort := BitVec.ofNat 32 (team / d.cohort), shelfg := BitVec.ofNat 32 (team / d.cohort / d.shelfg), stamp := st, fr := fr }

/-- The registers that a lane with an event receives (R316). -/
def laneRegs (round : Nat) (r : RoundLane) : List Word :=
  let w := fun (x : Nat) => BitVec.ofNat 32 x
  [w r.time, w (r.time / 2 ^ 32), w r.handle, w (r.handle / 2 ^ 32), w (r.prio * 2 ^ 24 + round * 2 ^ 16 + r.ordinal % 65536), 0, w r.tail, w (r.tail / 2 ^ 32)] ++
  (List.range 8).map (fun k => w (at_ r.payload (4 * k) 4))

/-- A crew of a round at its start (R316). -/
def eventCrew (s : State) (l : Launch) (pos : Nat) (g : Word) : Crew :=
  let t := timeAt s l.desc.lid
  let c := baseCrew s l pos pos g
  let rows := t.table.filter (fun r => r.pos == pos)
  let L0 := l.desc.lookahead
  let c := rows.foldl (fun c r =>
    let at_ := BitVec.ofNat 56 (l.desc.text + mget 0 t.handlers r.handler)
    let v := ((laneRegs t.round r).zipIdx).foldl (fun m w => mset 0 m (32 * w.2 + r.lane) w.1) c.v
    { c with
      v := v, fr := frSet c.fr r.lane { st := .live, resume := at_ }, stamp := mset 0 c.stamp r.lane (BitVec.ofNat 64 r.time)
      evhandle := mset 0 c.evhandle r.lane (BitVec.ofNat 64 r.handle) }) c
  let sc : List Nat := [t.t, t.t / 2 ^ 32, L0, L0 / 2 ^ 32, t.span, t.round, match rows with | r :: _ => r.handler | [] => 0]
  reform { c with
    sreg := (sc.zipIdx).foldl (fun m w => mset 0 m w.2 (BitVec.ofNat 32 w.1)) [], shelfg := BitVec.ofNat 32 (match rows with | r :: _ => r.shelf | [] => 0)
    span := BitVec.ofNat 32 t.span, round := BitVec.ofNat 32 t.round, wstart := BitVec.ofNat 64 t.t, lookahead := BitVec.ofNat 64 l.desc.lookahead }

/-- Start the crews of a team on an isle. -/
def startTeam (s : State) (l : Launch) (team isle : Nat) : State :=
  let d := l.desc
  let tk := d.lid * 2 ^ 26 + team
  let s := { s with
    teams := minsert s.teams tk { lid := d.lid, ix := team, isle := isle, disp := s.nextDisp, size := (teamNeed d).scratch }, nextDisp := s.nextDisp + 1 }
  (List.range d.team).foldl (fun s k =>
    let g := gcrewOf isle (freeRes s isle)
    let c := if d.kind == 2 then eventCrew s l team g else plainCrew s l team k g
    { s with crews := minsert s.crews (d.lid * 2 ^ 26 + c.lcid) c }) s

/-! ## Ready units (R32, R397 to R399) -/

/-- Teams of a plain launch. -/
def teamCount (d : Desc) : Nat := d.nsg * d.shelfg * d.cohort
/-- Units of a launch: cohorts, or crews of the round under way. -/
def unitCount (s : State) (l : Launch) : Nat :=
  if l.desc.kind == 2 then (let t := timeAt s l.desc.lid; if t.open_ then t.ncrews else 0) else l.desc.nsg * l.desc.shelfg
/-- The teams of a unit. -/
def unitTeams (l : Launch) (u : Nat) : List Nat := if l.desc.kind == 2 then [u] else (List.range l.desc.cohort).map (fun k => u * l.desc.cohort + k)

/-- Bit `t` of a completion bitmap, as the launch engine reads it (R398). -/
def mapBit (s : State) (d : Dep) (t : Nat) : Bool :=
  match (vread s { lid := BitVec.ofNat 32 d.plid, part := d.part } (d.map + t / 8) 1 .rd).2 with
  | .ok bs => (bytesNat bs).testBit (t % 8)
  | .error _ => false

/-- A dependence is met for team `j`: each bit of need(j) is set (R397, R398). -/
def depMet (s : State) (d : Dep) (j : Nat) : Bool :=
  (List.range d.w).all (fun k =>
    let t : Int := d.a * j + d.b + k
    t < 0 || (d.np : Int) ≤ t || mapBit s d t.toNat)

/-- A unit is ready to dispatch once `mates` are dispatched (R32, R399). Dependences that were met once stay met. -/
def readyWith (s : State) (l : Launch) (mates : List Nat) (u : Nat) : Bool :=
  let ts := unitTeams l u
  !(ts.any (fun t => l.dispatched.contains t)) && ((mfind l.readyAt u).isSome || ts.all (fun t => depMet s l.desc.dep0 t && depMet s l.desc.dep1 t)) &&
  (!l.desc.strict || (List.range (ts.headD 0)).all (fun t => l.dispatched.contains t || mates.contains t))

/-- A unit is ready to dispatch (R399). -/
def unitReady (s : State) (l : Launch) (u : Nat) : Bool := readyWith s l [] u

/-- Note the clock at which units become ready. -/
def noteReady (s : State) : State :=
  { s with launches := s.launches.map (fun p =>
    (p.1, { p.2 with readyAt := (List.range (unitCount s p.2)).foldl (fun m u =>
      if (mfind m u).isNone && unitReady s p.2 u then minsert m u s.clock else m) p.2.readyAt })) }

/-- A unit that waits to be placed: its launch, its cohort or position, and whether it is a saved cohort to restore. -/
structure Unit_ where
  l : Launch
  u : Nat
  back : Bool

/-- Cohorts that are saved whole. -/
def savedUnits (s : State) (l : Launch) : List Nat :=
  ((s.teams.filter (fun p => p.2.lid == l.desc.lid && p.2.saved)).map (fun p => cohortOf s p.2)).eraseDups

/-- The units of a partition that wait to be placed. -/
def waitingUnits (s : State) (part : Nat) : List Unit_ :=
  (s.launches.filter (fun p => p.2.part == part && !p.2.restored)).flatMap (fun p =>
    (savedUnits s p.2).map (fun u => { l := p.2, u := u, back := true }) ++
    ((List.range (unitCount s p.2)).filter (unitReady s p.2)).map (fun u => { l := p.2, u := u, back := false }))

/-- Key of a partition's turn at a priority. -/
def turnKey (part prio : Nat) : Nat := 8 * part + prio
/-- The place of a queue in the turn (R399): the queue under way until it has had its WEIGHT, then ascending, wrapping. -/
def turnPlace (s : State) (part prio q : Nat) : Nat :=
  let t := mget (4095, 255) s.wrr (turnKey part prio)
  if q == t.1 && t.2 < (mget {} s.queues q).weight then 0 else (q + 4095 - t.1) % 4096 + 1
/-- A queue has had `n` more units, the cohorts of a gang group at once; its turn passes on when it has had its WEIGHT or more. -/
def turnTake (s : State) (part prio q n : Nat) : State :=
  let t := mget (4095, 255) s.wrr (turnKey part prio)
  { s with wrr := minsert s.wrr (turnKey part prio) (if q == t.1 && t.2 < (mget {} s.queues q).weight then (q, t.2 + n) else (q, n)) }

/-- The order of waiting units (R399). -/
def unitKey (s : State) (part : Nat) (w : Unit_) : Nat :=
  (((7 - w.l.prio) * 8192 + turnPlace s part w.l.prio w.l.queue) * 2 ^ 64 + w.l.accept) * 2 ^ 26 + w.u
/-- The waiting units in order. -/
def unitsInOrder (s : State) (part : Nat) : List Unit_ := sortBy (unitKey s part) (waitingUnits s part)
/-- A unit of higher priority waits to be placed (R42). -/
def higherWaits (s : State) (part prio : Nat) : Bool := (waitingUnits s part).any (fun w => prio < w.l.prio)

/-! ## Placement (R37 to R39, R400) -/

/-- Restore a saved crew into a slot: its image is loaded, and every wait, trap depth and held fault goes on as it was saved (R255). Results still outstanding are
waited for before it issues (R125). A STOP that found it saved takes effect (R407). -/
def restoreCrew (s : State) (k isle : Nat) : State :=
  let c := crewAt s k
  let g := gcrewOf isle (freeRes s isle)
  let r := vreadAll s (whoOf c c.pc) (imageAt s c) (imageSize c.nregs c.naccs)
  let c := match r.2 with | .ok bs => reform (loadImage c bs) | .error _ => c
  let s := updCrew r.1 k (fun _ => drained { c with
    saved := false, alone := false, markerWait := c.markerWait || !c.pend.isEmpty, gcrew := g, readySince := r.1.clock, trace := { c.trace with syncDue := true } })
  let t := teamAt s c.teamKey
  let s := updCrew s k (wakeOn t false)
  ferryBack (if c.stepping == 3 then stopCrew s k 3 0 0 else s) k

/-- Restore a saved cohort with its teams on the given isles: scratchpads, tags and channels in their places (R50, R226, R301). -/
def restoreUnit (s : State) (l : Launch) (u : Nat) (isles : List Nat) : State :=
  let ts := cohortTeams s l.desc.lid u
  let s := { s with launches := mmodify s.launches l.desc.lid (fun l => { l with noRoom := merase l.noRoom u }) }
  (ts.zip isles).foldl (fun s p =>
    let tk := p.1.1
    let t := p.1.2
    let i := p.2
    let r := vreadAll s (teamWho s t) (teamAddr s t) (teamArea t)
    let s := r.1
    let t := match r.2 with
      | .ok bs => { t with scratch := Memory.writes [] 0 (bs.take t.size), savedTags := tagsFrom (bs.drop t.size) }
      | .error _ => t
    let tags := t.savedTags.foldl (fun m g => minsert m (1024 * i + g.1) { team := tk, tag := g.2 }) s.tags
    let chans := t.savedChans.foldl (fun m h =>
      let old : Chan := { team := tk, slot := h.2.1, count := h.2.2.1.toNat, next := h.2.2.1.toNat, fault := h.2.2.2 }
      minsert m (16 * i + h.1) old) s.chans
    let s := { s with
      tags := tags, chans := chans, nextDisp := s.nextDisp + 1
      teams := minsert s.teams tk { t with saved := false, isle := i, disp := s.nextDisp, savedTags := [], savedChans := [] } }
    (s.crews.filter (fun c => c.2.teamKey == tk && c.2.saved && !c.2.alone)).foldl (fun s c => restoreCrew s c.1 i) s) s

/-- Dispatch a unit on the given isles. -/
def dispatchUnit (s : State) (l : Launch) (u : Nat) (isles : List Nat) : State :=
  let ts := unitTeams l u
  let s := (ts.zip isles).foldl (fun s p => startTeam s l p.1 p.2) s
  { s with launches := mmodify s.launches l.desc.lid (fun l => { l with dispatched := l.dispatched ++ ts, readyAt := merase l.readyAt u, noRoom := merase l.noRoom u }) }

/-- Needs of the teams of a unit. -/
def unitNeeds (s : State) (w : Unit_) : List Need :=
  if w.back then (cohortTeams s w.l.desc.lid w.u).map (fun p =>
    let n := (s.crews.filter (fun c => c.2.teamKey == p.1 && !c.2.alone)).length
    let d := w.l.desc
    { slots := n, regs := n * regsUp d.regs * 128, accs := n * d.accs * 2560, scratch := p.2.size, chans := p.2.savedChans.map (fun h => h.1) })
  else (unitTeams w.l w.u).map (fun _ => teamNeed w.l.desc)

/-- Place one unit on a shelf. -/
def placeOn (s : State) (w : Unit_) (sh : Nat) : Option State :=
  (fitShelf s w.l.part (unitNeeds s w) sh).map (fun isles => if w.back then restoreUnit s w.l w.u isles else dispatchUnit s w.l w.u isles)

/-- The shelf group of a cohort. -/
def shelfGroup (l : Launch) (u : Nat) : Nat := u / max 1 l.desc.shelfg
/-- The cohorts of a shelf group. -/
def groupUnits (l : Launch) (g : Nat) : List Nat := (List.range l.desc.shelfg).map (fun k => g * l.desc.shelfg + k)

/-- Place a list of units together on one shelf. -/
def placeAll (s : State) (ws : List Unit_) (sh : Nat) : Option State :=
  ws.foldl (fun a w => match a with | some s => placeOn s w sh | none => none) (some s)

/-- A shelf group fits on an empty shelf of its partition (R39). -/
def groupFits (s : State) (l : Launch) (g : Nat) : Bool :=
  let e := { s with crews := [], teams := [], chans := [], isleStops := [] }
  (List.range 16).any (fun sh => (placeAll e ((groupUnits l g).map (fun u => { l := l, u := u, back := false })) sh).isSome)

/-- A launch places its shelf groups together (R39). -/
def asksGang (l : Launch) : Bool := l.desc.gang && l.desc.kind != 2
/-- The shelf group of a unit is placed together: its launch asks for it, the group has not been placed one by one, and it fits on an empty shelf (R39). -/
def wholeGroup (s : State) (w : Unit_) : Bool :=
  asksGang w.l && !(w.l.oneByOne.contains (shelfGroup w.l w.u)) && groupFits s w.l (shelfGroup w.l w.u)

/-- The units that are placed with a unit: its whole shelf group under gang placement, of which every one must be ready (R39). -/
def unitGroup (s : State) (w : Unit_) : Option (List Unit_) :=
  if !(wholeGroup s w) then some [w]
  else
    let us := groupUnits w.l (shelfGroup w.l w.u)
    if w.back then some ((us.filter (fun u => (savedUnits s w.l).contains u)).map (fun u => { w with u := u }))
    else if us.all (readyWith s w.l (us.flatMap (unitTeams w.l))) then some (us.map (fun u => { w with u := u })) else none

/-- The preferred shelf of a unit, if its partition has atolls there (R38, R400). DESIGN CHOICE (log entry 51): a saved cohort has none, and goes to the least-loaded shelf at once. -/
def prefShelf (s : State) (w : Unit_) : Option Nat :=
  let sh := if w.back then none
    else if w.l.desc.kind == 2 then ((timeAt s w.l.desc.lid).table.find? (fun r => r.pos == w.u)).map (fun r => r.shelf)
    else if w.l.desc.p == 0 then none else placeShelf s w.l.part ((w.l.desc.p + w.u * w.l.desc.cohort * w.l.desc.q) % 2 ^ 56)
  sh.filter (fun x => !(atollsOn s w.l.part x).isEmpty)

/-- The shelf that the first cohort of a shelf group took (R39). DESIGN CHOICE (log entry 51): where the partition has no atoll on that shelf any more, no shelf is fixed. -/
def fixedShelf (s : State) (w : Unit_) : Option Nat :=
  if w.back || w.l.desc.kind == 2 then none
  else (mfind w.l.groupShelf (shelfGroup w.l w.u)).filter (fun x => !(atollsOn s w.l.part x).isEmpty)

/-- The shelf with the most free slots of those on which the units fit (R38). -/
def leastLoaded (s : State) (part : Nat) (ws : List Unit_) : Option Nat :=
  least (fun sh => 2000 - shelfFree s part sh) ((List.range 16).filter (fun sh => (placeAll s ws sh).isSome))

/-- The shelf for a unit without a preferred one: the least loaded, or once it has waited with no room anywhere, the lowest on which room appears (R38). -/
def anyShelf (s : State) (w : Unit_) (ws : List Unit_) : Option Nat :=
  if (mfind w.l.noRoom w.u).isSome then (List.range 16).find? (fun sh => (placeAll s ws sh).isSome) else leastLoaded s w.l.part ws

/-- The shelf that a unit goes to now, and whether its wait for a preferred one has passed (R38). -/
def chooseShelf (s : State) (w : Unit_) (ws : List Unit_) : Option (Nat × Bool) :=
  let fits := fun sh => (placeAll s ws sh).isSome
  match fixedShelf s w with
  | some sh => if fits sh then some (sh, false) else none
  | none =>
    match prefShelf s w with
    | some sh =>
      let till := mget s.clock w.l.readyAt w.u + us 2
      if fits sh && s.clock ≤ till then some (sh, false)
      else if till ≤ s.clock then (anyShelf s w ws).map (fun x => (x, true)) else none
    | none => (anyShelf s w ws).map (fun x => (x, false))

/-- Where a unit goes now. -/
def placeUnit (s : State) (w : Unit_) : Option (List Unit_ × Nat × Bool) :=
  if w.back && higherWaits s w.l.part w.l.prio then none
  else match unitGroup s w with
    | none => none
    | some ws => (chooseShelf s w ws).map (fun p => (ws, p.1, p.2))

/-- The units that a unit is placed with find no room on the shelf that is fixed for them, or on any (R38, R39, R402). -/
def lacksRoom (s : State) (w : Unit_) : Bool :=
  match unitGroup s w with
  | none => false
  | some ws =>
    match fixedShelf s w with
    | some sh => (placeAll s ws sh).isNone
    | none => (List.range 16).all (fun sh => (placeAll s ws sh).isNone)

/-- Note since when waiting units have found no room. -/
def noteRoom (s : State) : State :=
  s.parts.foldl (fun s p => (waitingUnits s p.1).foldl (fun s w =>
    let lacks := lacksRoom s w
    { s with launches := mmodify s.launches w.l.desc.lid (fun l => { l with
      noRoom := if !lacks then merase l.noRoom w.u else if (mfind l.noRoom w.u).isSome then l.noRoom else minsert l.noRoom w.u s.clock }) }) s) s

/-- The next unit to place: what is placed, on which shelf, and whether a wait has passed; dispatch stops during a checkpoint (R105, R399). -/
def nextUnit (s : State) : Option (Unit_ × List Unit_ × Nat × Bool) :=
  if s.ckpt.isSome then none
  else s.parts.findSome? (fun p => (unitsInOrder s p.1).findSome? (fun w => (placeUnit s w).map (fun r => (w, r.1, r.2.1, r.2.2))))

/-- Place units on a shelf, with the launch's notes: the group's shelf, a group placed one by one, the queue's turn (R39, R399). -/
def doPlace (s : State) (w : Unit_) (ws : List Unit_) (sh : Nat) : State :=
  let whole := wholeGroup s w
  match placeAll s ws sh with
  | none => s
  | some s =>
    let g := shelfGroup w.l w.u
    let single := asksGang w.l && !whole
    let s := { s with launches := mmodify s.launches w.l.desc.lid (fun l => { l with
      groupShelf := if w.back || l.desc.kind == 2 || (mfind l.groupShelf g).isSome then l.groupShelf else minsert l.groupShelf g sh
      oneByOne := if single && !(l.oneByOne.contains g) then l.oneByOne ++ [g] else l.oneByOne
      nogang := l.nogang || single }) }
    noteReady (turnTake s w.l.part w.l.prio w.l.queue ws.length)

/-- UNIT_DISPATCH (R399, R400): a ready cohort or timeline crew is placed. -/
def execUnitDispatch (s : State) : Host.Outcome State Fault Refusal :=
  match nextUnit s with
  | some (w, ws, sh, late) => if w.back || late then .next s else .next (doPlace s w ws sh)
  | none => .next s

/-- PLACEMENT_WAIT_EXPIRY (R38): a unit that has waited 2 µs for its preferred shelf goes to the least-loaded one. -/
def execPlacementWaitExpiry (s : State) : Host.Outcome State Fault Refusal :=
  match nextUnit s with
  | some (w, ws, sh, late) => if w.back || !late then .next s else .next (doPlace s w ws sh)
  | none => .next s

/-- COHORT_RESTORE (R42, R50): a saved cohort is restored. -/
def execCohortRestore (s : State) : Host.Outcome State Fault Refusal :=
  match nextUnit s with
  | some (w, ws, sh, _) => if w.back then .next (doPlace s w ws sh) else .next s
  | none => .next s

/-- A crew saved alone may return to its team's isle (R256). -/
def mayReturn (s : State) (k : Nat) : Bool :=
  match mfind s.crews k with
  | none => false
  | some c =>
    let t := teamAt s c.teamKey
    c.saved && c.alone && !c.ctxHalt && !t.saved && !t.saving && s.ckpt.isNone && !(higherWaits s c.part (launchOf s c).prio) &&
    isleFits s { slots := 1, regs := regsUp c.nregs * 128, accs := c.naccs * 2560, scratch := 0 } t.isle

/-- CTXSW_CREW_RETURN (R256): crew `arg.crew`, saved alone, returns to its isle. -/
def execCtxswCrewReturn (s : State) : Host.Outcome State Fault Refusal :=
  let k := s.arg.crew
  if mayReturn s k then .next (restoreCrew s k (teamAt s (crewAt s k).teamKey).isle) else .next s

/-! ## Pre-emption (R50, R402) -/

/-- Begin to save the crews of a cohort (R50). -/
def saveCohort (s : State) (lid u : Nat) : State :=
  let s := (cohortCrews s lid u).foldl (fun s p => beginSave s p.1) s
  let ts := (cohortTeams s lid u).map (fun p => p.1)
  let s := ts.foldl (fun (s : State) tk => { s with teams := mmodify s.teams tk (fun t => if t.saved then t else { t with saving := true }) }) s
  settleTeams { s with launches := mmodify s.launches lid (fun l => { l with pre := true }) }

/-- Resident cohorts on the atolls of a partition: launch, cohort, atoll, order of dispatch. A departing atoll takes no new unit (R401). -/
def residentCohorts (s : State) (part : Nat) : List (Launch × Nat × Nat × Nat) :=
  let all := (s.launches.filter (fun p => p.2.part == part)).flatMap (fun p =>
    let ts := (s.teams.filter (fun t => t.2.lid == p.1 && !t.2.saved && !t.2.saving)).map (fun t => t.2)
    ((ts.map (fun t => cohortOf s t)).eraseDups).map (fun u =>
      let mine := ts.filter (fun t => cohortOf s t == u)
      (p.2, u, (mine.headD {}).isle / 4, mine.foldl (fun a t => max a t.disp) 0)))
  all.filter (fun v => (partOf s part).mask.getLsbD v.2.2.1)

/-- The cohorts saved with a victim: its whole shelf group, unless it was placed one by one (R402). -/
def victimGroup (v : Launch × Nat × Nat × Nat) : List (Nat × Nat) :=
  if asksGang v.1 && !(v.1.oneByOne.contains (shelfGroup v.1 v.2.1)) then (groupUnits v.1 (shelfGroup v.1 v.2.1)).map (fun u => (v.1.desc.lid, u))
  else [(v.1.desc.lid, v.2.1)]

/-- The state with cohorts taken away, to look for room. -/
def without (s : State) (vs : List (Nat × Nat)) : State :=
  let gone := fun (tk : Nat) => let t := teamAt s tk; vs.contains (t.lid, cohortOf s t)
  { s with crews := s.crews.filter (fun p => !(gone p.2.teamKey)), teams := s.teams.filter (fun p => !(gone p.1)) }

/-- Victims in order until one atoll, of the shelf that is fixed for the unit if one is, would hold it (R39, R402). -/
def pickVictims (s : State) (fixed : Option Nat) (ns : List Need) : List (Launch × Nat × Nat × Nat) → List (Nat × List (Nat × Nat)) → Option (List (Nat × Nat))
  | [], _ => none
  | v :: vs, acc =>
    let a := v.2.2.1
    let mine := ((acc.find? (fun p => p.1 == a)).map (fun p => p.2)).getD [] ++ victimGroup v
    if (fitAtoll (without s mine) ns a).isSome && fixed.all (fun sh => sh == a / 4) then some mine.eraseDups
    else pickVictims s fixed ns vs ((a, mine) :: acc.filter (fun p => p.1 != a))

/-- The victims of a unit that has had no room for 5 µs. -/
def victimsOf (s : State) (w : Unit_) : Option (List (Nat × Nat)) :=
  if s.clock < mget s.clock w.l.noRoom w.u + us 5 || !(lacksRoom s w) || (w.back && higherWaits s w.l.part w.l.prio) then none
  else
    let vs := (residentCohorts s w.l.part).filter (fun v => v.1.prio < w.l.prio)
    pickVictims s (fixedShelf s w) (unitNeeds s w) (sortBy (fun v => v.1.prio * 2 ^ 64 + (2 ^ 64 - 1 - v.2.2.2)) vs) []

/-- The cohorts to pre-empt now; none while cohorts of the partition are being saved. -/
def preemptNext (s : State) : Option (List (Nat × Nat)) :=
  if s.ckpt.isSome then none
  else s.parts.findSome? (fun p =>
    if s.teams.any (fun t => t.2.saving && (mget {} s.launches t.2.lid).part == p.1) then none
    else (unitsInOrder s p.1).findSome? (fun w => victimsOf s w))

/-- PREEMPT (R402): a ready unit without room for 5 µs pre-empts cohorts of lower priority of one atoll. -/
def execPreempt (s : State) : Host.Outcome State Fault Refusal :=
  match preemptNext s with
  | some vs => .next (vs.foldl (fun s v => saveCohort s v.1 v.2) s)
  | none => .next s

/-- SAVE_DRAIN_EXPIRY (R255): 20 µs after its save began, the results still outstanding of crew `arg.crew` are left to return into its image. -/
def execSaveDrainExpiry (s : State) : Host.Outcome State Fault Refusal := .next (trySave s s.arg.crew)

/-! ## Retirement (R45, R49, R97, R301, R398) -/

/-- The crew may retire: every lane has ended and every result has returned. -/
def mayRetire (c : Crew) : Bool := allEnded c && c.pend.isEmpty && c.held.isEmpty && c.trapReq.isNone && c.park.isNone

/-- What engines still hold of a retired crew names its ghost from now on. -/
def ghostify (s : State) (k : Nat) : State :=
  let c := crewAt s k
  let g := 2 ^ 90 + firstFree (s.ghosts.map (fun p => p.1 - 2 ^ 90)) (s.ghosts.length + 1) 0
  let re := fun (x : Nat) => if x == k then g else x
  { s with
    ghosts := minsert s.ghosts g c
    wcb := s.wcb.map (fun (l : WcLine) => { l with owners := l.owners.map (fun (o : WcOwner) => { o with crew := re o.crew }) })
    reqs := s.reqs.map (fun (r : RemoteReq) => { r with crew := re r.crew }), copies := s.copies.map (fun (o : CopyOp) => { o with crew := re o.crew })
    matq := s.matq.map (fun (o : MatOp) => { o with crew := re o.crew }) }

/-- A team whose crews have all retired and whose scratchpad no copy touches retires: its scratchpad, tags and channels are freed, and its bit of MAP is
set (R49, R301, R398). -/
def teamRetires (s : State) (tk : Nat) : Bool :=
  (mfind s.teams tk).isSome && !(s.crews.any (fun p => p.2.teamKey == tk)) && !(s.copies.any (fun o => landsIn o tk))

/-- Retire a team. -/
def retireTeam (s : State) (tk : Nat) : State :=
  if !(teamRetires s tk) then s
  else
    let t := teamAt s tk
    let l := mget {} s.launches t.lid
    let s := { s with
      teams := merase s.teams tk, tags := s.tags.filter (fun g => g.2.team != tk), chans := s.chans.filter (fun h => h.2.team != tk)
      launches := if t.old then s.launches else mmodify s.launches t.lid (fun l => { l with retired := l.retired ++ [t.ix] }) }
    let s := if l.desc.map == 0 || l.desc.kind == 2 then s
      else
        let w : Who := { lid := BitVec.ofNat 32 t.lid, part := l.part }
        match vread s w (l.desc.map + t.ix / 8) 1 .rw with
        | (s, .ok bs) => (vwrite s w (l.desc.map + t.ix / 8) [BitVec.ofNat 8 (bytesNat bs ||| 2 ^ (t.ix % 8))]).1
        | (s, .error _) => s
    noteReady s

/-- CREW_RETIRE (R49): crew `arg.crew` retires, and its team with the last crew; with `arg.b` 1, team `arg.a`, which had waited for copies. -/
def execCrewRetire (s : State) : Host.Outcome State Fault Refusal :=
  if s.arg.b == 1 then .next (retireTeam s s.arg.a)
  else
    let k := s.arg.crew
    match mfind s.crews k with
    | none => .next s
    | some c =>
      if !(mayRetire c) then .next s
      else
        let s := traceBranch s k 3 0 (stampOf c (lowest (lanesIn c.fr .ended)))
        let s := if c.timeline then retireEvents s c.lid c.lcid 0xFFFFFFFF else s
        let s := dropTurns (ghostify s k) k
        let slot := 4 * isleOf c.gcrew + slotOf c.gcrew
        let s := { s with
          slotBusy := if s.clock < c.readySince then minsert s.slotBusy slot (max c.readySince (mget 0 s.slotBusy slot)) else s.slotBusy
          crews := merase s.crews k, launches := mmodify s.launches c.lid (fun l => { l with passed := l.passed ++ [c.lcid] }) }
        let s := if c.strict then passToken s c.lid c.lcid else s
        .next (retireTeam s c.teamKey)

/-- ISSUE_AGE_EXPIRY (R403): crew `arg.crew`, ready for 64 cycles without issuing, is taken ahead of rank. -/
def execIssueAgeExpiry (s : State) : Host.Outcome State Fault Refusal :=
  let c := crewAt s s.arg.crew
  if (mfind s.crews s.arg.crew).isSome && c.readySince + 64 ≤ s.clock then .next { s with cur := s.arg.crew } else .next s

end Sys2Proof.Machine
end

