-- ==== Sys2Proof/Machine/Sm3.lean ====
section
/-! DEFINITION. The digest SM3 by which the boot ROM checks an image and the firmware measures (R444, R446). The spec names it and gives no definition: it stands here as its
standard, GB/T 32905, defines it. PRESUMED (log entry 52). -/

namespace Sys2Proof.Machine

/-- A word from four bytes, the first in the top bits, as SM3 reads them. -/
def sm3Word (bs : List Byte) : Word := bs.foldl (fun w b => w <<< 8 ||| b.setWidth 32) 0

/-- The bytes of a word, the top bits first. -/
def sm3Bytes (w : Word) : List Byte := (natBytes 4 w.toNat).reverse

/-- The message with its padding: one bit 1, zeros, and the length in bits, to a multiple of 64 bytes. -/
def sm3Pad (bs : List Byte) : List Byte :=
  bs ++ 0x80 :: List.replicate ((119 - bs.length % 64) % 64) 0 ++ (natBytes 8 (8 * bs.length)).reverse

/-- The permutation of the message expansion. -/
def sm3P1 (x : Word) : Word := x ^^^ x.rotateLeft 15 ^^^ x.rotateLeft 23
/-- The permutation of the compression. -/
def sm3P0 (x : Word) : Word := x ^^^ x.rotateLeft 9 ^^^ x.rotateLeft 17

/-- Append `n` words of the expansion to the last 16, which `w` holds with the newest first. -/
def sm3Expand : Nat → List Word → List Word
  | 0, w => w
  | n + 1, w =>
    let g := fun (k : Nat) => w.getD (k - 1) 0
    sm3Expand n ((sm3P1 (g 16 ^^^ g 9 ^^^ (g 3).rotateLeft 15) ^^^ (g 13).rotateLeft 7 ^^^ g 6) :: w)

/-- The eight registers of the compression. -/
structure Sm3Regs where
  a : Word
  b : Word
  c : Word
  d : Word
  e : Word
  f : Word
  g : Word
  h : Word
deriving DecidableEq, Repr

/-- Round `j` with the words W and W'. -/
def sm3Round (r : Sm3Regs) (j : Nat) (w w' : Word) : Sm3Regs :=
  let t : Word := if j < 16 then 0x79cc4519 else 0x7a879d8a
  let ff : Word := if j < 16 then r.a ^^^ r.b ^^^ r.c else (r.a &&& r.b) ||| (r.a &&& r.c) ||| (r.b &&& r.c)
  let gg : Word := if j < 16 then r.e ^^^ r.f ^^^ r.g else (r.e &&& r.f) ||| (~~~r.e &&& r.g)
  let ss1 := (r.a.rotateLeft 12 + r.e + t.rotateLeft (j % 32)).rotateLeft 7
  let ss2 := ss1 ^^^ r.a.rotateLeft 12
  { a := ff + r.d + ss2 + w', b := r.a, c := r.b.rotateLeft 9, d := r.c, e := sm3P0 (gg + r.h + ss1 + w), f := r.e, g := r.f.rotateLeft 19, h := r.g }

/-- The rounds from `j` on over the expanded words. -/
def sm3Rounds : Nat → Nat → List Word → Sm3Regs → Sm3Regs
  | 0, _, _, r => r
  | n + 1, j, ws, r =>
    match ws with
    | [] => r
    | w :: t => sm3Rounds n (j + 1) t (sm3Round r j w (w ^^^ t.getD 3 0))

/-- Compress one block of 64 bytes. -/
def sm3Block (v : Sm3Regs) (bs : List Byte) : Sm3Regs :=
  let w0 := (List.range 16).map (fun k => sm3Word ((bs.drop (4 * k)).take 4))
  let r := sm3Rounds 64 0 (sm3Expand 52 w0.reverse).reverse v
  { a := v.a ^^^ r.a, b := v.b ^^^ r.b, c := v.c ^^^ r.c, d := v.d ^^^ r.d, e := v.e ^^^ r.e, f := v.f ^^^ r.f, g := v.g ^^^ r.g, h := v.h ^^^ r.h }

/-- Compress `n` blocks. -/
def sm3Blocks : Nat → List Byte → Sm3Regs → Sm3Regs
  | 0, _, v => v
  | n + 1, bs, v => sm3Blocks n (bs.drop 64) (sm3Block v (bs.take 64))

/-- The SM3 digest of a byte string: a number whose 32 bytes, lowest first, are the digest's bytes in their order. -/
def sm3 (bs : List Byte) : BitVec 256 :=
  let p := sm3Pad bs
  let v := sm3Blocks (p.length / 64) p
    { a := 0x7380166f, b := 0x4914b2b9, c := 0x172442d7, d := 0xda8a0600, e := 0xa96f30bc, f := 0x163138aa, g := 0xe38dee4d, h := 0xb0fb0e4e }
  BitVec.ofNat 256 (bytesNat ([v.a, v.b, v.c, v.d, v.e, v.f, v.g, v.h].flatMap sm3Bytes))

end Sys2Proof.Machine
end

