-- ==== Sys2Proof/Machine/Queue.lean ====
section
/-! DEFINITION. The queue unit: taking entries, completion records, LAUNCH, TIMELINE, POST, WAITFLAG, SIGNAL and COPY, and the end of a launch (R98, R387 to R398). -/

namespace Sys2Proof.Machine

/-! ## Taking entries (R388 to R391) -/

/-- What stands at the head of a queue: nothing to take, a reason to stop (R389), or an entry. -/
inductive QHead where
  | idle
  | stop (reason : Nat)
  | entry (bs : List Byte)

/-- A queue. -/
def queueAt (s : State) (n : Nat) : Queue := mget {} s.queues n

/-- Read `n` bytes for queue `q`: physical for queue 0, else in its partition (R387, R388). -/
def qread (s : State) (q : Queue) (a n : Nat) : State × Except (Byte × Nat) (List Byte) :=
  if q.physical then
    (if !(inMem a n) then (s, .error (0x11, a))
     else let r := probe s {} a n; if r.2 then (r.1, .error (0x12, a)) else (r.1, .ok (rdB r.1 a n)))
  else vreadAll s { part := q.part } a n

/-- Write bytes for a queue. -/
def qwrite (s : State) (physical : Bool) (part a : Nat) (bs : List Byte) : State × Option (Byte × Nat) :=
  if physical then
    (if !(inMem a bs.length) then (s, some (0x11, a))
     else match pwrite s a bs with | (s, none) => (s, none) | (s, some c) => (s, some (c, a)))
  else vwriteAll s { part := part } a bs

/-- The head of queue `n` (R389). In low-water service only queue 0 is served (R442). -/
def queueHead (s : State) (n : Nat) : State × QHead :=
  match mfind s.queues n with
  | none => (s, .idle)
  | some q =>
    if q.closing || q.stopped != 0 || (lowWater s && n != 0) then (s, .idle)
    else
      match qread s q q.tailw 4 with
      | (s, .error _) => (s, .stop 2)
      | (s, .ok t) =>
        let tail := BitVec.ofNat 32 (bytesNat t)
        if tail == q.head then (s, .idle)
        else if 2 ^ q.size < (tail - q.head).toNat then (s, .stop 1)
        else
          match qread s q (q.base + q.head.toNat % 2 ^ q.size * 128) 128 with
          | (s, .error _) => (s, .stop 2)
          | (s, .ok bs) => (s, .entry bs)

/-- Write HEADW afresh (R389). -/
def writeHeadw (s : State) (n : Nat) : State :=
  let q := queueAt s n
  (qwrite s q.physical q.part q.headw (natBytes 8 (q.head.toNat + (if q.stopped == 0 then 0 else 2 ^ 32) + q.stopped * 2 ^ 33))).1

/-- A queue stops (R389). -/
def stopQueue (s : State) (n reason : Nat) : State :=
  writeHeadw { s with queues := mmodify s.queues n (fun q => { q with stopped := reason }) } n

/-- The head entry is taken. -/
def takeHead (s : State) (n : Nat) : State := writeHeadw { s with queues := mmodify s.queues n (fun q => { q with head := q.head + 1 }) } n

/-- A command that holds every later entry of its queue: a WAITFLAG whose condition does not hold yet, a POST that waits for room (R312, R391). -/
def holdsQueue (c : Cmd) : Bool := (c.kind == 4 && c.fin.isNone) || c.kind == 3

/-- Some entry of the queue has been taken and has not completed. -/
def queueBusy (s : State) (n : Nat) : Bool := s.cmds.any (fun c => c.queue == n) || s.launches.any (fun l => l.2.queue == n)

/-- The head entry may start now (R391, R443). -/
def mayStart (s : State) (n : Nat) (bs : List Byte) : Bool :=
  let kind := at_ bs 0 1
  !(s.cmds.any (fun c => c.queue == n && holdsQueue c)) &&
  !((at_ bs 1 1 % 2 == 1 || kind == 7 || kind == 8) && queueBusy s n) &&
  !((kind == 1 || kind == 2) && 256 ≤ s.launches.length) && !(kind == 1 && s.stage == 0x05)

/-- An entry breaks its header's rules (R390). -/
def badHeader (bs : List Byte) : Bool :=
  let kind := at_ bs 0 1
  kind == 0 || 8 < kind || at_ bs 1 1 / 4 != 0 || at_ bs 2 6 != 0 || at_ bs 16 8 / 2 ^ 56 != 0 || at_ bs 16 8 % 32 != 0

/-- The entry just read as a command of its queue. Its record goes to the address that CREC [55:0] names, whatever stands above it; a misaligned one names none (log entry 41). -/
def cmdOf (s : State) (n : Nat) (bs : List Byte) : Cmd :=
  let q := queueAt s n
  let crec := at_ bs 16 8
  { queue := n, n := 2 ^ 32 * q.epoch + q.head.toNat, kind := at_ bs 0 1, part := q.part, physical := q.physical, stamp := BitVec.ofNat 64 (at_ bs 8 8)
    crec := if crec % 32 != 0 then 0 else crec % 2 ^ 56, norec := (BitVec.ofNat 8 (at_ bs 1 1)).getLsbD 1, body := bs }

/-- Bytes `o` to `o + n - 1` of a command's entry, as a number. -/
def Cmd.f (c : Cmd) (o n : Nat) : Nat := at_ c.body o n

/-! ## Completion (R393, R394) -/

/-- The 32 bytes of a completion record. -/
def recordBytes (code flags lid : Nat) (stamp : Dword) (when_ queue n : Nat) : List Byte :=
  natBytes 4 (2 ^ 31 + (if code == 0 then 0 else 2 ^ 30) + code * 2 ^ 16 + flags) ++ natBytes 4 lid ++ natBytes 8 stamp.toNat ++ natBytes 8 when_ ++
  natBytes 4 queue ++ natBytes 4 n

/-- The fault record of a command (R392, R394): TYPE is the cause, ADDR the failing address. -/
def cmdFault (s : State) (c : Cmd) (cause : Byte) (addr : Nat) : State :=
  postRec s { typ := cause, hw := true, impr := true, part := c.part, stamp := c.stamp, addr := BitVec.ofNat 64 addr } .nobody

/-- The record of a command parked on an absent page (R392). -/
def cmdPark (s : State) (c : Cmd) (addr : Nat) (wr : Bool) : State :=
  postRec s
    { typ := 0x10, hw := modeBit s c.part 0, impr := true, part := c.part, stamp := c.stamp, addr := BitVec.ofNat 64 addr, detail := if wr then 1 else 0 }
    (.cmd c.queue c.n)

/-- A closed queue goes once its taken entries have completed (R387). -/
def closeQueues (s : State) : State := { s with queues := s.queues.filter (fun p => !p.2.closing || queueBusy s p.1) }

/-- Is this the command? -/
def sameCmd (c d : Cmd) : Bool := c.queue == d.queue && c.n == d.n
/-- The command is over. -/
def dropCmd (s : State) (c : Cmd) : State := closeQueues { s with cmds := s.cmds.filter (fun d => !(sameCmd c d)) }
/-- Note how far a command has come. -/
def putCmd (s : State) (c : Cmd) : State :=
  { s with cmds := if s.cmds.any (sameCmd c) then s.cmds.map (fun d => if sameCmd c d then c else d) else s.cmds ++ [c] }
/-- A command of a queue. -/
def cmdAt (s : State) (q n : Nat) : Option Cmd := s.cmds.find? (fun c => c.queue == q && c.n == n)

/-- Complete a command. Its record is written unless NOREC holds it back; a COPY, WAITFLAG or SIGNAL whose record lies on an absent page parks
(R390, R392). -/
def complete (s : State) (c : Cmd) (code lid flags when_ : Nat) : State :=
  if c.crec == 0 || (c.norec && code == 0) then dropCmd s c
  else
    match qwrite s c.physical c.part c.crec (recordBytes code flags lid c.stamp when_ c.queue c.n) with
    | (s, none) => dropCmd s c
    | (s, some (e, a)) =>
      if e == 0x10 && 4 ≤ c.kind && c.kind ≤ 6 then cmdPark (putCmd s { c with fin := some (code, when_), parked := true }) c a true
      else dropCmd (cmdFault s c e a) c

/-- Complete a command now with a status. -/
def finishCmd (s : State) (c : Cmd) (code : Nat) : State := complete s c code 0 0 s.clock
/-- A command fails with a fault of its addresses. -/
def failCmd (s : State) (c : Cmd) (cause : Byte) (addr : Nat) : State := finishCmd (cmdFault s c cause addr) c 0x0A

/-- Take the head entry of queue `arg.a` when it may start and `want` picks it: a stop condition stops the queue, a bad header completes with BADENTRY,
and otherwise `run` starts it. -/
def takeEntry (s : State) (want : List Byte → Bool) (run : State → Cmd → State) : State :=
  let n := s.arg.a
  match queueHead s n with
  | (_, .idle) => s
  | (s, .stop r) => stopQueue s n r
  | (s1, .entry bs) =>
    if !(want bs) || !(mayStart s n bs) then s
    else
      let c := cmdOf s1 n bs
      let s := takeHead s1 n
      if badHeader bs then finishCmd s c 0x01 else run s c

/-- Entries of one KIND. -/
def kindIs (k : Nat) (bs : List Byte) : Bool := at_ bs 0 1 == k

/-- QUEUE_ENTRY_BADENTRY (R390, R446): the head entry of queue `arg.a` has an unknown KIND, or an unknown SUB of PARTITION. -/
def execQueueEntryBadentry (s : State) : Host.Outcome State Fault Refusal :=
  .next (takeEntry s (fun bs => let k := at_ bs 0 1; k == 0 || 8 < k || (k == 7 && 6 < at_ bs 24 1))
    (fun s c => finishCmd s c (if c.kind == 7 && c.queue != 0 then 0x08 else 0x01)))

/-! ## Launches (R395 to R398) -/

/-- A dependence (R397). -/
def depOf (bs : List Byte) (o : Nat) : Dep :=
  { plid := at_ bs o 4, a := (BitVec.ofNat 16 (at_ bs (o + 4) 2)).toInt, w := at_ bs (o + 6) 2, b := (BitVec.ofNat 32 (at_ bs (o + 8) 4)).toInt }

/-- A launch descriptor from its 256 bytes (R395). -/
def descOf (bs : List Byte) : Desc :=
  let f := at_ bs
  { kind := f 0 1, gang := fld (f 1 1) 1 1 == 1, strict := fld (f 1 1) 0 0 == 1, job := f 2 2, expert := BitVec.ofNat 10 (f 4 4), regs := f 8 1, sregs := f 9 1
    accs := f 10 1, team := f 11 1, cohort := f 12 1, shelfg := f 13 1, scratch := f 0x10 4, nsg := f 0x14 4, text := f 0x18 8, entry := f 0x20 4
    trapv := f 0x24 4, htab := f 0x28 4, hcount := f 0x2C 4, p := f 0x30 8, q := f 0x38 8, stamp := f 0x40 8, ctx := f 0x48 8, lid := f 0x50 4, age := f 0x54 2
    w := f 0x56 2, lookahead := f 0x58 8, tltab := f 0x60 8, tlcomm := f 0x68 1, map := f 0x70 8, dep0 := depOf bs 0x80, dep1 := depOf bs 0xA0 }

/-- A number lies in a range. -/
def within (lo n hi : Nat) : Bool := lo ≤ n && n ≤ hi

/-- A descriptor keeps the field rules of R395 for its kind. -/
def descOk (d : Desc) (bs : List Byte) (kind : Nat) : Bool :=
  let f := at_ bs
  let top := fun (a : Nat) => a < 2 ^ 56
  let deps := d.expert.getLsbD 7
  d.kind == kind && f 1 1 < 4 && f 4 4 < 1024 && within 1 d.regs 64 && within 1 d.sregs 64 && d.accs ≤ 8 && within 1 d.team 32 && within 1 d.cohort 4 &&
  within 1 d.shelfg 4 && f 0xE 2 == 0 && d.scratch % 1024 == 0 && d.scratch ≤ 524288 && d.text % 4096 == 0 && top d.text &&
  (d.trapv == 0xFFFFFFFF || d.trapv % 64 == 0) && top d.p && d.ctx % 256 == 0 && top d.ctx && d.age < 128 && (!(d.expert.getLsbD 4) || within 1 d.age 64) &&
  (!(d.expert.getLsbD 3) || d.w ≤ 40) && top d.tltab && (d.tlcomm < 64 || d.tlcomm == 255) && f 0x69 7 == 0 && top d.map && f 0x78 8 == 0 && f 0xC0 32 == 0 && f 0xE0 32 == 0 &&
  (!deps || (d.dep0.w ≤ 256 && d.dep1.w ≤ 256 && f 0x8C 20 == 0 && f 0xAC 20 == 0)) &&
  (if kind == 2 then d.team == 1 && d.cohort == 1 && d.shelfg == 1 && d.nsg == 0 && d.entry == 0 && within 1 d.hcount 65536 && 16 ≤ d.regs &&
      within 1 d.lookahead (2 ^ 63) && !(deps && (d.dep0.w != 0 || d.dep1.w != 0))
   else within 1 d.nsg 65536 && d.hcount == 0)

/-- One team fits on an empty isle (R30); distinct isles of an empty atoll then hold any cohort. -/
def teamFits (d : Desc) : Bool :=
  let n := teamNeed d
  n.slots ≤ 32 && n.regs ≤ 256 * 1024 && n.accs ≤ 256 * 1024 && n.scratch ≤ 512 * 1024

/-- A dependence resolved at acceptance: one at the basic level, unused, or without an unretired producer is met in full (R397, R398). -/
def resolveDep (s : State) (part : Nat) (d : Desc) (x : Dep) : Dep :=
  if !(d.expert.getLsbD 7) then { x with w := 0 }
  else if x.plid == d.lid then { x with map := d.map, np := teamCount d, part := part }
  else match mfind s.launches x.plid with
    | some p => { x with map := p.desc.map, np := teamCount p.desc, part := p.part }
    | none => { x with w := 0 }

/-- A producer that a dependence in use names has MAP 0 (R398). -/
def noMap (s : State) (d : Desc) (x : Dep) : Bool :=
  d.expert.getLsbD 7 && x.w != 0 && (if x.plid == d.lid then d.map == 0 else match mfind s.launches x.plid with | some p => p.desc.map == 0 | none => false)

/-- The status that refuses a launch, in the order of the codes (log entry 16). -/
def launchRefused (s : State) (c : Cmd) (d : Desc) (bs : List Byte) : Option Nat :=
  if !(descOk d bs c.kind) then some 0x02
  else if !(teamFits d) || (partOf s c.part).mask == 0 then some 0x03
  else if d.lid == 0 || (mfind s.launches d.lid).isSome then some 0x04
  else if noMap s d d.dep0 || noMap s d d.dep1 then some 0x05 else none

/-- Bytes of a completion bitmap set to zero (R398). -/
def clearMap (s : State) (part : Nat) (d : Desc) : State × Option (Byte × Nat) :=
  if d.map == 0 then (s, none) else vwriteAll s { part := part } d.map (List.replicate ((teamCount d + 7) / 8) 0)

/-- A launch is accepted: measured (R446), listed, its units noted ready. -/
def acceptLaunch (s : State) (c : Cmd) (d : Desc) (bs : List Byte) : State :=
  let q := queueAt s c.queue
  let log := sm3 (natBytes 32 s.mLog.toNat ++ natBytes 32 (sm3 bs).toNat)
  let d' := { d with dep0 := resolveDep s c.part d d.dep0, dep1 := resolveDep s c.part d d.dep1 }
  noteReady { s with
    mLog := log, mCount := s.mCount + 1, accepts := s.accepts + 1
    launches := minsert s.launches d.lid
      { desc := d', part := c.part, queue := c.queue, entry := c.n, crec := c.crec, cstamp := c.stamp, norec := c.norec, physical := c.physical, prio := q.prio
        accept := s.accepts } }

/-- Read the descriptor that a LAUNCH or TIMELINE names, check it, and go on (R392, R395). -/
def readDesc (s : State) (c : Cmd) (go : State → Desc → List Byte → State) : State :=
  let a := c.f 24 8
  if (mfind s.parts c.part).isNone then finishCmd s c 0x03
  else if 2 ^ 56 ≤ a || a % 64 != 0 then finishCmd s c 0x02
  else
    match vreadAll s { part := c.part } a 256 with
    | (s, .error (e, a)) => failCmd s c e a
    | (s, .ok bs) =>
      let d := descOf bs
      match launchRefused s c d bs with
      | some code => finishCmd s c code
      | none => go s d bs

/-- LAUNCH (R392): the head entry of queue `arg.a` starts a plain launch. -/
def execLaunch (s : State) : Host.Outcome State Fault Refusal :=
  .next (takeEntry s (kindIs 1) (fun s c => readDesc s c (fun s d bs =>
    match clearMap s c.part d with
    | (s, some (e, a)) => failCmd s c e a
    | (s, none) => acceptLaunch s c d bs)))

/-- An area of a shelf table lies, where it is mapped, in the memory it must occupy (R304, R396). DESIGN CHOICE (log entry 51): a spill area is aligned to 64 bytes as a record area is,
and is judged in a partition whose FAR bit is 0 too. -/
def areaOk (s : State) (part a n : Nat) (tier : Bool) : Bool :=
  a % 64 == 0 && a + n ≤ 2 ^ 56 && (pieces (n / 65536 + 2) a n).all (fun p =>
    match mfind s.parts part with
    | none => false
    | some q =>
      match walkAt s (lowWater s) p.1 walkLevels 0 q.root with
      | .leaf e _ => (fld e 62 62 == 1) == tier
      | _ => true)

/-- One entry of the timeline shelf table (R396). -/
def shoalOf (bs : List Byte) : Shoal :=
  { base := at_ bs 0 8, recs := 2 ^ at_ bs 8 1, slots := 2 ^ at_ bs 9 1, spillBase := at_ bs 16 8, spillSize := at_ bs 24 8 }

/-- An entry keeps its limits. -/
def shoalOk (s : State) (part : Nat) (bs : List Byte) : Bool :=
  let h := shoalOf bs
  within 10 (at_ bs 8 1) 30 && within 10 (at_ bs 9 1) 28 && areaOk s part h.base (64 * h.recs) false && areaOk s part h.spillBase h.spillSize true

/-- The group of a timeline launch: its members in ascending order (R305), for a launch of no fabric job itself alone (R51); `none` when its communicator is not READY. -/
def timeGroup (s : State) (d : Desc) : Option (List (BitVec 12)) :=
  if d.tlcomm == 255 || d.job == 0 then some [s.deviceId]
  else match mfind s.comms d.tlcomm with
    | some c => if c.st == .ready then some (sortBy (fun m => m.toNat) c.members) else none
    | none => none

/-- The handler table's entries that are not empty (R304). -/
def handlersOf (bs : List Byte) (n : Nat) : Map Nat :=
  ((List.range n).map (fun k => (k, at_ bs (4 * k) 4))).filter (fun p => p.2 != 0xFFFFFFFF)

/-- Start the timeline of an accepted launch. -/
def startTimeline (s : State) (c : Cmd) (d : Desc) (shoals : Map Shoal) (hs : Map Nat) (ms : List (BitVec 12)) : State :=
  let q := queueAt s c.queue
  let tail := match (qread s q q.tailw 4).2 with | .ok t => BitVec.ofNat 32 (bytesNat t) | .error _ => q.head
  let g := (ms.findIdx? (fun m => m == s.deviceId)).getD 0
  { s with timelines := minsert s.timelines d.lid { n := ms.length, g := g, members := ms, handlers := hs, hostUntil := tail, shoals := shoals } }

/-- TIMELINE (R392, R396): the head entry of queue `arg.a` starts a timeline launch. Low-water service refuses it (R442). -/
def execTimeline (s : State) : Host.Outcome State Fault Refusal :=
  .next (takeEntry s (kindIs 2) (fun s c =>
    if lowWater s then finishCmd s c 0x02
    else readDesc s c (fun s d bs =>
      match vreadAll s { part := c.part } d.tltab 512 with
      | (s, .error (e, a)) => failCmd s c e a
      | (s, .ok tab) =>
        let es := (List.range 16).map (fun k => (tab.drop (32 * k)).take 32)
        match timeGroup s d with
        | none => finishCmd s c 0x02
        | some ms =>
          if !(es.all (shoalOk s c.part)) then finishCmd s c 0x02
          else
            match vreadAll s { part := c.part } (d.text + d.htab) (4 * d.hcount) with
            | (s, .error (e, a)) => failCmd s c e a
            | (s, .ok hb) =>
              startTimeline (acceptLaunch s c d bs) c d (es.zipIdx.map (fun p => (p.2, shoalOf p.1))) (handlersOf hb d.hcount) ms)))

/-! ## The end of a launch (R98, R393) -/

/-- Launch of a crew key, a crew or the ghost of one. -/
def lidOf (s : State) (k : Nat) : Nat := match mfind s.ghosts k with | some c => c.lid | none => k / 2 ^ 26

/-- The launch has nothing left: its teams have retired, and its stores, replies, drains and copies are done (R98). -/
def launchOver (s : State) (lid : Nat) : Bool :=
  match mfind s.launches lid with
  | none => false
  | some l =>
    (if l.desc.kind == 2 then (timeAt s lid).done else l.retired.length == teamCount l.desc) && !(s.teams.any (fun t => t.2.lid == lid)) &&
    !(s.crews.any (fun c => c.2.lid == lid)) && !(s.wcb.any (fun w => w.owners.any (fun o => lidOf s o.crew == lid))) &&
    !(s.reqs.any (fun r => r.lid == lid)) && !(s.copies.any (fun o => o.lid == lid)) && !(s.matq.any (fun o => lidOf s o.crew == lid))

/-- LAUNCH_COMPLETE (R98): launch `arg.a` completes with its record. -/
def execLaunchComplete (s : State) : Host.Outcome State Fault Refusal :=
  let lid := s.arg.a
  match mfind s.launches lid with
  | none => .next s
  | some l =>
    if !(launchOver s lid) then .next s
    else
      let flags := (if l.nogang then 1 else 0) + (if l.late then 2 else 0) + (if l.pre then 4 else 0)
      let c : Cmd := { queue := l.queue, n := l.entry, kind := l.desc.kind, part := l.part, physical := l.physical, stamp := l.cstamp, crec := l.crec
                       norec := l.norec, body := [] }
      let s := { s with
        launches := merase s.launches lid, timelines := merase s.timelines lid, ghosts := s.ghosts.filter (fun g => g.2.lid != lid)
        armed := s.armed.filter (fun x => x != lid) }
      .next (noteReady (complete s c 0 lid flags s.clock))

/-! ## POST (R307, R312, R392) -/

/-- The event that a POST stores, with the host sequence number `n`. -/
def hostEvent (bs : List Byte) (n : Nat) : EvRec :=
  let e := evFrom ((bs.drop 32).take 64)
  { e with tail := fld e.tail 55 48 * 2 ^ 48 + n, host := true, remote := false }

/-- The unretired timeline launch of the queue's partition that a POST names. -/
def postLaunch (s : State) (c : Cmd) : Option Launch :=
  match mfind s.launches (c.f 24 4), mfind s.timelines (c.f 24 4) with
  | some l, some t => if l.desc.kind == 2 && l.part == c.part && !t.done then some l else none
  | _, _ => none

/-- An event record of a POST names an empty handler entry or breaks a zero field of R306. -/
def postBad (s : State) (c : Cmd) : Bool :=
  let m := c.f 48 8
  c.f 47 1 != 0 || m / 2 ^ 52 != 0 || fld m 23 19 != 0 || !(handlerOk (timeAt s (c.f 24 4)) (m % 65536))

/-- Store a POST's event if its home shelf has room. -/
def postStore (s : State) (c : Cmd) : Option State :=
  let lid := c.f 24 4
  let t := timeAt s lid
  let e := hostEvent c.body t.hostSeq
  match storeEvent s lid (homeShelf s c.part e.placeAddr e.tail) e with
  | some (s, h) => some (complete (updTime s lid (fun t => { t with hostSeq := t.hostSeq + 1 })) c 0 lid 0 h)
  | none => none

/-- A POST finds no room: it waits at the head of its queue, with one EVCAP record (R312). -/
def postWaits (s : State) (c : Cmd) : State :=
  let lid := c.f 24 4
  let e := hostEvent c.body (timeAt s lid).hostSeq
  let s := postRec s
    { typ := 0x21, impr := true, lid := BitVec.ofNat 32 lid, part := c.part, addr := BitVec.ofNat 64 (homeShelf s c.part e.placeAddr e.tail), stamp := c.stamp
      detail := BitVec.ofNat 64 e.time } .nobody
  putCmd s { c with lid := lid }

/-- Why a POST completes at once without storing. -/
def postRefused (s : State) (c : Cmd) : Option Nat :=
  if lowWater s then some 0x01
  else if (postLaunch s c).isNone then some 0x06
  else if postBad s c then some 0x0B
  else if 2 ^ 24 ≤ (timeAt s (c.f 24 4)).hostSeq then some 0x07 else none

/-- A command of queue 0 taken while partition 0 is not defined (R388). -/
def noPart (s : State) (c : Cmd) : Bool := (mfind s.parts c.part).isNone
/-- Such a command completes with FAULT; its record gives PGPROT and the entry's address `a` (R388, R392, R427). -/
def noPartFault (s : State) (c : Cmd) (a : Nat) : State := failCmd s c 0x11 a

/-- POST (R392): the head entry of queue `arg.a` stores a host event, or waits at the head for room. -/
def execPost (s : State) : Host.Outcome State Fault Refusal :=
  match queueHead s s.arg.a with
  | (s1, .entry bs) =>
    let c := cmdOf s1 s.arg.a bs
    if kindIs 3 bs && mayStart s s.arg.a bs && !(badHeader bs) && !(noPart s1 c) && (postRefused s1 c).isNone && (postStore s1 c).isNone then .next (postWaits s1 c)
    else .next (takeEntry s (kindIs 3) (fun s c =>
      if noPart s c && !(lowWater s) then noPartFault s c (c.f 56 8)
      else match postRefused s c with
      | some code => finishCmd s c code
      | none => (postStore s c).getD s))
  | _ => .next (takeEntry s (kindIs 3) (fun s _ => s))

/-- A waiting POST of a queue can be stored, or is refused: its launch has retired (R312), or other queues' POSTs have had the last sequence number (R307). -/
def postReady (s : State) (c : Cmd) : Bool := c.kind == 3 && ((postRefused s c).isSome || (postStore s c).isSome)

/-- POST_STORE_DELAYED (R312): POST `arg.b` at the head of queue `arg.a` is stored once its home shelf has room, or completes with the status that refuses it. -/
def execPostStoreDelayed (s : State) : Host.Outcome State Fault Refusal :=
  match cmdAt s s.arg.a s.arg.b with
  | none => .next s
  | some c =>
    if !(postReady s c) then .next s
    else
      let s := takeHead s c.queue
      match postRefused s c with
      | some code => .next (finishCmd s c code)
      | none => .next ((postStore s c).getD s)

/-! ## WAITFLAG, SIGNAL and COPY (R392) -/

/-- Fields of a WAITFLAG or SIGNAL lie within the values that R392 gives. -/
def flagFields (c : Cmd) (top : Nat) : Bool := c.f 24 8 < 2 ^ 56 && c.f 40 1 ≤ top && (c.f 41 1 == 32 || c.f 41 1 == 64)

/-- The condition of a WAITFLAG holds of word `x`. -/
def flagHolds (c : Cmd) (x : Nat) : Bool :=
  let m := 2 ^ c.f 41 1
  let v := c.f 32 8 % m
  if c.f 40 1 == 0 then x == v else if c.f 40 1 == 1 then x != v else (x + m - v) % m < m / 2

/-- The word of a WAITFLAG or SIGNAL. -/
def flagRead (s : State) (c : Cmd) : State × Except (Byte × Nat) Nat :=
  let n := c.f 41 1 / 8
  if c.f 24 8 % n != 0 then (s, .error (0x05, c.f 24 8))
  else match vread s { part := c.part } (c.f 24 8) n .rd with
    | (s, .ok bs) => (s, .ok (bytesNat bs))
    | (s, .error e) => (s, .error (e, c.f 24 8))

/-- Read the word of a pending WAITFLAG: it completes, parks, fails, or goes on waiting. -/
def pollFlag (s : State) (c : Cmd) : State :=
  match flagRead s c with
  | (s, .ok x) => if flagHolds c x then finishCmd s { c with fin := some (0, s.clock) } 0 else putCmd s { c with aux := s.clock }
  | (s, .error (e, a)) => if e == 0x10 then cmdPark (putCmd s { c with parked := true }) c a false else failCmd s c e a

/-- WAITFLAG (R392): the head entry of queue `arg.a` starts to wait. -/
def execWaitflag (s : State) : Host.Outcome State Fault Refusal :=
  .next (takeEntry s (kindIs 4) (fun s c =>
    if !(flagFields c 2) then finishCmd s c 0x01 else if noPart s c then noPartFault s c (c.f 24 8) else pollFlag s c))

/-- A poll of a waiting WAITFLAG is due: its read would end the wait, or 10 µs have passed since the last. -/
def pollDue (s : State) (c : Cmd) : Bool :=
  c.kind == 4 && c.fin.isNone && !c.parked && (c.aux + us 10 ≤ s.clock || (match (flagRead s c).2 with | .ok x => flagHolds c x | .error _ => true))

/-- WAITFLAG_POLL (R392): WAITFLAG `arg.b` of queue `arg.a` reads its word again. -/
def execWaitflagPoll (s : State) : Host.Outcome State Fault Refusal :=
  match cmdAt s s.arg.a s.arg.b with
  | some c => if c.kind == 4 && c.fin.isNone && !c.parked then .next (pollFlag s c) else .next s
  | none => .next s

/-- An entry comes before another of its queue: one of an earlier declaration (R387), or one of a lower number of the same. -/
def before (m n : Nat) : Bool := if m / 2 ^ 32 == n / 2 ^ 32 then m != n && (n + 2 ^ 32 - m) % 2 ^ 32 < 2 ^ 31 else m / 2 ^ 32 < n / 2 ^ 32
/-- Every earlier entry of the command's queue has completed (R391). -/
def earlierDone (s : State) (c : Cmd) : Bool :=
  !(s.cmds.any (fun d => d.queue == c.queue && before d.n c.n)) && !(s.launches.any (fun l => l.2.queue == c.queue && before l.2.entry c.n))

/-- The write of a SIGNAL. -/
def signalWrite (s : State) (c : Cmd) : State :=
  let n := c.f 41 1 / 8
  let a := c.f 24 8
  let park := fun (s : State) (e : Byte) (wr : Bool) => if e == 0x10 then cmdPark (putCmd s { c with parked := true }) c a wr else failCmd s c e a
  let old := if c.f 40 1 == 1 then flagRead s c else (s, .ok 0)
  match old with
  | (s, .error (e, _)) => park s e false
  | (s, .ok x) =>
    if a % n != 0 then park s 0x05 true
    else match vwrite s { part := c.part } a (natBytes n (x + c.f 32 8)) with
      | (s, some e) => park s e true
      | (s, none) => finishCmd s c 0

/-- A pending SIGNAL may write. -/
def signalReady (s : State) (c : Cmd) : Bool := c.kind == 5 && c.fin.isNone && !c.parked && earlierDone s c

/-- SIGNAL (R391, R392): the head entry of queue `arg.a` is taken; it writes once every earlier entry has completed. With `arg.c` 1, SIGNAL `arg.b` writes now. -/
def execSignal (s : State) : Host.Outcome State Fault Refusal :=
  if s.arg.c == 1 then
    match cmdAt s s.arg.a s.arg.b with
    | some c => if signalReady s c then .next (signalWrite s c) else .next s
    | none => .next s
  else
    .next (takeEntry s (kindIs 5) (fun s c =>
      if !(flagFields c 1) then finishCmd s c 0x01
      else if noPart s c then noPartFault s c (c.f 24 8)
      else if earlierDone s c then signalWrite s c else putCmd s c))

/-- COPY (R392): the head entry of queue `arg.a` starts a copy by the base-die units. -/
def execCopy (s : State) : Host.Outcome State Fault Refusal :=
  .next (takeEntry s (kindIs 6) (fun s c =>
    if c.f 40 4 == 0 || 2 ^ 56 ≤ c.f 24 8 || 2 ^ 56 ≤ c.f 32 8 then finishCmd s c 0x01 else if noPart s c then noPartFault s c (c.f 24 8) else putCmd s c))

/-- The bytes still to be copied, in pieces that cross no destination line, so that a full line is written whole (R435). -/
def copyRun : Nat → State → Cmd → State × Cmd × Option (Byte × Nat × Bool)
  | 0, s, c => (s, c, none)
  | fuel + 1, s, c =>
    let left := c.f 40 4 - c.aux
    if left == 0 then (s, c, none)
    else
      let sa := c.f 24 8 + c.aux
      let da := c.f 32 8 + c.aux
      let k := min left (128 - da % 128)
      let n := if sa < 2 ^ 56 then min k (2 ^ 56 - sa) else k
      if 2 ^ 56 < sa + n then (s, c, some (0x13, sa, false))
      else if 2 ^ 56 < da + n then (s, c, some (0x13, da, true))
      else
        match vreadAll s { part := c.part } sa n with
        | (s, .error (e, a)) => (s, c, some (e, a, false))
        | (s, .ok bs) =>
          match vwrite s { part := c.part } da bs with
          | (s, some e) => (s, c, some (e, da, true))
          | (s, none) => copyRun fuel s { c with aux := c.aux + n }

/-- QUEUE_COPY_COMPLETE (R392): the bytes of COPY `arg.b` of queue `arg.a` are copied; on an absent page it parks. -/
def execQueueCopyComplete (s : State) : Host.Outcome State Fault Refusal :=
  match cmdAt s s.arg.a s.arg.b with
  | none => .next s
  | some c =>
    if c.kind != 6 || c.fin.isSome || c.parked then .next s
    else
      match copyRun (c.f 40 4) s c with
      | (s, c, none) => .next (finishCmd s c 0)
      | (s, c, some (e, a, wr)) => if e == 0x10 then .next (cmdPark (putCmd s { c with parked := true }) c a wr) else .next (failCmd s c e a)

/-- A command parked on an absent page has its answer: it goes on, or completes with FAULT, its record being the one refused (log entry 17); one whose record lay there
tries it again, or is over (R392). -/
def answerCmd (s : State) (q n : Nat) (mapped : Bool) : State :=
  match cmdAt s q n with
  | none => s
  | some c =>
    let c := { c with parked := false }
    match c.fin with
    | some (code, w) => if mapped then complete s { c with fin := none } code 0 0 w else dropCmd s c
    | none => if mapped then putCmd s c else finishCmd (putCmd s c) c 0x0A

end Sys2Proof.Machine
end

