-- ==== Sys2Proof/Machine/Part.lean ====
section
/-! DEFINITION. PARTITION in its eight forms, CHECKPOINT and its restoration (R105, R376, R387, R401, R427, R431, R439, R446, R447, R449). -/

namespace Sys2Proof.Machine

/-! ## What every form shares -/

/-- A PARTITION entry of one SUB. -/
def subIs (k : Nat) (bs : List Byte) : Bool := kindIs 7 bs && at_ bs 24 1 == k

/-- Take a PARTITION entry: only queue 0 may bring one (R392), low-water service knows SUB 0, 1, 3, 4 and 5 (R442), and the partition is 0 to 15. -/
def takePartition (s : State) (k : Nat) (run : State → Cmd → State) : State :=
  takeEntry s (subIs k) (fun s c =>
    if c.queue != 0 then finishCmd s c 0x08
    else if (lowWater s && (k == 2 || k == 6)) || 15 < c.f 25 1 then finishCmd s c 0x01 else run s c)

/-- Physical bytes that a PARTITION or CHECKPOINT command reads (R388). -/
def pread (s : State) (a n : Nat) : State × Except (Byte × Nat) (List Byte) := qread s { physical := true } a n

/-- A page-table root is a multiple of 2 KiB in memory, in the second tier in low-water service (R427, R442). -/
def rootOk (s : State) (a : Nat) : Bool := a % 2048 == 0 && inMem a 2048 && !(lowWater s && isHbm a)

/-- Forget every translation of a partition that meets a range; length 0 stands for all (R431). -/
def dropTlb (s : State) (part va n : Nat) : State :=
  let stays := fun (x : Nat × Nat × Nat × Nat × Dword) => x.2.1 != part || (n != 0 && (va + n ≤ x.2.2.1 || x.2.2.1 + x.2.2.2.1 ≤ va))
  { s with tlbIsle := s.tlbIsle.filter stays, tlbAtoll := s.tlbAtoll.filter stays }

/-! ## SET and RESIZE (R401) -/

/-- Nothing is resident on an atoll. -/
def atollEmpty (s : State) (a : Nat) : Bool :=
  !(s.crews.any (fun p => !p.2.saved && isleOf p.2.gcrew / 4 == a)) && !(s.teams.any (fun p => !p.2.saved && p.2.isle / 4 == a))
/-- An atoll is idle: in no partition, empty, and in service (R401, R442, R443). -/
def atollIdle (s : State) (a : Nat) : Bool := !(s.parts.any (fun p => p.2.mask.getLsbD a)) && atollEmpty s a && (s.stage == 0x06 || a < 16)
/-- The mask of the atolls for which `p` holds. -/
def atollMask (p : Nat → Bool) : BitVec 64 := (List.range 64).foldl (fun m a => if p a then m ||| BitVec.ofNat 64 (2 ^ a) else m) 0

/-- The idle atolls that a partition is to have join it. -/
def joinIdle (s : State) (p : Nat) : State :=
  let idle := atollMask (fun a => (partOf s p).want.getLsbD a && atollIdle s a)
  { s with parts := mmodify s.parts p (fun q => { q with mask := q.mask ||| idle }) }

/-- Every atoll has joined and every departing one is empty. -/
def partSettled (s : State) (p leaving : Nat) : Bool :=
  (partOf s p).want &&& ~~~((partOf s p).mask) == 0 && (List.range 64).all (fun a => !(leaving.testBit a) || atollEmpty s a)

/-- Go on with a SET or RESIZE: it completes once its atolls are as it asks (R401). -/
def partGoesOn (s : State) (c : Cmd) : State :=
  let s := joinIdle s (c.f 25 1)
  if partSettled s (c.f 25 1) c.aux then finishCmd s c 0 else putCmd s c

/-- Lane `L` of a copy has translated its addresses, one of them in the range of an INVAL of partition `p`, and has not performed yet (R431). -/
def laneHolds (o : CopyOp) (p va n L : Nat) : Bool :=
  let hits := fun (sp : Bool) (a : Nat) => !sp && (n == 0 || (va < a + o.w && a < va + n))
  o.part == p && o.ended.isNone && !(o.done.getLsbD L) && (hits o.srcSp (mget 0 o.src L) || hits o.dstSp (mget 0 o.dst L))
/-- Some access translated through a translation that an INVAL removes has neither performed nor faulted (R431). -/
def invalBusy (s : State) (c : Cmd) : Bool := s.copies.any (fun o => o.begun.any (fun b => laneHolds o (c.f 25 1) (c.f 32 8) (c.f 40 8) b.1))

/-- A pending SET, RESIZE or INVAL that can move on. -/
def partReady (s : State) (c : Cmd) : Bool :=
  let p := c.f 25 1
  c.kind == 7 && (if c.f 24 1 == 5 then !(invalBusy s c) else partSettled (joinIdle s p) p c.aux || (joinIdle s p).parts != s.parts)

/-- The fields of a SET, when they keep the limits of R427 and R449. -/
def setFields (s : State) (c : Cmd) : Option Part :=
  let root := c.f 64 8
  let p : Part :=
    { want := BitVec.ofNat 64 (c.f 32 8), mode := BitVec.ofNat 4 (c.f 40 4), key := BitVec.ofNat 16 (c.f 44 2), root := root, btab := c.f 72 8, pool := c.f 80 8
      psize := c.f 88 1, ptail := c.f 96 8, phead := c.f 104 8 }
  if rootOk s root && p.btab % 32 == 0 && p.pool % 4096 == 0 && within 4 p.psize 16 && c.f 89 7 == 0 && p.ptail % 4 == 0 && p.phead % 8 == 0 then
    some p else none

/-- PARTITION_SET (R401, R427, R449): the head entry of queue `arg.a` defines a partition; with `arg.b` 1, pending SET `arg.c` goes on. -/
def execPartitionSet (s : State) : Host.Outcome State Fault Refusal :=
  if s.arg.b == 1 then
    match cmdAt s s.arg.a s.arg.c with
    | some c => if c.kind == 7 && c.f 24 1 == 0 then .next (partGoesOn s c) else .next s
    | none => .next s
  else
    .next (takePartition s 0 (fun s c =>
      let p := c.f 25 1
      if (mfind s.parts p).isSome then finishCmd s c 0x09
      else match setFields s c with
        | none => finishCmd s c 0x02
        | some q => partGoesOn (dropTlb { s with parts := minsert s.parts p q } p 0 0) c))

/-- Save every cohort of a partition that is resident on departing atolls (R106, R401). -/
def saveLeaving (s : State) (leaving : Nat) : State :=
  let us := (s.teams.filter (fun t => !t.2.saved && leaving.testBit (t.2.isle / 4))).map (fun t => (t.2.lid, cohortOf s t.2))
  us.eraseDups.foldl (fun s u => saveCohort s u.1 u.2) s

/-- PARTITION_RESIZE (R401, R106): the head entry of queue `arg.a` gives a partition a new mask; with `arg.b` 1, pending RESIZE `arg.c` goes on. -/
def execPartitionResize (s : State) : Host.Outcome State Fault Refusal :=
  if s.arg.b == 1 then
    match cmdAt s s.arg.a s.arg.c with
    | some c => if c.kind == 7 && c.f 24 1 == 1 then .next (partGoesOn s c) else .next s
    | none => .next s
  else
    .next (takePartition s 1 (fun s c =>
      let p := c.f 25 1
      if (mfind s.parts p).isNone || 1 < c.f 26 1 then finishCmd s c 0x01
      else
        let new := BitVec.ofNat 64 (c.f 32 8)
        let leaving := ((partOf s p).mask &&& ~~~new).toNat
        let s := { s with parts := mmodify s.parts p (fun q =>
          { q with mask := q.mask &&& new, want := new, mode := BitVec.ofNat 4 (c.f 40 4), key := BitVec.ofNat 16 (c.f 44 2) }) }
        partGoesOn (if c.f 26 1 == 1 then saveLeaving s leaving else s) { c with aux := leaving }))

/-! ## Arrays of descriptors (R376, R387, R401) -/

/-- Apply the descriptors of an array in order and complete with the refusals. `one` answers `none` for a descriptor that it refuses. -/
def applyArray (s : State) (c : Cmd) (one : State → Nat → List Byte → Option State) : State :=
  let n := c.f 56 4
  if !(within 1 n 1024) then finishCmd s c 0x01
  else
    match pread s (c.f 48 8) (32 * n) with
    | (s, .error (e, a)) => failCmd s c e a
    | (s, .ok bs) =>
      let r := (List.range n).foldl (fun (acc : State × List Nat) i =>
        match one acc.1 i ((bs.drop (32 * i)).take 32) with
        | some s => (s, acc.2)
        | none => (acc.1, acc.2 ++ [i])) (s, [])
      match r.2 with
      | [] => finishCmd r.1 c 0
      | i :: _ => complete r.1 c 0x02 0 0 (i + r.2.length * 2 ^ 32)

/-- The lowest atoll of a partition. -/
def lowestAtoll (s : State) (p : Nat) : Nat := ((List.range 64).find? (fun a => (partOf s p).mask.getLsbD a)).getD 0

/-- The ferry that a descriptor declares or closes, when it keeps the limits of R376 and R377. -/
def ferryOf (s : State) (bs : List Byte) : Option Ferry :=
  let w0 := at_ bs 0 8
  let basic := fld w0 61 61 == 1
  let f : Ferry :=
    { en := fld w0 63 63 == 1, fabric := !basic && fld w0 62 62 == 1, prod := fld w0 60 57, cons := fld w0 56 53, cap := if basic then 64 else fld w0 52 46
      home := if basic then lowestAtoll s (fld w0 56 53) else fld w0 45 40, esize := if basic then 64 else fld w0 8 0, ovbase := at_ bs 8 8, ovcap := at_ bs 16 8 }
  if fld w0 39 9 == 0 && at_ bs 8 8 / 2 ^ 52 == 0 && at_ bs 16 8 / 2 ^ 24 == 0 && at_ bs 24 8 == 0 && within 1 f.cap 64 && f.esize % 4 == 0 && within 4 f.esize 256 && f.ovbase % 65536 == 0 && (f.ovcap == 0 || f.ovbase + f.ovcap * f.esize ≤ hbmSize) then some f
  else none

/-- Close a ferry: its elements are discarded, and every crew parked on it completes with CLOSED (R386). -/
def closeFerry (s : State) (n : Nat) : State :=
  let q := ferryAt s n
  let ps := s.crews.filterMap (fun p => (ferryWait s p.1 p.2).bind (fun w => if w.1 == n then some (p, w.2.1) else none))
  ps.foldl (fun s p => giveTurn s n p.1 p.2 none 3 0) (setFerry s n { q with en := false, everClosed := true, elems := [], granted := 0 })

/-- Apply one ferry descriptor, that of ferry `n` (R376, R386). One declared anew keeps its elements, and serves the crews parked on it (R382). -/
def declareFerry (s : State) (n : Nat) (bs : List Byte) : Option State :=
  let old := ferryAt s n
  match ferryOf s bs with
  | none => none
  | some f =>
    let f := { f with turns := old.turns, lastMove := old.lastMove }
    if !f.en then some (if old.en then closeFerry s n else s)
    else if !old.en then some (setFerry s n f)
    else if old.esize != f.esize then none
    else some (serveAll (layFerry s n { f with
      elems := old.elems, accepted := old.accepted, granted := old.granted, growAt := old.growAt, everClosed := old.everClosed }) n)

/-- PARTITION_FERRY (R376, R401): the head entry of queue `arg.a` declares, changes or closes ferries; descriptor i is that of ferry i. -/
def execPartitionFerry (s : State) : Host.Outcome State Fault Refusal := .next (takePartition s 2 (fun s c => applyArray s c declareFerry))

/-- Apply one queue descriptor for partition `p`, which keeps its limits also where it closes the queue; what stands in its reserved bits has no effect (R5, R387). The entries of a queue that is
declared anew while it closes have numbers of their own beside those still under way. -/
def declareQueue (p : Nat) (s : State) (bs : List Byte) : Option State :=
  let w0 := at_ bs 0 8
  let w3 := at_ bs 24 8
  let q := fld w3 11 0
  let old := queueAt s q
  let new : Queue :=
    { base := fld w0 55 0, tailw := at_ bs 8 7, headw := at_ bs 16 7, size := fld w3 28 24, weight := fld w3 23 16, prio := fld w3 14 12, part := p
      head := if (mfind s.queues q).isSome && !old.closing then old.head else 0
      epoch := if (mfind s.queues q).isSome then (if old.closing then old.epoch + 1 else old.epoch) else 0 }
  if q == 0 || (mfind s.parts p).isNone || !(within 4 new.size 16) || new.weight == 0 || new.base % 4096 != 0 || new.tailw % 4 != 0 || new.headw % 8 != 0 then none
  else if w0 / 2 ^ 63 == 0 then
    some (closeQueues { s with
      queues := mmodify s.queues q (fun q => { q with closing := true }), cmds := s.cmds.filter (fun c => !(c.queue == q && c.kind == 3)) })
  else some (writeHeadw { s with queues := minsert s.queues q new, cmds := s.cmds.filter (fun c => !(c.queue == q && c.kind == 3)) } q)

/-- PARTITION_QUEUE (R387, R401): the head entry of queue `arg.a` declares queues of its partition. -/
def execPartitionQueue (s : State) : Host.Outcome State Fault Refusal :=
  .next (takePartition s 3 (fun s c => applyArray s c (fun s _ bs => declareQueue (c.f 25 1) s bs)))

/-! ## CLEAR, INVAL and ATTEST -/

/-- PARTITION_CLEAR (R401): the head entry of queue `arg.a` undefines a partition that has no atoll, queue or unretired launch. -/
def execPartitionClear (s : State) : Host.Outcome State Fault Refusal :=
  .next (takePartition s 4 (fun s c =>
    let p := c.f 25 1
    let q := partOf s p
    if q.mask ||| q.want != 0 || s.queues.any (fun x => x.2.part == p) || s.launches.any (fun l => l.2.part == p) then finishCmd s c 0x09
    else finishCmd (dropTlb { s with parts := merase s.parts p } p 0 0) c 0))

/-- The translations of an INVAL's range are gone; it completes once every access translated through one of them has performed or faulted (R431). -/
def invalGoesOn (s : State) (c : Cmd) : State :=
  let s := dropTlb s (c.f 25 1) (c.f 32 8) (c.f 40 8)
  if invalBusy s c then putCmd s c else finishCmd s c 0

/-- PARTITION_INVAL (R431): the head entry of queue `arg.a` removes the translations of a range, after replacing the root in MODE 1; with `arg.b` 1, pending INVAL `arg.c` goes on. -/
def execPartitionInval (s : State) : Host.Outcome State Fault Refusal :=
  if s.arg.b == 1 then
    match cmdAt s s.arg.a s.arg.c with
    | some c => if c.kind == 7 && c.f 24 1 == 5 then .next (invalGoesOn s c) else .next s
    | none => .next s
  else
  .next (takePartition s 5 (fun s c =>
    let p := c.f 25 1
    if 1 < c.f 26 1 || c.f 40 8 % 65536 != 0 then finishCmd s c 0x01
    else if c.f 26 1 == 1 && !(rootOk s (c.f 64 8)) then finishCmd s c 0x02
    else
      invalGoesOn (if c.f 26 1 == 1 then { s with parts := mmodify s.parts p (fun q => { q with root := c.f 64 8 }) } else s) c))

/-- The 256 bytes of an attestation report (R446). -/
def attestReport (s : State) (nonce : List Byte) : List Byte :=
  let routes := (List.range 4096).flatMap (fun k => natBytes 4 (mget 0 s.routes k).toNat)
  let body := natBytes 4 1 ++ natBytes 4 s.deviceId.toNat ++ natBytes 8 s.clock ++ nonce ++ natBytes 32 s.mFw.toNat ++ natBytes 32 (sm3 routes).toNat ++
    natBytes 32 s.mLog.toNat ++ natBytes 8 s.mCount ++ List.replicate 40 0
  body ++ natBytes 64 (Config.sm2Sign body).toNat

/-- PARTITION_ATTEST (R446): the head entry of queue `arg.a` writes a signed report. -/
def execPartitionAttest (s : State) : Host.Outcome State Fault Refusal :=
  .next (takePartition s 6 (fun s c =>
    match qwrite s true 0 (c.f 48 8) (attestReport s ((c.body.drop 64).take 32)) with
    | (s, none) => finishCmd s c 0
    | (s, some (e, a)) => failCmd s c e a))

/-! ## CHECKPOINT (R105, R439, R447) -/

/-- Offset of stack 0 in a checkpoint's range. -/
def ckptStacks : Nat := 128 * 2 ^ 20

/-- Copy `n` keys from `lo` on to `dst` on; what stood there goes. -/
def moveKeys {α : Type} (m : Map α) (lo n dst : Nat) : Map α :=
  (m.filter (fun p => lo ≤ p.1 && p.1 < lo + n)).foldl (fun a p => minsert a (dst + (p.1 - lo)) p.2) (m.filter (fun p => p.1 < dst || dst + n ≤ p.1))

/-- The range that a CHECKPOINT names keeps the limits of R439. -/
def ckptRange (c : Cmd) : Bool :=
  let a := c.f 24 8
  let n := c.f 32 8
  a % 2 ^ 30 == 0 && hbmSize + ckptStacks ≤ n && tierBase ≤ a && a + n ≤ tierBase + tierSize

/-- The quiesce is over: nothing is resident, every copy has completed, every line has drained and every remote atomic has its reply (R105). -/
def quiesced (s : State) : Bool :=
  s.teams.all (fun t => t.2.saved) && s.crews.all (fun c => c.2.saved) && s.copies.isEmpty && !(s.cmds.any (fun c => c.kind == 6)) && s.wcb.isEmpty &&
  !(s.reqs.any (fun r => r.kind == .atom))

/-- CHECKPOINT (R105, R439): the head entry of queue `arg.a` stops dispatch and saves every resident cohort; with `arg.b` 1 the transfer starts once the device
is quiet. -/
def execCheckpoint (s : State) : Host.Outcome State Fault Refusal :=
  if s.arg.b == 1 then
    match s.ckpt with
    | some (a, n, t, none) => if quiesced s then .next { s with ckpt := some (a, n, t, some s.clock) } else .next s
    | _ => .next s
  else
    .next (takeEntry s (fun bs => kindIs 8 bs && at_ bs 40 1 != 1) (fun s c =>
      if c.queue != 0 then finishCmd s c 0x08
      else if lowWater s || c.f 40 1 != 0 then finishCmd s c 0x01
      else if !(ckptRange c) then finishCmd s c 0x02
      else
        let s := putCmd { s with ckpt := some (c.f 24 8, c.f 32 8, s.clock, none), ckptEarly := [] } c
        let us := (s.teams.filter (fun t => !t.2.saved)).map (fun t => (t.2.lid, cohortOf s t.2))
        us.eraseDups.foldl (fun s u => saveCohort s u.1 u.2) s))

/-- The chip's state that goes with an image. -/
def snapshotOf (s : State) : Snapshot :=
  { device := s.deviceId, pflags := s.pflags, txSlots := s.txSlots, rxSlots := s.rxSlots, ferries := s.ferries, timelines := s.timelines, comms := s.comms
    parts := s.parts, queues := s.queues, launches := s.launches, teams := s.teams, crews := s.crews }

/-- Stack word `w` goes into the image before the others, so that a fabric write which comes later is absent from it (R105). -/
def ckptWord (s : State) (a w : Nat) : State :=
  if hbmSize ≤ w || s.ckptEarly.contains w then s else { wrB s (a + ckptStacks + w) (rdB s w 4) with ckptEarly := s.ckptEarly ++ [w] }

/-- The stacks' bytes in the image, the words that were copied before as they stand there. -/
def ckptMem (s : State) (a : Nat) : Map Byte :=
  let dst := a + ckptStacks
  s.ckptEarly.foldl (fun m w => Memory.writes m (dst + w) (rdB s (dst + w) 4)) (moveKeys s.mem 0 hbmSize dst)

/-- Read the lines from `lo` on, `n` of them, so that the latent errors in them are corrected or poison them (R435). -/
def probeLines (s : State) (lo n : Nat) : State := (s.ecc.filter (fun p => lo ≤ p.1 && p.1 < lo + n)).foldl (fun s p => (probeLine s {} p.1).1) s
/-- Write whole lines, whose poison goes (R435). -/
def putLines (s : State) (a : Nat) (bs : List Byte) : State :=
  wrB { s with poison := s.poison.filter (fun p => p.1 < a / 128 || (a + bs.length + 127) / 128 ≤ p.1) } a bs
/-- The on-chip part of an image, in whole lines and within its bound (R439). -/
def chipPart (n : Snapshot) : List Byte :=
  let bs := (Config.chipBytes n).take (ckptStacks - 65536)
  bs ++ List.replicate ((128 - bs.length % 128) % 128) 0

/-- CHECKPOINT_TRANSFER_END (R105, R439): the image is written, its header last, and the command completes; dispatch resumes. With `arg.b` 1, only the aligned word at `arg.a` is copied. -/
def execCheckpointTransferEnd (s : State) : Host.Outcome State Fault Refusal :=
  match s.ckpt with
  | some (a, _, t0, some t1) =>
    if s.arg.b == 1 then .next (ckptWord s a (s.arg.a / 4 * 4))
    else
    let s := probeLines s 0 (hbmSize / 128)
    let s := { s with
      mem := ckptMem s a, poison := moveKeys s.poison 0 (hbmSize / 128) ((a + ckptStacks) / 128), ckptEarly := [], snaps := snapshotOf s :: s.snaps, ckpt := none }
    let s := putLines s (a + 65536) (chipPart (snapshotOf s))
    let s := putLines s a (natBytes 8 1 ++ natBytes 8 s.deviceId.toNat ++ natBytes 8 t0 ++ natBytes 8 t1 ++ natBytes 8 s.clock ++ List.replicate (65536 - 40) 0)
    match s.cmds.find? (fun c => c.kind == 8) with
    | some c => .next (noteReady (finishCmd s c 0))
    | none => .next s
  | _ => .next s

/-- Entries of one map over those of another. -/
def overlay {α : Type} (new old : Map α) : Map α := new.foldl (fun m p => minsert m p.1 p.2) old

/-- The chip's state from an image; the launches it holds wait for the changeover (R447). -/
def loadSnapshot (s : State) (n : Snapshot) : State :=
  let ls := n.launches.map (fun p => (p.1, { p.2 with restored := true }))
  { s with
    pflags := n.pflags, txSlots := overlay n.txSlots s.txSlots, rxSlots := overlay n.rxSlots s.rxSlots, ferries := overlay n.ferries s.ferries
    timelines := overlay n.timelines s.timelines, comms := overlay n.comms s.comms, parts := overlay n.parts s.parts
    queues := overlay (n.queues.filter (fun p => p.1 != 0)) s.queues, launches := overlay ls s.launches, teams := overlay n.teams s.teams, crews := overlay n.crews s.crews
    accepts := ls.foldl (fun a p => max a (p.2.accept + 1)) s.accepts }

/-- The snapshot whose on-chip bytes an image at `a` holds, the newest. -/
def chipFound (s : State) (a : Nat) : Option Snapshot := s.snaps.find? (fun n => rdB s (a + 65536) (chipPart n).length == chipPart n)
/-- Bytes of the on-chip part of an image that its restoration reads. -/
def chipLen (s : State) (a : Nat) : Nat := match chipFound s a with | some n => (chipPart n).length | none => ckptStacks - 65536
/-- The on-chip state that an image at `a` holds: that of the newest checkpoint which wrote these bytes, wherever they stand now; of bytes that none wrote, a free value (R439, R447). -/
def chipOf (s : State) (a : Nat) : Snapshot :=
  match chipFound s a with
  | some n => n
  | none => Config.chipState (rdB s (a + 65536) (ckptStacks - 65536))

/-- The stacks as an image at `a` holds them, the lines re-poisoned that it marks so (R435, R447). -/
def loadStacks (s : State) (a : Nat) : State :=
  let s := probeLines s ((a + ckptStacks) / 128) (hbmSize / 128)
  { s with mem := moveKeys s.mem (a + ckptStacks) hbmSize 0, poison := moveKeys s.poison ((a + ckptStacks) / 128) (hbmSize / 128) 0 }

/-- CHECKPOINT_RESTORE (R447): in low-water service the head entry of queue `arg.a` restores the image of its range: header and on-chip part are read, then the stacks are written. -/
def execCheckpointRestore (s : State) : Host.Outcome State Fault Refusal :=
  .next (takeEntry s (fun bs => kindIs 8 bs && at_ bs 40 1 == 1) (fun s c =>
    let a := c.f 24 8
    if c.queue != 0 then finishCmd s c 0x08
    else if !(lowWater s) then finishCmd s c 0x01
    else if !(ckptRange c) then finishCmd s c 0x02
    else
      match pread s a 64 with
      | (s, .error (e, a)) => failCmd s c e a
      | (s, .ok h) =>
        if at_ h 0 8 != 1 || at_ h 8 2 != s.deviceId.toNat then finishCmd s c 0x02
        else
          let n := chipLen s a
          let s := probeLines s ((a + 65536) / 128) (n / 128)
          match s.poison.find? (fun p => (a + 65536) / 128 ≤ p.1 && p.1 < (a + 65536 + n) / 128) with
          | some p => failCmd s c 0x12 (128 * p.1)
          | none => finishCmd (loadSnapshot (loadStacks s a) (chipOf s a)) c 0))

end Sys2Proof.Machine
end

