-- ==== Sys2Proof/Machine/Stack.lean ====
section
/-! DEFINITION. The stack engine's own steps: page walks that fill the TLBs (R429, R430), and the harbour firmware's answers to fault records: mapping of absent pages
(R449) and the freeing of records that need no answer (R253). -/

namespace Sys2Proof.Machine

/-- Add a translation to a TLB that holds `n` per unit, in place of the oldest (R430). -/
def tlbAdd (n : Nat) (l : List (Nat × Nat × Nat × Nat × Dword)) (x : Nat × Nat × Nat × Nat × Dword) : List (Nat × Nat × Nat × Nat × Dword) :=
  let mine := l.filter (fun y => y.1 == x.1)
  let same := fun (y : Nat × Nat × Nat × Nat × Dword) => y.1 == x.1 && y.2.1 == x.2.1 && y.2.2.1 == x.2.2.1 && y.2.2.2.1 == x.2.2.2.1
  let l := l.filter (fun y => !(same y))
  (if n ≤ mine.length then (match mine with | o :: _ => l.filter (fun y => y != o) | [] => l) else l) ++ [x]

/-- PAGE_WALK (R429, R430): a walker walks address `arg.b` of partition `arg.c` for isle `arg.a`; a valid leaf goes into the isle's TLB and its atoll's. -/
def execPageWalk (s : State) : Host.Outcome State Fault Refusal :=
  let i := s.arg.a % 256
  let va := s.arg.b
  let p := s.arg.c
  match mfind s.parts p with
  | none => .next s
  | some q =>
    let s := walkProbe { part := p } va walkLevels q.root s
    match walkAt s (lowWater s) va walkLevels 0 q.root with
    | .leaf e size =>
      if fld e 63 63 == 1 then .next s
      else
        let x := fun (u : Nat) => (u, p, va / size * size, size, BitVec.ofNat 64 e)
        .next { s with tlbIsle := tlbAdd 256 s.tlbIsle (x i), tlbAtoll := tlbAdd 4096 s.tlbAtoll (x (i / 4)) }
    | _ => .next s

/-! ## Firmware mapping (R449) -/

/-- A frame is on the bad-page list (R436). -/
def isBadPage (s : State) (pa : Nat) : Bool := s.badPages.any (fun p => p.1 == pa / 65536)

/-- What the firmware reads at a physical address: `none` outside the memory (R426) and of a poisoned line (R435). -/
def fwRead (s : State) (a n : Nat) : State × Option (List Byte) :=
  if !(inMem a n) then (s, none) else let r := probe s {} a n; (r.1, if r.2 then none else some (rdB r.1 a n))

/-- Take the next pool frame that may be used; the head word shows each take. DESIGN CHOICE (log entry 53): a pool whose words or next entry cannot be read or written counts as empty. -/
def takeFrame : Nat → State → Nat → State × Option Nat
  | 0, s, _ => (s, none)
  | n + 1, s, p =>
    let q := partOf s p
    match fwRead s q.ptail 4 with
    | (s, none) => (s, none)
    | (s, some t) =>
      if q.taken % 2 ^ 32 == bytesNat t || !(inMem q.phead 8) || anyPoison s q.phead 8 then (s, none)
      else
        match fwRead s (q.pool + q.taken % 2 ^ q.psize * 8) 8 with
        | (s, none) => (s, none)
        | (s, some e) =>
          let f := fld (bytesNat e) 51 16 * 65536
          let s := { s with parts := mmodify s.parts p (fun q => { q with taken := q.taken + 1 }) }
          let s := wrN s q.phead 8 ((q.taken + 1) % 2 ^ 32)
          if isBadPage s f || hbmSize < f + 65536 then takeFrame n s p else (s, some f)

/-- A run of bytes set to zero, its poison gone. -/
def zeroRun (s : State) (a n : Nat) : State :=
  { s with
    mem := s.mem.filter (fun x => x.1 < a || a + n ≤ x.1), poison := s.poison.filter (fun x => x.1 < a / 128 || (a + n) / 128 ≤ x.1) }

/-- A table of `size` bytes for a partition, every entry V 0: an unused one, or the first of a new frame (R449). -/
def takeTable (s : State) (p size : Nat) : State × Option Nat :=
  let keep := fun (s : State) (l : List Nat) => { s with parts := mmodify s.parts p (fun q => { q with spare := minsert q.spare size l }) }
  match mget [] (partOf s p).spare size with
  | t :: r => (zeroRun (keep s r) t size, some t)
  | [] =>
    match takeFrame 65537 s p with
    | (s, none) => (s, none)
    | (s, some f) => (zeroRun (keep s ((List.range (65536 / size)).tail.map (fun k => f + k * size))) f size, some f)

/-- Build the missing tables of a walk from table `t` and write the leaf (R449). Answers whether it could. -/
def buildWalk (p va leaf : Nat) : List (Nat × Nat) → Nat → Nat → State → State × Bool
  | [], _, _, s => (s, false)
  | (sh, n) :: r, l, t, s =>
    let ea := t + 8 * (va / 2 ^ sh % 2 ^ n)
    let e := rdN s ea 8
    if l == 4 then (wrN s ea 8 leaf, true)
    else if e % 2 == 1 then buildWalk p va leaf r (l + 1) (fld e 51 8 * 256) s
    else
      let size := match r with | (_, w) :: _ => 8 * 2 ^ w | [] => 256
      match takeTable s p size with
      | (s, none) => (s, false)
      | (s, some nt) => buildWalk p va leaf r (l + 1) nt (wrN s ea 8 (nt + 1))

/-- A backing entry covers an address (R449). -/
def covers (b : List Byte) (va : Nat) : Bool :=
  let first := fld (at_ b 0 8) 55 16 * 65536
  first ≤ va && va < first + at_ b 8 8

/-- The first of the `n` backing entries from `a` on that covers an address; one that cannot be read ends the search (log entry 53). -/
def coverFrom (va : Nat) : Nat → Nat → State → State × Option (List Byte)
  | 0, _, s => (s, none)
  | n + 1, a, s =>
    match fwRead s a 32 with
    | (s, none) => (s, none)
    | (s, some b) => if covers b va then (s, some b) else coverFrom va n (a + 32) s

/-- The 32 bytes of the backing entry that covers a page, the lowest-numbered one (R449). -/
def backing (s : State) (q : Part) (va : Nat) : State × Option (List Byte) :=
  if q.btab == 0 || q.pool == 0 then (s, none)
  else
    match fwRead s q.btab 32 with
    | (s, none) => (s, none)
    | (s, some c) => if 4096 < at_ c 0 4 then (s, none) else coverFrom va (at_ c 0 4) (q.btab + 32) s

/-- A backing entry keeps its rules (R449). -/
def backingOk (b : List Byte) : Bool :=
  let v := at_ b 0 8
  let len := at_ b 8 8
  let src := at_ b 16 8
  let attr := at_ b 24 8
  v % 65536 == 0 && v / 2 ^ 56 == 0 && len % 65536 == 0 && len != 0 && fld src 62 52 == 0 && src % 65536 == 0 && attr / 2 ^ 62 == 0 && fld attr 51 6 == 0 && attr % 8 == 0 &&
  (src / 2 ^ 63 == 1 || inMem (fld src 51 0) len)

/-- Fill a frame for a page: zeros, or the page of the entry's source, poison and all (R435, R449). -/
def fillFrame (s : State) (b : List Byte) (va frame : Nat) : State :=
  let src := at_ b 16 8
  let s1 := zeroRun s frame 65536
  if src / 2 ^ 63 == 1 then s1
  else
    let a := fld src 51 16 * 65536 + (va / 65536 * 65536 - at_ b 0 8)
    let s := (linesOf a 65536).foldl (fun s l => (probeLine s {} l).1) s1
    { s with mem := moveKeys s.mem a 65536 frame, poison := moveKeys s.poison (a / 128) 512 (frame / 128) }

/-- Map the page of an address of partition `p` as R449 lists its steps; answers whether it is mapped. Without a backing table or a pool nothing is. -/
def mapPage (s : State) (p va : Nat) : State × Bool :=
  let q := partOf s p
  if q.btab == 0 || q.pool == 0 then (s, false)
  else
  let s := walkProbe { part := p } va walkLevels q.root s
  match walkAt s (lowWater s) va walkLevels 0 q.root with
  | .leaf _ _ => (s, true)
  | .malformed => (s, false)
  | .poisoned _ => (s, false)
  | .absent =>
    match backing s q va with
    | (s, none) => (s, false)
    | (s, some b) =>
      if !(backingOk b) then (s, false)
      else
        match takeFrame 65537 s p with
        | (s, none) => (s, false)
        | (s, some f) => buildWalk p va (at_ b 24 8 + f + 5) walkLevels 0 q.root (fillFrame s b va f)

/-- Write the answer to record `n`: 2 MAPPED or DONE, 3 REFUSED (R253). -/
def setAnswer (s : State) (n st : Nat) : State := wrN s (recAddr s.faultq n + 60) 4 st
/-- Record `n` is written and not yet answered. -/
def isPosted (s : State) (n : Nat) : Bool := rdN s (recAddr s.faultq n + 60) 4 == 1

/-- The retirement of a frame is queued and not yet answered (R436). -/
def retiring (s : State) (frame : Nat) : Bool :=
  let names := fun (o : RecOwner) => match o with | .page l => l / 512 == frame | _ => false
  s.faultq.open_.any (fun p => names p.2.2) || s.faultq.waiting.any (fun p => names p.2)

/-- The frame that a leaf cleared to V 0 still names for a page, where the walk ends at one (R428, R437). -/
def clearedFrame (s : State) (va : Nat) : List (Nat × Nat) → Nat → Option Nat
  | [], _ => none
  | (sh, w) :: r, t =>
    let e := rdN s (t + 8 * (va / 2 ^ sh % 2 ^ w)) 8
    if e % 2 == 1 then (if fld e 2 2 == 0 then clearedFrame s va r (fld e 51 8 * 256) else none)
    else if fld e 2 2 == 1 then some (fld e 51 16 + va % 2 ^ sh / 65536) else none

/-- The frames that a page has or had, or whose contents it is to have: that of its leaf, also after its V is cleared; those at which an access to the page found an error; and the source of its
backing entry (R27, R437, R449). -/
def pageFrames (s : State) (p va : Nat) : List Nat :=
  let q := partOf s p
  let leaf := match walkAt s (lowWater s) va walkLevels 0 q.root with
    | .leaf e size => [(leafPg e size va).pa va / 65536]
    | .absent => (clearedFrame s va walkLevels q.root).toList ++ ((backing s q va).2.elim [] (fun b =>
        if at_ b 16 8 / 2 ^ 63 == 1 then [] else [fld (at_ b 16 8) 51 16 + (va / 65536 - at_ b 0 8 / 65536)]))
    | _ => []
  leaf ++ (s.reached.filter (fun r => r.2.1 == p && r.2.2 == va / 65536)).map (fun r => r.1)

/-- A record that the firmware is to map the page of: a PGNP record with HW 1 that somebody waits for (R253, R449). Poison takes precedence: a page whose retirement is queued is not mapped
before that record has its answer (R27). -/
def mapsRec (s : State) (n : Nat) (r : FRec) (o : RecOwner) : Bool :=
  r.hw && r.typ == 0x10 && o != .nobody && isPosted s n && !((pageFrames s r.part r.addr.toNat).any (retiring s))

/-- FIRMWARE_PAGE_MAP (R449): the firmware maps the page of PGNP record `arg.a` and answers it. -/
def execFirmwarePageMap (s : State) : Host.Outcome State Fault Refusal :=
  match mfind s.faultq.open_ s.arg.a with
  | some (r, o) =>
    if !(mapsRec s s.arg.a r o) then .next s
    else
      let m := mapPage s r.part r.addr.toNat
      .next (setAnswer m.1 s.arg.a (if m.2 then 2 else 3))
  | none => .next s

/-- A record that the firmware only reads and frees (R253). -/
def freesRec (s : State) (n : Nat) (r : FRec) (o : RecOwner) : Bool := r.hw && o == .nobody && isPosted s n

/-- FIRMWARE_RECORD_FREE (R253): the firmware sets STATE of record `arg.a`, which needs no answer, to 2. -/
def execFirmwareRecordFree (s : State) : Host.Outcome State Fault Refusal :=
  match mfind s.faultq.open_ s.arg.a with
  | some (r, o) => if freesRec s s.arg.a r o then .next (setAnswer s s.arg.a 2) else .next s
  | none => .next s

end Sys2Proof.Machine
end

