-- ==== Sys2Proof/Machine/Bring.lean ====
section
/-! DEFINITION. Bring-up: the stages, the firmware image, what the firmware places in memory, and power (R14, R441 to R448). -/

namespace Sys2Proof.Machine

/-! ## What survives (R14, R436, R441) -/

/-- The entries of memory that lie in the second tier. -/
def tierMem (s : State) : Map Byte := s.mem.filter (fun p => isTier p.1)
/-- The poison of the second tier. -/
def tierPoison (s : State) : Map Bool := s.poison.filter (fun p => isTier (128 * p.1))
/-- The latent errors of the second tier. -/
def tierEcc (s : State) : Map Bool := s.ecc.filter (fun p => isTier (128 * p.1))

/-- The device after everything but flash is lost: the fused counter, the device's identity, the bad-page list, what the sensors read and the model's own fields stay. -/
def keepFlash (s : State) (stage : Byte) : State :=
  { State.reset with
    stage := stage, flash := s.flash, badPages := s.badPages, svnFuse := s.svnFuse, snaps := s.snaps, deviceId := s.deviceId, power := s.power, temps := s.temps, free := s.free, agenda := s.agenda
    arg := s.arg, ir := s.ir }

/-- The device after a reset that keeps the second tier and the power cap. -/
def keepTier (s : State) (stage : Byte) : State :=
  { keepFlash s stage with mem := tierMem s, poison := tierPoison s, ecc := tierEcc s, powerCap := s.powerCap }

/-! ## The firmware image (R444) -/

/-- A byte of flash: as written last, or as the maker left it. -/
def flashByte (s : State) (a : Nat) : Byte := mget (Config.flashByte a) s.flash a
/-- Bytes of a header's own length and of its body. -/
def imageLen (bs : List Byte) : Nat := 256 + at_ bs 16 4
/-- The image in flash. -/
def flashImage (s : State) : List Byte :=
  let n := imageLen ((List.range 256).map (flashByte s))
  (List.range (min n (256 + 2 ^ 25))).map (flashByte s)

/-- The checks of R444, in order. -/
def imageAccepted (s : State) (bs : List Byte) : Bool :=
  let f := at_ bs
  let sub := fun (o n : Nat) => (bs.drop o).take n
  f 0 4 == 0x46524448 && f 20 12 == 0 && f 192 32 == 0 && f 224 32 == 0 && f 16 4 % 4096 == 0 && f 16 4 ≤ 2 ^ 25 && bs.length == imageLen bs &&
  sm3 (sub 64 64) == Config.signerHash && Config.sm2Verify (sub 64 64) (sub 128 64) (sub 0 128) && s.svnFuse ≤ f 8 8 &&
  sm3 (bs.drop 256) == BitVec.ofNat 256 (f 32 32)

/-! ## What the firmware places (R441, log entry 15) -/

/-- The `n`-th frame, from 0, of those from frame `f` on that are not on the bad-page list (R436), within `fuel` frames. -/
def goodFrame (s : State) : Nat → Nat → Nat → Nat
  | 0, f, _ => f
  | fuel + 1, f, n => if isBadPage s (65536 * f) then goodFrame s fuel (f + 1) n else match n with | 0 => f | m + 1 => goodFrame s fuel (f + 1) m
/-- Where the firmware places its structure `n`: one frame for each, the first ones of the second tier that may be used. -/
def placedAt (s : State) (n : Nat) : Nat := 65536 * goodFrame s 4103 (tierBase / 65536) n
/-- The bring-up block. -/
def blockAt (s : State) : Nat := placedAt s 0
/-- The ring of queue 0. -/
def q0Ring (s : State) : Nat := placedAt s 1
/-- Queue 0's tail word. -/
def q0Tail (s : State) : Nat := placedAt s 2
/-- Queue 0's head word. -/
def q0Head (s : State) : Nat := placedAt s 2 + 8
/-- The watch ring. -/
def wRing (s : State) : Nat := placedAt s 3
/-- The watch ring's tail word. -/
def wTail (s : State) : Nat := placedAt s 4
/-- The watch ring's head word. -/
def wHead (s : State) : Nat := placedAt s 4 + 8
/-- The fault record queue. -/
def fBase (s : State) : Nat := placedAt s 5
/-- Its log2 size. -/
def fLog : Nat := 10
/-- Bytes of the pending-flag overflow area: 64 for each of its flags (R348). -/
def flagSize : Nat := 64 * 2 ^ 20
/-- The pending-flag overflow area: the first of the places from 1 GiB after the base on without a bad page. -/
def flagAt (s : State) : Nat :=
  (((List.range 4097).map (fun k => tierBase + 2 ^ 30 + k * flagSize)).find? (fun a => !(s.badPages.any (fun p => a / 65536 ≤ p.1 && p.1 < (a + flagSize) / 65536)))).getD (tierBase + 2 ^ 30)
/-- The staging area of stage 0x03 (R445): the first place from 128 GiB after the base on without a bad page. -/
def stageAt (s : State) : Nat :=
  (((List.range 4097).map (fun k => tierBase + 2 ^ 37 + k * 2 ^ 26)).find? (fun a => !(s.badPages.any (fun p => a / 65536 ≤ p.1 && p.1 < a / 65536 + 1024)))).getD (tierBase + 2 ^ 37)
/-- Its size. -/
def stageSize : Nat := 33 * 2 ^ 20

/-- The words of the bring-up block. -/
def blockWords (s : State) : List Nat := [1, q0Ring s, q0Tail s, q0Head s, fBase s, fLog, wRing s, wTail s, wHead s]

/-- Enter low-water service: the structures are placed, and window 15 shows where they lie. -/
def enterLowWater (s : State) : State :=
  let at_ := (List.range 6).map (placedAt s)
  let s := at_.foldl (fun s a => zeroRun s a 65536) s
  { s with
    stage := 0x04, began := s.clock, mem := Memory.writes s.mem (blockAt s) ((blockWords s).flatMap (natBytes 8)), flagArea := flagAt s
    queues := minsert s.queues 0 { base := q0Ring s, tailw := q0Tail s, headw := q0Head s, size := 8, weight := 1, prio := 7, part := 0, physical := true }
    watchRing := { base := wRing s, tailw := wTail s, headw := wHead s }, faultq := { base := fBase s, log2 := fLog }, mFw := sm3 (flashImage s)
    windows := minsert s.windows 15 { en := true, rd := true, base := blockAt s, size := 65536, phys := true } }

/-- Stage 0x02: the ROM checks the image and starts it, the counter raised to its SVN, or waits for another (R444, R445). -/
def verifyImage (s : State) : State :=
  let bs := flashImage s
  if imageAccepted s bs then enterLowWater { s with svnFuse := max s.svnFuse (at_ bs 8 8) }
  else { s with stage := 0x03, began := s.clock, windows := minsert s.windows 15 { en := true, wr := true, base := stageAt s, size := stageSize, phys := true } }

/-- MAIN_POWER_GOOD (R441): main power ends standby, and the boot ROM verifies the image. -/
def execMainPowerGood (s : State) : Host.Outcome State Fault Refusal :=
  if s.stage == 0x01 then .next { s with stage := 0x02 } else if s.stage == 0x02 then .next (verifyImage s) else .next s

/-- COLD_RESET (R6, R441): the device restarts at image verification. -/
def execColdReset (s : State) : Host.Outcome State Fault Refusal := if s.stage.toNat < 2 then .next s else .next (keepTier s 0x02)

/-- The flag of the staging area is raised (R445). -/
def stagedFlag (s : State) : Bool := s.stage == 0x03 && rdN s (stageAt s + stageSize - 4) 4 == 1
/-- The image in the staging area. -/
def stagedImage (s : State) : List Byte := rdB s (stageAt s) (min (imageLen (rdB s (stageAt s) 256)) (256 + 2 ^ 25))
/-- Bytes written to flash from address `a` on. -/
def flashPut (m : Map Byte) (a : Nat) (bs : List Byte) : Map Byte := bs.zipIdx.foldl (fun m p => minsert m (a + p.2) p.1) m

/-- STAGED_IMAGE_FLAG (R445): the ROM checks the staged image, and writes it to flash and restarts stage 0x02, or clears the flag word. With `arg.b` 1 only the first `arg.c` bytes of the body are
written so far: the header is erased first and written last, so that the flash holds no image that R444 accepts if power is lost here (log entry 54). -/
def execStagedImageFlag (s : State) : Host.Outcome State Fault Refusal :=
  if !(stagedFlag s) then .next s
  else
    let bs := stagedImage s
    if imageAccepted s bs then
      (if s.arg.b == 1 then .next { s with flash := flashPut (flashPut s.flash 0 (List.replicate 256 0)) 256 ((bs.drop 256).take s.arg.c) }
       else .next { s with stage := 0x02, began := s.clock, flash := flashPut s.flash 0 bs, windows := merase s.windows 15 })
    else .next (wrN s (stageAt s + stageSize - 4) 4 0)

/-- TRAINING_COMPLETE (R441, R443): every die, stack and port has trained. -/
def execTrainingComplete (s : State) : Host.Outcome State Fault Refusal := if s.stage == 0x04 then .next { s with stage := 0x05, began := s.clock } else .next s

/-- Every launch started in low-water service has retired (R443). -/
def changeDue (s : State) : Bool := s.stage == 0x05 && !(s.launches.any (fun l => !l.2.restored))

/-- FULL_SERVICE_CHANGEOVER (R443): the device enters full service, and what a restored image holds goes on (R447). -/
def execFullServiceChangeover (s : State) : Host.Outcome State Fault Refusal :=
  if changeDue s then
    .next (noteReady { s with stage := 0x06, began := s.clock, launches := s.launches.map (fun p => (p.1, { p.2 with restored := false })) })
  else .next s

/-! ## Power (R447, R448) -/

/-- Whether the package power cap asks for withheld cycles: while the average lies above the cap, and until it falls below it (R448). -/
def capAsks (s : State) (avg cap : Nat) : Bool := if cap < avg then true else if avg < cap then false else s.capThrottle
/-- POWER_CAP_THROTTLE (R447, R448): the power averaged over 10 ms reads `arg.a` W; cycles are withheld while it exceeds the cap. No result changes. -/
def execPowerCapThrottle (s : State) : Host.Outcome State Fault Refusal := .next { s with power := s.arg.a, capThrottle := capAsks s s.arg.a s.powerCap }
/-- SIDEBAND_POWER_CAP (R447): the package power cap, 1,000 to 1,900 W. -/
def execSidebandPowerCap (s : State) : Host.Outcome State Fault Refusal :=
  if within 1000 s.arg.a 1900 then .next { s with powerCap := s.arg.a, capThrottle := capAsks s s.power s.arg.a } else .next s

/-- The temperatures, in °C, from which a sensor throttles and at which it trips (R448). The sensors are numbered 0 to 3 on the compute dies, 16 and 17 on the strait dies, 32 to 47 on the
HBM4 stacks and 48 to 63 on the LPDDR modules. -/
def sensorLimits (n : Nat) : Nat × Nat := match n / 16 with | 0 => (95, 110) | 1 => (95, 110) | 2 => (90, 105) | _ => (85, 100)
/-- A sensor has its reading. -/
def readSensor (s : State) (n t : Nat) : State :=
  let m := mset 0 s.temps n t
  { s with temps := m, thermThrottle := m.any (fun p => (sensorLimits p.1).1 ≤ p.2) }
/-- THERMAL_THROTTLE (R448): sensor `arg.a` reads `arg.b` °C; activity is reduced while some sensor has reached its throttle temperature. No result changes. -/
def execThermalThrottle (s : State) : Host.Outcome State Fault Refusal := .next (readSensor s s.arg.a s.arg.b)
/-- THERMAL_TRIP (R448): sensor `arg.a` reads `arg.b` °C; at its trip temperature every clock stops until a cold reset. -/
def execThermalTrip (s : State) : Host.Outcome State Fault Refusal :=
  let t := readSensor s s.arg.a s.arg.b
  if s.stage.toNat < 2 || s.arg.b < (sensorLimits s.arg.a).2 then .next t else .next { t with stage := 0x07 }

/-- STANDBY_POWER_GOOD (R441): standby. -/
def execStandbyPowerGood (s : State) : Host.Outcome State Fault Refusal := if s.stage == 0 then .next { s with stage := 0x01 } else .next s
/-- MAIN_POWER_LOSS (R14, R441): back to standby with the second tier kept. -/
def execMainPowerLoss (s : State) : Host.Outcome State Fault Refusal := if s.stage == 0 then .next s else .next (keepTier s 0x01)
/-- STANDBY_POWER_LOSS (R14): only flash stays. -/
def execStandbyPowerLoss (s : State) : Host.Outcome State Fault Refusal := .next (keepFlash s 0)

end Sys2Proof.Machine
end

