-- ==== Sys2Proof/Machine/Coll.lean ====
section
/-! DEFINITION. The collective engine: COLL, communicator slots, chunks and their arbitration, the rank-order reduction, the completion exchange, failures and
recovery (R360 to R375), and LOSS notices. -/

namespace Sys2Proof.Machine

/-! ## Slots and packets (R360, R365) -/

/-- Bytes of collective buffers (R11). -/
def collPool : Nat := 6 * 2 ^ 20
/-- Bytes reserved. -/
def collUsed (s : State) : Nat := s.comms.foldl (fun a p => a + p.2.n * p.2.chunk) 0
/-- The device of a rank. -/
def memberOf (c : Comm) (r : Nat) : BitVec 12 := c.members.getD r 0
/-- TAG of a collective packet: its destination, and above it the kind of a report or release, 0 end, 1 issue, 2 break, or 3 for a reduction of the tide engine (log entry 13). -/
def collTag (dst : BitVec 12) (kind : Nat) : BitVec 16 := BitVec.ofNat 16 (dst.toNat + 4096 * kind)

/-- A packet of slot `n` to a rank about operation `o` (R365). -/
def collPkt (s : State) (n : Nat) (c : Comm) (typ rank kind : Nat) (o : CollOp) : Packet :=
  { mkPkt s typ 3 (memberOf c rank) with
    band := if 2 ≤ c.prio then 1 else 0, slot := BitVec.ofNat 16 (n + 256 * c.rank), opx := BitVec.ofNat 4 o.opc, count := BitVec.ofNat 32 o.len, stamp := o.stamp
    faddr := BitVec.ofNat 64 (o.seq * 2 ^ 32 + o.root * 2 ^ 40 + o.dtype * 2 ^ 48 + o.red * 2 ^ 52), key := (partOf s c.part).key
    tag := collTag (memberOf c rank) kind }

/-- Send a control packet to each listed rank. -/
def collCtl (s : State) (n typ kind : Nat) (o : CollOp) (ranks : List Nat) : State :=
  ranks.foldl (fun s r => sendPlain s (collPkt s n (commAt s n) typ r kind o)) s

/-- The status word (R369). -/
def collStatus (n seq reason : Nat) : Word :=
  BitVec.ofNat 32 (2 ^ 31 + (if reason == 0 then 0 else 2 ^ 30) + reason * 65536 + n * 256 + seq)

/-- A status word returns to its crew, in its register or its image (R19, R126). -/
def collReturn (s : State) (k id : Nat) (w : Word) : State := landPend s k id (fun _ => true) (fun _ => some w)

/-- A slot that a COLL closes becomes FREE once its operations have ended, even by a failure that broke it, and that COLL gets its status word (R361). DESIGN CHOICE (log entry 51): a definition
still outstanding, of a slot that an ABORT broke before it was READY, ends with reason 6 then. -/
def closeCheck (s : State) (n : Nat) : State :=
  let c := commAt s n
  match c.ops, c.closeWait with
  | [], some w =>
    let s := { s with comms := merase s.comms n }
    let s := match c.defWait with | some d => collReturn s d.1 d.2 (collStatus n 0 6) | none => s
    collReturn s w.1 w.2 (collStatus n 0 0)
  | _, _ => s

/-- An operation ends at this member with its status word (R363, R369). -/
def finishOp (s : State) (n : Nat) (o : CollOp) (reason : Nat) : State :=
  let s := updComm s n (fun c => { c with
    ops := c.ops.filter (fun p => p.seq != o.seq), reps := c.reps.filter (fun r => r.1 != o.seq), seen := merase c.seen o.seq })
  closeCheck (collReturn s o.crew o.pendId (collStatus n o.seq reason)) n

/-! ## Failure (R371) -/

/-- The operation of a SEQ. -/
def collOp (s : State) (n seq : Nat) : Option CollOp := (commAt s n).ops.find? (fun o => o.seq == seq)
/-- Update an operation. -/
def updOp (s : State) (n seq : Nat) (g : CollOp → CollOp) : State :=
  updComm s n (fun c => { c with ops := c.ops.map (fun (o : CollOp) => if o.seq == seq then g o else o) })

/-- Operation `seq` of a slot fails with a reason that rank `finder` found: ABORT to every other member when this one found it, the slot BROKEN, the COLLFAIL record,
and the status words of this operation and every later one. A slot whose definition is not complete here breaks too. -/
def collFail (s : State) (n seq reason finder : Nat) (tell : Bool) : State :=
  let c := commAt s n
  if c.st != .ready && c.st != .closing && c.st != .defining then s
  else
    let o := (collOp s n seq).getD {}
    let gone := c.ops.filter (fun p => (p.seq + 256 - seq) % 256 < 128)
    let hw := modeBit s c.part 3
    let s := updComm s n (fun c => { c with st := .broken })
    let s := if hw then { s with breaks := minsert s.breaks n { comm := c, reps := (mfind s.breaks n).elim [] (fun b => b.reps), failAt := some s.clock } } else s
    let abort : CollOp := { seq := seq, len := reason + 256 * finder }
    let s := if tell then collCtl s n 0x35 0 abort (otherRanks c) else s
    let s := postRec s
      { typ := 0x89, hw := hw, gcrew := o.gcrew, lid := BitVec.ofNat 32 o.lid, part := c.part, pc := o.pcAt.setWidth 64, stamp := o.stamp
        detail := BitVec.ofNat 64 (n + 256 * seq + 65536 * reason + 2 ^ 24 * finder) } (.comm n)
    gone.foldl (fun s p => finishOp s n p (if p.seq == seq then reason else 5)) s

/-- This member finds the failure. -/
def collFound (s : State) (n seq reason : Nat) : State := collFail s n seq reason (commAt s n).rank true

/-! ## Buffers (R362, R371) -/

/-- Bytes of a unit (R362). -/
def collUnit (opc dtype nc : Nat) : Nat :=
  if opc != 2 && opc != 4 then 1
  else if isBfp dtype then blockBytes (dtype - 6) (if nc == 1 then 32 else 16)
  else if dtype == 4 then 8 else if dtype == 2 || dtype == 3 then 2 else 4
/-- Bytes of a whole chunk (R363). -/
def chunkSize (c : Comm) (o : CollOp) : Nat := let u := collUnit o.opc o.dtype o.nc; c.chunk / u * u
/-- Chunks of a segment. -/
def chunkCount (c : Comm) (o : CollOp) : Nat := if o.opc == 0 then 0 else (o.len + chunkSize c o - 1) / chunkSize c o
/-- Bytes of chunk `k`. -/
def chunkLen (c : Comm) (o : CollOp) (k : Nat) : Nat := min (chunkSize c o) (o.len - k * chunkSize c o)

/-- The operation as the maker of its accesses. -/
def collWho (o : CollOp) : Who := { gcrew := o.gcrew, lid := BitVec.ofNat 32 o.lid, part := o.part, pc := o.pcAt.setWidth 64 }

/-- An access faults: an absent page parks the operation on a record, anything else fails it (R371). -/
def collFault (s : State) (n : Nat) (o : CollOp) (cause : Byte) (a : Nat) (wr : Bool) : State :=
  if cause != 0x10 then collFound s n o.seq 4
  else
    postRec (updOp s n o.seq (fun (o : CollOp) => { o with parked := o.parked ++ [a / 65536] }))
      { typ := 0x10, hw := modeBit s o.part 0, impr := true, gcrew := o.gcrew, lid := BitVec.ofNat 32 o.lid, part := o.part, addr := BitVec.ofNat 64 a
        pc := o.pcAt.setWidth 64, stamp := o.stamp, detail := if wr then 1 else 0 } (.coll n o.seq)

/-- Read a buffer; a byte at or past 2^56 faults RANGE (R211, R371). -/
def collRead (s : State) (n : Nat) (o : CollOp) (a k : Nat) : State × Option (List Byte) :=
  if 2 ^ 56 < a + k then (collFault s n o 0x13 (max a (2 ^ 56)) false, none)
  else match vreadAll s (collWho o) a k with
  | (s, .ok bs) => (s, some bs)
  | (s, .error e) => (collFault s n o e.1 e.2 false, none)

/-- Bytes of SRC that this member reads, and of its DST (R362). -/
def collSpans (c : Comm) (o : CollOp) : Nat × Nat :=
  match o.opc with
  | 1 => (if o.root == c.rank then o.len else 0, o.len)
  | 5 => (if o.root == c.rank then o.len else 0, o.len)
  | 2 => (c.n * o.len, o.len)
  | 3 => (o.len, c.n * o.len)
  | 4 => (o.len, o.len)
  | _ => (0, 0)
/-- What this member reads of SRC and writes of DST overlaps, and they are not equal (R362). -/
def collClash (c : Comm) (o : CollOp) : Bool :=
  let n := collSpans c o
  n.1 != 0 && n.2 != 0 && o.src != o.dst && o.src < o.dst + n.2 && o.dst < o.src + n.1

/-- Write a chunk of DST and note it as written; where SRC and DST overlap, each word that it writes holds a free value (R362, log entry 4). -/
def collWrite (s : State) (n : Nat) (o : CollOp) (a : Nat) (bs : List Byte) (key : Nat) : State × Bool :=
  if 2 ^ 56 < a + bs.length then (collFault s n o 0x13 (max a (2 ^ 56)) true, false) else
  let clash := collClash (commAt s n) o
  let bs := if clash then (List.range bs.length).map (fun k => (Config.freeWord (s.free + k)).setWidth 8) else bs
  let s := if clash then { s with free := s.free + bs.length } else s
  match vwriteAll s (collWho o) a bs with
  | (s, none) => (updOp s n o.seq (fun (o : CollOp) => { o with wrote := o.wrote ++ [key] }), true)
  | (s, some e) => (collFault s n o e.1 e.2 true, false)

/-! ## Reduction (R364) -/

/-- A value in A80, exact; a NaN gives the canonical NaN. -/
def toA80 : FVal → Nat
  | .fin g m e => (fround A80 0 g m e).1
  | .inf g => infBits A80 g
  | .nan _ => cnan A80

/-- Reduce the values of one element, rank 0 first. -/
def reduceVals (red : Nat) : List FVal → Nat
  | [] => 0
  | v :: vs => vs.foldl (fun a x =>
      if red == 0 then (fadd A80 0 (fdec A80 a) (fdec A80 (toA80 x))).1 else (fminmax A80 (red == 2) a (toA80 x)).1) (toA80 v)

/-- Reduce the words of one S32 or U32 element. -/
def reduceInts (red : Nat) (sg : Bool) : List Word → Word
  | [] => 0
  | v :: vs => vs.foldl (fun a x =>
      let lt := fun (p q : Word) => if sg then p.slt q else p.ult q
      if red == 0 then a + x else if red == 1 then (if lt x a then x else a) else (if lt a x then x else a)) v

/-- The bytes of one reduced unit from the units of each rank. -/
def reduceUnit (o : CollOp) (us : List (List Byte)) : List Byte :=
  if isBfp o.dtype then
    let b := o.dtype - 6
    let N := if o.nc == 1 then 32 else 16
    let vals := (List.range N).map (fun i => fdec A80 (reduceVals o.red (us.map (fun u => bfpVal b (at_ u 0 1) (bfpMant b (bytesNat (u.drop 1)) i)))))
    let k := bfpEncV b false 0 vals
    BitVec.ofNat 8 k.E :: natBytes (N * b / 8) (bfpPack b k.m)
  else if o.dtype == 5 || o.dtype == 6 then natBytes 4 (reduceInts o.red (o.dtype == 5) (us.map (fun u => BitVec.ofNat 32 (bytesNat u)))).toNat
  else
    let f := if o.dtype == 4 then F64 else fmtOf o.dtype
    let r := reduceVals o.red (us.map (fun u => fdec f (bytesNat u)))
    natBytes ((1 + f.eb + f.fb) / 8) (cvtFF A80 f 0 r).1

/-- The reduced bytes of a chunk from each rank's bytes, rank 0 first. -/
def reduceChunk (o : CollOp) (parts : List (List Byte)) : List Byte :=
  let u := collUnit o.opc o.dtype o.nc
  (List.range ((parts.headD []).length / u)).flatMap (fun i => reduceUnit o (parts.map (fun p => (p.drop (i * u)).take u)))

/-! ## Progress of an operation (R363, R366, R374) -/

/-- Every member has issued the operation (R374). -/
def allIssued (c : Comm) (o : CollOp) : Bool := (List.range c.n).all (fun r => c.reps.contains (o.seq, 1, r))
/-- The operation moves data now: it is not parked, and a BARBCAST root holds every issue report. -/
def collGoes (c : Comm) (o : CollOp) : Bool := o.parked.isEmpty && !(o.opc == 5 && o.root == c.rank && !(allIssued c o))
/-- This member reduces chunk `k`. -/
def reducesHere (c : Comm) (o : CollOp) (k : Nat) : Bool := o.opc == 2 || (o.opc == 4 && k % c.n == c.rank)
/-- This member copies its own data to its own DST. -/
def copiesOwn (c : Comm) (o : CollOp) : Bool := o.opc == 3 || ((o.opc == 1 || o.opc == 5) && o.root == c.rank)

/-- The key of a chunk and a rank. -/
def chunkKey (k rank : Nat) : Nat := 256 * k + rank
/-- Offset of chunk `k` of a source rank in DST. -/
def dstOff (c : Comm) (o : CollOp) (k rank : Nat) : Nat := (if o.opc == 3 then rank * o.len else 0) + k * chunkSize c o

/-- Chunk `k` of rank `r` may go to DST: where SRC and DST are one (R362), what this member still sends from the bytes that it overwrites has been sent. -/
def mayLand (c : Comm) (o : CollOp) (k r : Nat) : Bool :=
  o.src != o.dst || c.rank == 0 ||
  (match o.opc with
  | 2 => o.sent.contains (chunkKey k 0)
  | 3 => r != 0 || (o.wrote.contains (chunkKey k c.rank) && (otherRanks c).all (fun d => o.sent.contains (chunkKey k d)))
  | _ => true)

/-- Copy the chunks of this member's own data (R363). -/
def localCopies (s : State) (n seq : Nat) : State :=
  let c := commAt s n
  match collOp s n seq with
  | none => s
  | some o =>
    if !(copiesOwn c o) then s
    else (List.range (chunkCount c o)).foldl (fun s k =>
      let c := commAt s n
      match collOp s n seq with
      | none => s
      | some o =>
        if !(collGoes c o) || o.wrote.contains (chunkKey k c.rank) then s
        else match collRead s n o (o.src + k * chunkSize c o) (chunkLen c o k) with
          | (s, some bs) => (collWrite s n o (o.dst + dstOff c o k c.rank) bs (chunkKey k c.rank)).1
          | (s, none) => s) s

/-- The SEQ of a chunk packet. -/
def pktSeq (k : Packet) : Nat := fld k.faddr.toNat 39 32
/-- The chunk index of a receive slot. -/
def slotChunk (c : Comm) (o : CollOp) (r : RecvSlot) : Nat := r.first.faddr.toNat % 2 ^ 32 / chunkSize c o
/-- The bytes of a receive slot in the order of their offsets, however its packets arrived (R330, R365). -/
def slotBytes (r : RecvSlot) : List Byte := r.got.flatMap (fun p => p.2)
/-- The receive slot holds the whole chunk of an operation. -/
def slotWhole (c : Comm) (o : CollOp) (r : RecvSlot) : Bool := pktSeq r.first == o.seq && chunkLen c o (slotChunk c o r) ≤ (slotBytes r).length

/-- Consume the chunk of a rank: its receive slot frees, and a CREDIT goes back (R366). -/
def consume (s : State) (n : Nat) (o : CollOp) (rank : Nat) : State :=
  collCtl (updComm s n (fun c => { c with slots := merase c.slots rank })) n 0x32 0 o [rank]

/-- Write the chunks that are not to be reduced from their receive slots to DST. -/
def landChunks (s : State) (n seq : Nat) : State :=
  (commAt s n).slots.foldl (fun s p =>
    let c := commAt s n
    match collOp s n seq with
    | none => s
    | some o =>
      let k := slotChunk c o p.2
      if !(collGoes c o) || !(slotWhole c o p.2) || reducesHere c o k || !(mayLand c o k p.1) then s
      else match collWrite s n o (o.dst + dstOff c o k p.1) ((slotBytes p.2).take (chunkLen c o k)) (chunkKey k p.1) with
        | (s, true) => consume s n o p.1
        | (s, false) => s) s

/-- Reduce chunk `k` once every rank's chunk is here (R364). -/
def reduceAt (s : State) (n seq k : Nat) : State :=
  let c := commAt s n
  match collOp s n seq with
  | none => s
  | some o =>
    let have_ := fun r => match mfind c.slots r with | some x => slotWhole c o x && slotChunk c o x == k | none => false
    if !(collGoes c o) || o.wrote.contains (chunkKey k c.rank) || !((otherRanks c).all have_) || !(mayLand c o k c.rank) then s
    else
      match collRead s n o (o.src + (if o.opc == 2 then c.rank * o.len else 0) + k * chunkSize c o) (chunkLen c o k) with
      | (s, none) => s
      | (s, some own) =>
        let parts := (List.range c.n).map (fun r => if r == c.rank then own else match mfind c.slots r with | some x => (slotBytes x).take own.length | none => [])
        let out := reduceChunk o parts
        match collWrite s n o (o.dst + k * chunkSize c o) out (chunkKey k c.rank) with
        | (s, false) => s
        | (s, true) =>
          let s := if o.opc == 4 then updOp s n seq (fun (o : CollOp) => { o with res := minsert o.res k out }) else s
          (otherRanks c).foldl (fun s r => consume s n o r) s

/-- Reduce the chunks that can be reduced. -/
def reduceChunks (s : State) (n seq : Nat) : State :=
  let c := commAt s n
  match collOp s n seq with
  | none => s
  | some o =>
    let ks := if c.n == 1 then List.range (chunkCount c o)
      else ((c.slots.filter (fun p => slotWhole c o p.2)).map (fun p => slotChunk c o p.2)).eraseDups
    (ks.filter (reducesHere c o)).foldl (fun s k => reduceAt s n seq k) s

/-- Chunks that this member writes and sends in all. -/
def collParts (c : Comm) (o : CollOp) : Nat × Nat :=
  let m := chunkCount c o
  let mine := ((List.range m).filter (fun k => k % c.n == c.rank)).length
  match o.opc with
  | 1 => (m, if o.root == c.rank then m * (c.n - 1) else 0)
  | 5 => (m, if o.root == c.rank then m * (c.n - 1) else 0)
  | 2 => (m, m * (c.n - 1))
  | 3 => (c.n * m, m * (c.n - 1))
  | 4 => (m, (m - mine) + mine * (c.n - 1))
  | _ => (0, 0)

/-- Report the end of this member's part to rank 0 (R363). -/
def reportEnd (s : State) (n seq : Nat) : State :=
  let c := commAt s n
  match collOp s n seq with
  | none => s
  | some o =>
    if o.reported || !o.parked.isEmpty || (o.wrote.length, o.sent.length) != collParts c o then s
    else collCtl (updOp s n seq (fun (o : CollOp) => { o with reported := true })) n 0x33 0 o [0]

/-- Do what an operation can do now. -/
def advanceOp (s : State) (n seq : Nat) : State := reportEnd (reduceChunks (landChunks (localCopies s n seq) n seq) n seq) n seq

/-- Do what every operation of a slot can do now. -/
def advance (s : State) (n : Nat) : State :=
  let c := commAt s n
  if c.st == .ready || c.st == .closing then (c.ops.map (fun o => o.seq)).foldl (fun s q => advanceOp s n q) s else s

/-! ## COLL (R368) -/

/-- The offset that a COLL names. -/
def collOffset (x : Ctx) (f : QF) : Nat := (sget x.c f.p1.toNat).toNat
/-- Bytes of the team's scratchpad. -/
def scratchSize (s : State) (x : Ctx) : Nat := (teamAt s x.c.teamKey).size
/-- A COLL's checks on its offset: MISALIGN, then RANGE where `bad` holds. -/
def collTrap (x : Ctx) (off : Nat) (bad : Bool) : Option TrapReq :=
  if off % 32 != 0 then some (trapAt x 0x05 (BitVec.ofNat 64 off)) else if bad then some (trapAt x 0x13 (BitVec.ofNat 64 off)) else none

/-- An operation as its descriptor gives it. -/
def descOp (x : Ctx) (s : State) (bs : List Byte) : CollOp :=
  { opc := at_ bs 0 1, dtype := at_ bs 1 1, red := at_ bs 2 1, root := at_ bs 3 1, nc := at_ bs 5 1, len := at_ bs 8 4, src := at_ bs 16 8, dst := at_ bs 24 8
    stamp := stampOf x.c (lowest x.m), crew := x.k, pendId := x.id, lid := x.c.lid, part := x.c.part, gcrew := x.c.gcrew, pcAt := x.pc, born := s.clock }

/-- A descriptor breaks a limit of R362, or its slot takes no operation. -/
def collDescBad (s : State) (bs : List Byte) (o : CollOp) : Bool :=
  let c := commAt s (at_ bs 4 1)
  let reduces := o.opc == 2 || o.opc == 4
  let fmtOk := (1 ≤ o.dtype && o.dtype ≤ 6) || isBfp o.dtype
  !(zeroAt bs [(6, 2), (12, 4)]) || 64 ≤ at_ bs 4 1 || 5 < o.opc || (reduces && (16 ≤ o.dtype || !fmtOk || 2 < o.red || 1 < o.nc)) || 16 ≤ o.dtype ||
  4 ≤ o.red || 2 ≤ o.nc || (c.st != .ready && c.st != .broken) || c.n ≤ o.root || 2 ^ 56 ≤ o.src || 2 ^ 56 ≤ o.dst || o.len == 0 ||
  o.len % collUnit o.opc o.dtype o.nc != 0 || (o.opc == 5 && c.chunk < o.len)

/-- The checks of COLL with SUB 0. -/
def collBad (x : Ctx) (f : QF) (s : State) : Option TrapReq :=
  let off := collOffset x f
  let bs := scB (teamAt s x.c.teamKey) off 32
  collTrap x off (scratchSize s x < off + 32 || collDescBad s bs (descOp x s bs))

/-- The first packet of a SEQ disagrees with this member's own descriptor (R365). -/
def mismatch (k : Packet) (o : CollOp) : Bool :=
  let f := k.faddr.toNat
  k.opx.toNat != o.opc || fld f 47 40 != o.root || k.count.toNat != o.len || ((o.opc == 2 || o.opc == 4) && (fld f 51 48 != o.dtype || fld f 53 52 != o.red))

/-- Queue an operation on its slot, or fail it at once on a BROKEN one (R362, R372, R374). -/
def startColl (x : Ctx) (f : QF) (s : State) : State :=
  let bs := scB (teamAt s x.c.teamKey) (collOffset x f) 32
  let n := at_ bs 4 1
  let c := commAt s n
  let o := { descOp x s bs with seq := c.seq }
  let s := updComm s n (fun c => { c with seq := (c.seq + 1) % 256 })
  if c.st == .broken then
    updCrew s x.k (fun c => addPend c (statusPend x f.d.toNat (some (collStatus n o.seq 5))))
  else
    let s := updCrew s x.k (fun c => addPend c (statusPend x f.d.toNat none))
    let s := updComm s n (fun c => { c with ops := c.ops ++ [o] })
    let s := if o.opc != 5 then s
      else if o.root == c.rank then updComm s n (fun c => { c with reps := c.reps ++ [(o.seq, 1, c.rank)] })
      else collCtl s n 0x33 1 o [o.root]
    match mfind c.seen o.seq with
    | some k => if mismatch k o then collFound s n o.seq 1 else advance s n
    | none => advance s n

/-- COLL (R362, R368). -/
def coreColl (f : QF) : Core :=
  { uses := [useS f.p1 1 false, useS f.d 1 true]
    counts := true
    cyc := 2
    hold := fun x s =>
      let n := scN (teamAt s x.c.teamKey) (collOffset x f + 4) 1
      if (collBad x f s).isNone && 4 ≤ (commAt s n).ops.length then some .issueConflict else none
    run := fun x s => match collBad x f s with | some r => .trap s r | none => .done (startColl x f s) }
/-- COLL. -/
def execColl (f : QF) (s : State) : Host.Outcome State Fault Refusal := issue (.coll f) (coreColl f) s

/-- A slot as its definition record gives it; the basic level sets chunk size, priority and timeout (R360). -/
def defComm (x : Ctx) (s : State) (bs : List Byte) : Comm :=
  let n := at_ bs 2 2
  let e := expertOf x.c 5
  { st := .defining, prio := if e then at_ bs 1 1 else 1, n := n, chunk := if e then at_ bs 4 4 else 4096, rank := at_ bs 8 2
    timeout := if e && at_ bs 12 4 != 0 then at_ bs 12 4 else 10000, job := at_ bs 16 2
    members := (List.range n).map (fun k => BitVec.ofNat 12 (at_ bs (32 + 2 * k) 2)), part := x.c.part, defWait := some (x.k, x.id), defBorn := s.clock }

/-- A definition record breaks a limit of R360. -/
def defBad (x : Ctx) (bs : List Byte) (c : Comm) : Bool :=
  let t := at_ bs 12 4
  64 ≤ at_ bs 0 1 || 4 ≤ at_ bs 1 1 || !(zeroAt bs [(10, 2), (18, 14)]) || c.n == 0 || 256 < c.n || c.n ≤ c.rank ||
  (List.range c.n).any (fun k => 4096 ≤ at_ bs (32 + 2 * k) 2) || c.members.eraseDups.length != c.members.length ||
  (expertOf x.c 5 && (c.chunk % 64 != 0 || c.chunk < 64 || 65536 < c.chunk || (t != 0 && (t < 1000 || 10000000 < t))))

/-- The definition record of a COLL with SUB 1. -/
def defBytes (x : Ctx) (f : QF) (s : State) : List Byte :=
  let t := teamAt s x.c.teamKey
  let off := collOffset x f
  scB t off (32 + 2 * min 256 (scN t (off + 2) 2))

/-- The checks of COLL with SUB 1. -/
def defTrap (x : Ctx) (f : QF) (s : State) : Option TrapReq :=
  let off := collOffset x f
  let bs := defBytes x f s
  collTrap x off (scratchSize s x < off + 32 || scratchSize s x < off + 32 + 2 * at_ bs 2 2 || defBad x bs (defComm x s bs))

/-- What the DEFINEs of a slot carry, one flit each: NMEM, CHUNK and JOB, then the member list, 8 members to a piece (log entry 13). -/
def definePieces (c : Comm) : List (List Byte) :=
  (natBytes 2 c.n ++ natBytes 4 c.chunk ++ natBytes 2 c.job) ::
    (List.range ((c.n + 7) / 8)).map (fun i => ((c.members.drop (8 * i)).take 8).flatMap (fun d => natBytes 2 d.toNat))

/-- Send the DEFINEs of a slot to ranks; FADDR gives the piece, and `opx` 1 marks an answer. -/
def sendDefine (s : State) (n : Nat) (opx : BitVec 4) (ranks : List Nat) : State :=
  ranks.foldl (fun s r => (definePieces (commAt s n)).zipIdx.foldl (fun s p =>
    sendPlain s { collPkt s n (commAt s n) 0x30 r 0 {} with opx := opx, faddr := BitVec.ofNat 64 p.2, len := p.1.length, data := p.1 }) s) s

/-- A DEFINING slot that every member has defined becomes READY (R360, R375). -/
def readyCheck (s : State) (n : Nat) : State :=
  let c := commAt s n
  match c.st, c.defWait with
  | .defining, some w =>
    if memberOf c c.rank == s.deviceId && (otherRanks c).all (fun r => c.definedBy.contains r) then
      collReturn (updComm s n (fun c => { c with st := .ready, defWait := none })) w.1 w.2 (collStatus n 0 0)
    else s
  | _, _ => s

/-- COLL_DEF (R360, R368, R375). -/
def coreCollDef (f : QF) : Core :=
  { uses := [useS f.p1 1 false, useS f.d 1 true]
    counts := true
    cyc := 2
    run := fun x s =>
      match defTrap x f s with
      | some r => .trap s r
      | none =>
        let bs := defBytes x f s
        let n := at_ bs 0 1
        let c := defComm x s bs
        let s := holdSlot s x.k (2 + (c.n + 15) / 16)
        if (mfind s.comms n).isSome || collPool < collUsed s + c.n * c.chunk then
          .done (updCrew s x.k (fun c => addPend c (statusPend x f.d.toNat (some (collStatus n 0 7)))))
        else
          let s := updCrew { s with comms := minsert s.comms n c } x.k (fun c => addPend c (statusPend x f.d.toNat none))
          .done (readyCheck (sendDefine s n 0 (otherRanks c)) n) }
/-- COLL_DEF. -/
def execCollDef (f : QF) (s : State) : Host.Outcome State Fault Refusal := issue (.collDef f) (coreCollDef f) s

/-- The checks of COLL with SUB 2. -/
def undefTrap (x : Ctx) (f : QF) (s : State) : Option TrapReq :=
  let off := collOffset x f
  let n := scN (teamAt s x.c.teamKey) off 1
  let c := commAt s n
  collTrap x off (scratchSize s x < off + 1 || 64 ≤ n || (c.st != .ready && c.st != .broken))

/-- COLL_UNDEF (R361, R368). -/
def coreCollUndef (f : QF) : Core :=
  { uses := [useS f.p1 1 false, useS f.d 1 true]
    counts := true
    cyc := 2
    run := fun x s =>
      match undefTrap x f s with
      | some r => .trap s r
      | none =>
        let n := scN (teamAt s x.c.teamKey) (collOffset x f) 1
        let s := updCrew s x.k (fun c => addPend c (statusPend x f.d.toNat none))
        .done (closeCheck (updComm s n (fun c => { c with st := .closing, closeWait := some (x.k, x.id) })) n) }
/-- COLL_UNDEF. -/
def execCollUndef (f : QF) (s : State) : Host.Outcome State Fault Refusal := issue (.collUndef f) (coreCollUndef f) s

/-! ## Packets in (R360, R361, R363, R365, R366, R371, R372) -/

/-- The slot that a collective packet names. -/
def pktComm (k : Packet) : Nat := k.slot.toNat % 64
/-- The rank that sent it. -/
def pktRank (k : Packet) : Nat := k.slot.toNat / 256
/-- The kind of a collective packet. -/
def pktKind (k : Packet) : Nat := fld k.tag.toNat 14 12

/-- A chunk, credit, report or release for a FREE slot is discarded, and its sender's operation fails with reason 0x06 (R361): an ABORT marked so goes back (log entry 13). -/
def freeAbort (s : State) (k : Packet) : State :=
  sendPlain s { mkPkt s 0x35 3 k.src with
    slot := BitVec.ofNat 16 (pktComm k), opx := 1, count := 6, faddr := BitVec.ofNat 64 (pktSeq k * 2 ^ 32), tag := collTag k.src (pktKind k) }

/-- A reduction of the tide engine fails as an operation after those queued would (R326, log entry 26). -/
def tideFail (s : State) (n reason : Nat) : State := collFound s n (commAt s n).seq reason

/-- The value of another member in a reduction of the tide engine; COUNT names the reduction, and no data means no event (R373, log entry 26). -/
def tideValue (s : State) (k : Packet) : State :=
  updComm s (pktComm k) (fun c =>
    if c.tideIn.any (fun v => v.1 == k.count.toNat && v.2.1 == pktRank k) then c
    else { c with tideIn := c.tideIn ++ [(k.count.toNat, pktRank k, if k.len == 0 then none else some (at_ k.data 0 8))] })

/-- The fields of the first chunk or report of a SEQ are compared with the operation, or kept until it is issued here (R365). -/
def checkFields (s : State) (k : Packet) : State :=
  let n := pktComm k
  if (mfind (commAt s n).seen (pktSeq k)).isSome then s
  else
    let s := updComm s n (fun c => { c with seen := minsert c.seen (pktSeq k) k })
    match collOp s n (pktSeq k) with
    | some o => if mismatch k o then collFound s n o.seq 1 else s
    | none => s

/-- COLL_DEFINE_PACKET (R360): DEFINE `arg.pkt` counts for a DEFINING or READY slot that agrees with it. Once every piece of a member agrees, the member has defined the slot, and is answered
in kind. A member that defines the slot again starts again, and one whose definition differs has not defined it. -/
def execCollDefinePacket (s : State) : Host.Outcome State Fault Refusal :=
  let k := s.arg.pkt
  let n := pktComm k
  let c := commAt s n
  let r := pktRank k
  let i := k.faddr.toNat % 2 ^ 32
  if (c.st != .defining && c.st != .ready) || memberOf c r != k.src || r == c.rank || c.n ≤ r then .next s
  else if (definePieces c)[i]? != some k.data then
    .next (updComm s n (fun c => { c with defParts := c.defParts.filter (fun p => p.1 != r), definedBy := if c.st == .ready then c.definedBy else c.definedBy.filter (fun d => d != r) }))
  else
    let whole := fun (ps : List (Nat × Nat)) => (List.range (definePieces c).length).all (fun i => ps.contains (r, i))
    let old := if k.opx == 0 && whole c.defParts then c.defParts.filter (fun p => p.1 != r) else c.defParts
    let parts := if old.contains (r, i) then old else old ++ [(r, i)]
    let s := updComm s n (fun c => { c with defParts := parts })
    if !(whole parts) then .next s else
    let s := updComm s n (fun c => { c with definedBy := if c.definedBy.contains r then c.definedBy else c.definedBy ++ [r] })
    let s := if k.opx == 0 then sendDefine s n 1 [r] else s
    .next (readyCheck s n)

/-- COLL_CHUNK (R363 to R366): packet `arg.pkt` of a chunk lands in the receive slot of its sender. -/
def execCollChunk (s : State) : Host.Outcome State Fault Refusal :=
  let k := s.arg.pkt
  let n := pktComm k
  match (commAt s n).st with
  | .free => .next (freeAbort s k)
  | .broken => .next s
  | _ =>
    if pktKind k == 3 then .next (tideValue s k) else
    let at_ := k.faddr.toNat % 2 ^ 32
    let s := if (mfind (commAt s n).slots (pktRank k)).isNone then count s 5361 1 else s
    let s := updComm s n (fun c => { c with
      slots := match mfind c.slots (pktRank k) with
        | some r => minsert c.slots (pktRank k) { r with got := minsert r.got at_ k.data }
        | none => minsert c.slots (pktRank k) { first := k, got := [(at_, k.data)] } })
    .next (advance (checkFields s k) n)

/-- COLL_CREDIT (R366): CREDIT `arg.pkt` frees its sender's receive slot for this member. -/
def execCollCredit (s : State) : Host.Outcome State Fault Refusal :=
  let k := s.arg.pkt
  let n := pktComm k
  if (commAt s n).st == .free then .next (freeAbort s k)
  else if (commAt s n).st == .broken then .next s
  else .next (updComm s n (fun c => { c with busy := c.busy.filter (fun r => r != pktRank k) }))

/-- Hold a report once. -/
def addRep (s : State) (n : Nat) (r : Nat × Nat × Nat) : State := updComm s n (fun c => { c with reps := if c.reps.contains r then c.reps else c.reps ++ [r] })

/-- A break report at rank 0's firmware, which sends the release at the last one (R372). -/
def breakReport (s : State) (n r : Nat) : State :=
  match (mfind s.breaks n).orElse (fun _ => (mfind s.comms n).map (fun c => { comm := c })) with
  | none => s
  | some b =>
    let reps := if b.reps.contains r then b.reps else b.reps ++ [r]
    if (List.range b.comm.n).all (fun q => reps.contains q) then
      (List.range b.comm.n).foldl (fun s q => sendPlain s (collPkt s n b.comm 0x34 q 2 {})) { s with breaks := minsert s.breaks n { b with reps := [] } }
    else { s with breaks := minsert s.breaks n { b with reps := reps } }

/-- COLL_REPORT (R363, R372, R374): REPORT `arg.pkt` counts an end at rank 0, which releases every member at the last one, an issue at the root, or a break
at rank 0's firmware. -/
def execCollReport (s : State) : Host.Outcome State Fault Refusal :=
  let k := s.arg.pkt
  let n := pktComm k
  let c := commAt s n
  if pktKind k == 2 then .next (breakReport s n (pktRank k))
  else if c.st == .free then .next (freeAbort s k)
  else if c.st == .broken then .next s
  else
    let q := pktSeq k
    let s := addRep (checkFields s k) n (q, pktKind k, pktRank k)
    let c := commAt s n
    if c.st == .broken then .next s
    else if pktKind k == 0 && (List.range c.n).all (fun r => c.reps.contains (q, 0, r)) then
      .next (collCtl s n 0x34 0 ((collOp s n q).getD { seq := q }) (List.range c.n))
    else .next (advance s n)

/-- The number of the record that an owner waits for. -/
def recOf (s : State) (o : RecOwner) : Option Nat := (s.faultq.open_.find? (fun p => p.2.2 == o)).map (fun p => p.1)
/-- The firmware answers record `n`, and nobody waits for it any more. -/
def answerRec (s : State) (n st : Nat) : State :=
  let s := wrN s (recAddr s.faultq n + 60) 4 st
  { s with faultq := { s.faultq with open_ := merase s.faultq.open_ n } }

/-- Reset a BROKEN slot: receive slots free, queue clear, SEQ 0, READY (R372), with the status word of a definition still outstanding (R375). -/
def resetComm (s : State) (n : Nat) : State :=
  let c := commAt s n
  if c.st != .broken then s
  else
    let s := c.ops.foldl (fun s o => finishOp s n o 5) s
    let s := updComm s n (fun c => { c with
      st := .ready, slots := [], busy := [], seq := 0, reps := [], seen := [], ops := [], tideBorn := none, tideOut := [], tideIn := [], defWait := none })
    match c.defWait with
    | some w => collReturn s w.1 w.2 (collStatus n 0 0)
    | none => s

/-- COLL_RELEASE (R363, R372): RELEASE `arg.pkt` lets the member write its status word, or reset its BROKEN slot and answer its record 2. -/
def execCollRelease (s : State) : Host.Outcome State Fault Refusal :=
  let k := s.arg.pkt
  let n := pktComm k
  let c := commAt s n
  if pktKind k == 2 then
    match mfind s.breaks n, recOf s (.comm n) with
    | some b, some r => if b.sent then .next { answerRec (resetComm s n) r 2 with breaks := merase s.breaks n } else .next s
    | _, _ => .next s
  else if c.st == .free then .next (freeAbort s k)
  else if c.st == .broken then .next s
  else match collOp s n (pktSeq k) with
    | some o => if o.reported then .next (finishOp s n o 0) else .next s
    | none => .next s

/-- COLL_ABORT (R361, R371): ABORT `arg.pkt` fails an operation and the later ones of its slot. -/
def execCollAbort (s : State) : Host.Outcome State Fault Refusal :=
  let k := s.arg.pkt
  let n := pktComm k
  if k.opx == 1 then .next (if pktKind k == 3 then tideFail s n 6 else if (collOp s n (pktSeq k)).isSome then collFound s n (pktSeq k) 6 else s)
  else .next (collFail s n (pktSeq k) (k.count.toNat % 256) (k.count.toNat / 256 % 256) false)

/-- LOSS_PACKET (R337, R357, R371): LOSS notice `arg.pkt` damages a slot, faults the lanes of a request, or fails a collective operation. -/
def execLossPacket (s : State) : Host.Outcome State Fault Refusal :=
  let k := s.arg.pkt
  let v := k.count.toNat
  let n := pktComm k
  let q := k.faddr.toNat % 256
  if v / 2 ^ 31 == 0 && fld v 23 20 == 3 then
    .next (if pktKind k == 3 then tideFail s n 2 else if fld v 23 16 != 0x30 && pktKind k != 2 && (collOp s n q).isSome then collFound s n q 2 else s)
  else .next (lossNotice s k)

/-! ## The sender (R366, R367) -/

/-- This member sends chunk `k` to rank `d`, and its data is at hand. -/
def sendsTo (c : Comm) (o : CollOp) (k d : Nat) : Bool :=
  match o.opc with
  | 1 => o.root == c.rank
  | 5 => o.root == c.rank
  | 2 => true
  | 3 => true
  | 4 => if k % c.n == c.rank then (mfind o.res k).isSome else k % c.n == d
  | _ => false

/-- The next chunk of an operation and its destination. -/
def opNext (c : Comm) (o : CollOp) : Option (Nat × Nat) :=
  if !(collGoes c o) then none
  else (List.range (chunkCount c o)).findSome? (fun k =>
    ((otherRanks c).find? (fun d => sendsTo c o k d && !(o.sent.contains (chunkKey k d)) && !(c.busy.contains d))).map (fun d => (k, d)))

/-- The next chunk of a slot: the lowest SEQ first. -/
def commNext (c : Comm) : Option (Nat × Nat × Nat) :=
  if c.st != .ready && c.st != .closing then none else c.ops.findSome? (fun o => (opNext c o).map (fun p => (o.seq, p.1, p.2)))

/-- The sender's choice: slot, SEQ, chunk, destination (R367). A value of the tide engine, with 256 for its SEQ, has priority 3 (R373). -/
def chunkNext (s : State) : Option (Nat × Nat × Nat × Nat) :=
  let tide := s.comms.filterMap (fun p => match p.2.st, p.2.tideOut with | .ready, v :: _ => some (p.1, 3, 256, 0, v.2.1) | _, _ => none)
  let cand := tide ++ s.comms.filterMap (fun p => (commNext p.2).map (fun q => (p.1, p.2.prio, q)))
  (least (fun (p : Nat × Nat × Nat × Nat × Nat) => (3 - p.2.1) * 64 + (p.1 + 127 - s.lastComm) % 64) cand).map (fun p => (p.1, p.2.2))

/-- A chunk cut into packets of at most 256 bytes, with their offsets. -/
def cutBytes : Nat → Nat → List Byte → List (Nat × List Byte)
  | 0, _, _ => []
  | n + 1, o, bs => if bs.isEmpty then [] else (o, bs.take 256) :: cutBytes n (o + 256) (bs.drop 256)

/-- The first value of the tide engine that waits on a slot goes out, in channel band 1 (R373). -/
def sendTide (s : State) (n : Nat) : State :=
  let c := commAt s n
  match c.tideOut with
  | [] => s
  | v :: r =>
    let d := match v.2.2 with | some x => natBytes 8 x | none => []
    sendPlain { updComm s n (fun c => { c with tideOut := r }) with lastComm := n }
      { collPkt s n { c with prio := 3 } 0x31 v.2.1 3 {} with count := BitVec.ofNat 32 v.1, len := d.length, data := d }

/-- COLL_CHUNK_SEND (R363, R367, R373): at a chunk boundary the sender takes its next chunk and sends it whole. -/
def execCollChunkSend (s : State) : Host.Outcome State Fault Refusal :=
  match chunkNext s with
  | none => .next s
  | some (n, q, k, d) =>
    let c := commAt s n
    if q == 256 then .next (sendTide s n) else
    match collOp s n q with
    | none => .next s
    | some o =>
      let got := match o.opc, mfind o.res k with
        | 4, some bs => (s, some bs)
        | _, _ => collRead s n o (o.src + (if o.opc == 2 then d * o.len else 0) + k * chunkSize c o) (chunkLen c o k)
      match got with
      | (s, none) => .next s
      | (s, some bs) =>
        let s := updOp s n q (fun (o : CollOp) => { o with sent := o.sent ++ [chunkKey k d] })
        let s := updComm s n (fun c => { c with busy := c.busy ++ [d] })
        let s := (cutBytes (bs.length / 256 + 1) (k * chunkSize c o) bs).foldl (fun s p =>
          let h := collPkt s n c 0x31 d 0 o
          sendPlain s { h with faddr := h.faddr + BitVec.ofNat 64 p.1, len := p.2.length, data := p.2 }) { s with lastComm := n }
        .next (advance (count s 5360 1) n)

/-! ## Timeouts and recovery (R371, R372, R375) -/

/-- A reduction of the tide engine has not ended within TIMEOUT of this member's value (R326, R371). -/
def tideLate (s : State) (c : Comm) : Bool := match c.tideBorn with | some t => c.st == .ready && t + us c.timeout ≤ s.clock | none => false

/-- COLL_TIMEOUT (R371): operation `arg.b` of slot `arg.a` has not ended within TIMEOUT of its issue here; with `arg.b` 256, a reduction of the tide engine. -/
def execCollTimeout (s : State) : Host.Outcome State Fault Refusal :=
  let n := s.arg.a
  let c := commAt s n
  if s.arg.b == 256 then .next (if tideLate s c then tideFail s n 3 else s) else
  match collOp s n s.arg.b with
  | some o => if s.clock < o.born + us c.timeout then .next s else if c.st == .broken then .next (finishOp s n o 3) else .next (collFound s n o.seq 3)
  | none => .next s

/-- COLL_DEF_TIMEOUT (R375): slot `arg.a` is still DEFINING after its TIMEOUT. -/
def execCollDefTimeout (s : State) : Host.Outcome State Fault Refusal :=
  let n := s.arg.a
  let c := commAt s n
  match c.st, c.defWait with
  | .defining, some w =>
    if s.clock < c.defBorn + us c.timeout then .next s else .next (collReturn { s with comms := merase s.comms n } w.1 w.2 (collStatus n 0 6))
  | _, _ => .next s

/-- The record of a failure of slot `n` is written, and the firmware is to answer it; the slot itself may have been closed since. -/
def firmwareResets (s : State) (n : Nat) : Option (Break × Nat) :=
  match mfind s.breaks n, recOf s (.comm n) with
  | some b, some r => if b.failAt.isSome && (mget ({}, .nobody) s.faultq.open_ r).1.hw then some (b, r) else none
  | _, _ => none

/-- FIRMWARE_COLL_RESET (R372): the firmware takes the record of slot `arg.a` and sends a break report to rank 0. -/
def execFirmwareCollReset (s : State) : Host.Outcome State Fault Refusal :=
  let n := s.arg.a
  match firmwareResets s n with
  | some (b, _) => .next (if b.sent then s else sendPlain { s with breaks := minsert s.breaks n { b with sent := true } } (collPkt s n b.comm 0x33 0 2 {}))
  | none => .next s

/-- A break exchange has had no release within the slot's TIMEOUT of this member's record (R372). -/
def breakLate (s : State) (b : Break) : Bool := match b.failAt with | some t => t + us b.comm.timeout ≤ s.clock | none => false

/-- COLL_BREAK_TIMEOUT (R372): slot `arg.a` has no break release within TIMEOUT of its record; the record is answered 3 and the slot stays BROKEN. -/
def execCollBreakTimeout (s : State) : Host.Outcome State Fault Refusal :=
  match firmwareResets s s.arg.a with
  | some (b, r) => .next (if breakLate s b then { answerRec s r 3 with breaks := merase s.breaks s.arg.a } else s)
  | none => .next s

end Sys2Proof.Machine
end

