-- ==== Sys2Proof/Machine/Copy.lean ====
section
/-! DEFINITION. The copy engine: CPY, CPYK, CPYT, PERMIT, CPYC, CPYWT and the steps of their copies (R282 to R302). -/

namespace Sys2Proof.Machine

/-! ## Copies in flight (R283 to R285, R300) -/

/-- The order of the causes of a copy's fault (R288). -/
def copyRank (c : Byte) : Nat :=
  match c.toNat with
  | 0x05 => 0
  | 0x13 => 1
  | 0x10 => 2
  | 0x11 => 3
  | 0x06 => 4
  | 0x12 => 5
  | _ => 6

/-- In-flight entries of an isle in use (R283). -/
def entriesUsed (s : State) (isle : Nat) : Nat := (s.copies.filter (fun o => o.isle == isle)).length

/-- A crew that parked for entries on the isle before this one, or with it in a lower slot (R283). -/
def entriesAhead (s : State) (x : Ctx) : Bool :=
  s.crews.any (fun p => p.1 != x.k && !p.2.saved && isleOf p.2.gcrew == isleOf x.c.gcrew && p.2.wait == .atIssue .copyEntries &&
    (x.c.wait != .atIssue .copyEntries || p.2.parkedAt < x.c.parkedAt || (p.2.parkedAt == x.c.parkedAt && p.2.gcrew.toNat < x.c.gcrew.toNat)))

/-- A copy of `n` entries must wait for them (R283). -/
def entriesHold (s : State) (x : Ctx) (n : Nat) : Option WaitKind :=
  if 256 < entriesUsed s (isleOf x.c.gcrew) + n || entriesAhead s x then some .copyEntries else none

/-- The copy of an id. -/
def copyAt (s : State) (i : Nat) : Option CopyOp := s.copies.find? (fun o => o.id == i)
/-- Replace a copy. -/
def putCopy (s : State) (o : CopyOp) : State := { s with copies := s.copies.map (fun p => if p.id == o.id then o else p) }
/-- The entry of a copy frees (R283). -/
def dropCopy (s : State) (o : CopyOp) : State := { s with copies := s.copies.filter (fun p => p.id != o.id) }
/-- Every byte and count of a copy has been performed; `w` is its status word. Its entry frees, once the status word has been written where its crew still awaits it; a save may have waited for
the copy (R283, R301). -/
def endCopy (s : State) (o : CopyOp) (w : Word) : State :=
  settleTeams (if (o.kind == .cpy || o.kind == .cpyc) && (crewAt s o.crew).pend.any (fun p => p.id == o.pendId) then putCopy s { o with ended := some w } else dropCopy s o)
/-- The status word of result `id` of crew `k` has been written: the copy that it ends frees its entry, a CPY with its ENGINE packet (R283, R410). -/
def copyReturned (s : State) (k id : Nat) : State :=
  match s.copies.find? (fun o => o.ended.isSome && o.crew == k && o.pendId == id) with
  | none => s
  | some o => if o.kind == .cpy then traceEngine (dropCopy s o) k 1 (o.ended.getD 0) (mget 0 o.stamps (lowest o.mask)) 0 else dropCopy s o
/-- Start a copy for the issuing crew. -/
def startCopy (s : State) (x : Ctx) (o : CopyOp) : State :=
  { s with
    nextCopy := s.nextCopy + 1
    copies := s.copies ++
      [{ o with id := s.nextCopy, crew := x.k, team := x.c.teamKey, isle := isleOf x.c.gcrew, part := x.c.part, gcrew := x.c.gcrew, lid := x.c.lid
                strict := x.c.strict, pcAt := x.pc, pendId := x.id }] }

/-- The copy as the maker of its accesses. -/
def copyWho (o : CopyOp) : Who :=
  { gcrew := o.gcrew, lid := BitVec.ofNat 32 o.lid, part := o.part, pc := o.pcAt.setWidth 64, isle := some o.isle }

/-- The status word of R284. -/
def copyStatus (fault : Bool) (snap : Option (Nat × Nat × Nat)) (bytes : Nat) : Word :=
  BitVec.ofNat 32 (2 ^ 31 + (if fault then 2 ^ 30 else 0) + (match snap with | some (_, n, f) => n * 2 ^ 28 + f * 2 ^ 24 | none => 0) + bytes % 2 ^ 24)

/-- The fault record of a copy (R288): needs no answer. -/
def copyFault (s : State) (o : CopyOp) (stamp : Dword) (cause : Byte) (addr : Nat) (ls pcm : Mask) : State :=
  postRec s
    { typ := cause, hw := true, impr := true, gcrew := o.gcrew, lid := BitVec.ofNat 32 o.lid, part := o.part, addr := BitVec.ofNat 64 addr
      pc := o.pcAt.setWidth 64, lanes := ls, pcm := pcm, stamp := stamp } .nobody

/-- The record of a copy parked on a missing page (R300). -/
def copyPark (s : State) (o : CopyOp) (stamp : Dword) (addr : Nat) (ls : Mask) (wr : Bool) : State :=
  postRec s
    { typ := 0x10, hw := modeBit s o.part 0, impr := true, gcrew := o.gcrew, lid := BitVec.ofNat 32 o.lid, part := o.part, addr := BitVec.ofNat 64 addr
      pc := o.pcAt.setWidth 64, lanes := ls, pcm := o.done, stamp := stamp, detail := if wr then 1 else 0 } (.copy o.id)

/-- The status of a copy returns into its scalar once it is read back (R126). -/
def copyResult (s : State) (o : CopyOp) (w : Word) : State :=
  updCrew s o.crew (fun c => { c with pend := c.pend.map (fun (p : Pend) =>
    if p.id == o.pendId then { p with ready := true, targets := p.targets.map (fun t => { t with val := w }) } else p) })

/-! ## CPY (R286 to R288) -/

/-- The least of two optional faults by rank, the first among equals. -/
def worst (a b : Option (Byte × Nat)) : Option (Byte × Nat) :=
  match a, b with
  | some x, some y => if copyRank y.1 < copyRank x.1 then some y else some x
  | some x, none => some x
  | none, y => y

/-- A fault of an address that needs no translation (R288, R211). -/
def copyEarly (t : Team) (sp : Bool) (a : Int) (w : Nat) : Option (Byte × Nat) :=
  let v := (BitVec.ofInt 64 a).toNat
  if a % w != 0 then some (0x05, v)
  else if a < 0 || (if sp then (t.size : Int) < a + w else (2 : Int) ^ 56 ≤ a) then some (0x13, v) else none

/-- The fault of reading `n` bytes, in one page, at a source address. A global address from 2^56 up is out of range (R211, R296). -/
def copySrc (s : State) (o : CopyOp) (sp : Bool) (a n : Nat) : State × Option (Byte × Nat) :=
  if sp then (s, none)
  else if 2 ^ 56 < a + n then (s, some (0x13, a))
  else match vread s (copyWho o) a n .rd with
    | (s, .ok _) => (s, none)
    | (s, .error c) => (s, some (c, a))

/-- The destination of a strict launch's copy lies on a page with ORD set (R302). -/
def copyOrd (s : State) (o : CopyOp) (a : Nat) : Bool :=
  o.strict && (match leafOf s (copyWho o) a with | some e => fld e 61 61 == 1 | none => false)

/-- The fault of writing `n` bytes, in one page, at a destination address: ORDNOTOK stands before PGPOISON (R288, R302). -/
def copyDst (s : State) (o : CopyOp) (sp : Bool) (a n : Nat) : State × Option (Byte × Nat) :=
  if sp then (s, none)
  else match xlate s (copyWho o) a .wr with
    | (s, .error c) => (s, some (if c == 0x12 && copyOrd s o a then 0x06 else c, a))
    | (s, .ok p) =>
      if copyOrd s o a then (s, some (0x06, a))
      else if !(n == 128 && p.pa a % 128 == 0) && anyPoison s (p.pa a) n then (s, some (0x12, a)) else (s, none)

/-- Read `n` bytes that do not fault. -/
def copyGet (s : State) (o : CopyOp) (sp : Bool) (a n : Nat) : List Byte :=
  if sp then scB (teamAt s o.team) a n
  else match vread s (copyWho o) a n .rd with
    | (_, .ok bs) => bs
    | _ => []

/-- Write bytes that do not fault. -/
def copyPut (s : State) (o : CopyOp) (sp : Bool) (a : Nat) (bs : List Byte) : State :=
  if sp then scLand s o.team a bs else (vwrite s (copyWho o) a bs).1

/-- N code and format of a source page (R284). -/
def copyAttr (s : State) (o : CopyOp) (sp : Bool) (a : Nat) : Nat × Nat :=
  if sp then (0, 0)
  else match (xlate s (copyWho o) a .rd).2 with
    | .ok p => (p.geom % 4, p.fmt)
    | .error _ => (0, 0)

/-- Which page of a lane is missing, and whether it is the destination's. -/
abbrev LanePark := Nat × Nat × Bool

/-- A lane of a CPY that has neither performed nor faulted. -/
def cpyOpen (o : CopyOp) (L : Nat) : Bool :=
  o.mask.getLsbD L && !(o.done.getLsbD L || o.early.any (fun e => e.1 == L) || o.late.any (fun e => e.1 == L))

/-- Where an access of the copy goes: a scratchpad offset, or the physical address. -/
def copyPlace (s : State) (o : CopyOp) (sp : Bool) (a : Nat) (w : Acc) : Nat :=
  if sp then a else match (xlate s (copyWho o) a w).2 with | .ok p => p.pa a | .error _ => 0

/-- Translate both accesses of a lane: the lane begins, or its fault is answered with whether the destination gave it (R288). -/
def cpyBegin (s : State) (o : CopyOp) (L : Nat) : State × CopyOp × Option (Byte × Nat × Bool) :=
  if (mfind o.begun L).isSome then (s, o, none)
  else
    let sa := mget 0 o.src L
    let da := mget 0 o.dst L
    let r := copySrc s o o.srcSp sa o.w
    let t := copyDst r.1 o o.dstSp da o.w
    match worst r.2 t.2 with
    | some f => (t.1, o, some (f.1, f.2, r.2 != some f))
    | none => (t.1, { o with begun := minsert o.begun L (copyPlace t.1 o o.srcSp sa .rd, copyPlace t.1 o o.dstSp da .wr) }, none)

/-- Read word `j` of a lane that has begun, once (R299). -/
def cpyRead (s : State) (o : CopyOp) (L j : Nat) : CopyOp :=
  if (mfind o.held (16 * L + 4 * j)).isSome then o
  else
    let a := (mget (0, 0) o.begun L).1 + 4 * j
    let bs := if o.srcSp then scB (teamAt s o.team) a 4 else rdB s a 4
    { o with held := bs.zipIdx.foldl (fun m b => minsert m (16 * L + 4 * j + b.2) b.1) o.held }

/-- Write word `j` of a lane that has begun, once; a word that a higher lane has written keeps that lane's value (R287). Lanes that overlap have equal
addresses, since both are multiples of the size. -/
def cpyWrite (s : State) (o : CopyOp) (L j : Nat) : State × CopyOp :=
  if o.put.contains (16 * L + 4 * j) then (s, o)
  else
    let bs := (List.range 4).map (fun b => mget 0 o.held (16 * L + 4 * j + b))
    let a := (mget (0, 0) o.begun L).2 + 4 * j
    let hid := o.put.any (fun p => L < p / 16 && p % 16 == 4 * j && mget 0 o.dst (p / 16) == mget 0 o.dst L)
    let o := { o with put := o.put ++ [16 * L + 4 * j] }
    (if hid then s else if o.dstSp then scLand s o.team a bs else (pwrite s a bs).1, o)

/-- Word `j` of a lane that has begun is read and written. -/
def cpyWord (L : Nat) (acc : State × CopyOp) (j : Nat) : State × CopyOp := cpyWrite acc.1 (cpyRead acc.1 acc.2 L j) L j

/-- A word of an unfinished lane is read, or written too, ahead of the rest: R87 fixes no times for it. -/
def cpyAhead (s : State) (o : CopyOp) (wr : Bool) (L j : Nat) : State × CopyOp :=
  if o.ended.isSome || !(cpyOpen o L) || o.w ≤ 4 * j then (s, o)
  else
    let b := cpyBegin s o L
    match b.2.2 with
    | some _ => (b.1, o)
    | none => if wr then cpyWord L (b.1, b.2.1) j else (b.1, cpyRead b.1 b.2.1 L j)

/-- Perform, fault or park one lane of a CPY. -/
def cpyLane (acc : State × CopyOp × List LanePark) (L : Nat) : State × CopyOp × List LanePark :=
  let s := acc.1
  let o := acc.2.1
  if !(cpyOpen o L) then acc
  else
    let b := cpyBegin s o L
    match b.2.2 with
    | none =>
      let at_ := copyAttr b.1 o o.srcSp (mget 0 o.src L)
      let snap := match o.snap with | some p => if p.1 < L then some p else some (L, at_) | none => some (L, at_)
      let q := (List.range (o.w / 4)).foldl (cpyWord L) (b.1, b.2.1)
      (q.1, { q.2 with done := o.done ||| bit L, snap := snap }, acc.2.2)
    | some f =>
      if f.1 == 0x10 && !(o.refused.contains (f.2.1 / 65536)) then (b.1, o, acc.2.2 ++ [(L, f.2.1, f.2.2)])
      else (b.1, { o with late := o.late ++ [(L, f.1, f.2.1)] }, acc.2.2)

/-- The stamp that a copy's record carries for lanes. -/
def copyStamp (o : CopyOp) (m : Mask) : Dword := mget 0 o.stamps (lowest m)

/-- The 128-byte lines of addresses. -/
def lineCount (as : List Nat) : Nat := ((as.map (fun a => a / 128)).eraseDups).length
/-- The lanes of a CPY that performed share one read for each source line and one write for each destination line, which the request engine of its isle counts (R287, R421). -/
def cpyLines (s : State) (o : CopyOp) : State :=
  let at_ := fun (m : Map Nat) => lineCount ((lanes o.done).map (fun L => mget 0 m L))
  count (count s (4112 + 4 * o.isle) (at_ o.src)) (4113 + 4 * o.isle) (at_ o.dst)

/-- CPY_COMPLETE (R288): copy `arg.a` performs its lanes; lanes on missing pages park it (R300), else its status word and any fault record are written.
Each aligned word may be read, or read and written, at a moment of its own before (R87): with `arg.b` 1 or 2 the step does that for word `arg.d` of lane
`arg.c` alone (log entry 3). -/
def execCpyComplete (s : State) : Host.Outcome State Fault Refusal :=
  match copyAt s s.arg.a with
  | none => .next s
  | some o =>
    if o.kind != .cpy || !o.parked.isEmpty || o.ended.isSome then .next s
    else if s.arg.b != 0 then
      let r := cpyAhead s o (s.arg.b == 2) s.arg.c s.arg.d
      .next (putCopy r.1 r.2)
    else
      let r := (lanes o.mask).foldl cpyLane (s, o, [])
      let s := r.1
      let o := r.2.1
      match faultPages (r.2.2.map (fun p => (p.1, p.2.1))) with
      | [] =>
        let bad := o.early ++ o.late
        let n := (lanes o.done).length
        let st := copyStatus (!bad.isEmpty) o.snap (o.w * n)
        let s :=
          match least (fun e => 64 * copyRank e.2.1 + e.1) bad with
          | none => s
          | some e =>
            let m := lanesMask bad
            copyFault s o (copyStamp o m) e.2.1 e.2.2 m o.done
        .next (endCopy (copyResult (cpyLines s o) o st) o st)
      | ps =>
        let s := putCopy s { o with parked := ps.map (fun p => p.1) }
        .next (ps.foldl (fun s p => copyPark s o (copyStamp o p.2.2) p.2.1 p.2.2 (r.2.2.any (fun q => q.2.1 == p.2.1 && q.2.2))) s)

/-- The base pair that breaks R286, the destination's first. -/
def cpyBadBase (x : Ctx) (f : QF) : Option Dword :=
  [sget2 x.c f.p1.toNat, sget2 x.c (f.p1.toNat + 2)].find? (fun b => fld b.toNat 63 57 != 0)

/-- A lane's address in CPY: base plus signed offset. -/
def cpyAddr (b : Dword) (off : Word) : Int := (fld b.toNat 55 0 : Int) + off.toInt

/-- CPY (R286, R287). -/
def coreCpy (f : QF) : Core := 
  let sep := if f.sub.getLsbD 2 then 1 else 0
  let w := 4 * 2 ^ (f.sub.toNat % 4)
  { illop := fun _ _ => f.sub.toNat % 4 == 3
    uses := [{ file := .scalar, idx := f.p1.toNat, n := 4, al := 4 }, { file := .vector, idx := f.p2.toNat, n := 1 + sep }, useS f.d 1 true]
    counts := true
    hold := fun x s => if (cpyBadBase x f).isSome then none else entriesHold s x 1
    run := fun x s =>
      match cpyBadBase x f with
      | some b => .trap s (trapAt x 0x13 b)
      | none =>
        let db := sget2 x.c f.p1.toNat
        let sb := sget2 x.c (f.p1.toNat + 2)
        let t := teamAt s x.c.teamKey
        let da := fun L => cpyAddr db (vget x.c f.p2.toNat L)
        let sa := fun L => cpyAddr sb (vget x.c (f.p2.toNat + sep) L)
        let early := (lanes x.m).filterMap (fun L =>
          (worst (copyEarly t (sb.getLsbD 56) (sa L) w) (copyEarly t (db.getLsbD 56) (da L) w)).map (fun e => (L, e.1, e.2)))
        let s := startCopy s x
          { kind := .cpy, mask := x.m, w := w, early := early, srcSp := sb.getLsbD 56, dstSp := db.getLsbD 56
            src := (lanes x.m).map (fun L => (L, (sa L).toNat)), dst := (lanes x.m).map (fun L => (L, (da L).toNat))
            stamps := (lanes x.m).map (fun L => (L, stampOf x.c L)) }
        .done (updCrew s x.k (fun c => addPend c (statusPend x f.d.toNat none))) }
/-- CPY. -/
def execCpy (f : QF) (s : State) : Host.Outcome State Fault Refusal := issue (.cpy f) (coreCpy f) s

/-! ## CPYK (R289 to R291) -/

/-- A descriptor as a copy (R290). `w0` to `w3` are its words. -/
def descCopy (t : Team) (off : Nat) (stamp : Dword) : CopyOp :=
  let w := fun k => scN t (off + 8 * k) 8
  { kind := .cpyk, descOff := off, stamp := if fld (w 0) 60 60 == 1 then BitVec.ofNat 64 (w 2) else stamp
    outcnt := fld (w 0) 59 59 == 1, expect := fld (w 0) 58 58 == 1, dstSp := fld (w 0) 57 57 == 1, srcSp := fld (w 0) 56 56 == 1
    saddr := fld (w 0) 55 0, rows := fld (w 1) 63 56 + 1, daddr := fld (w 1) 55 0, bar := 16 * fld (w 3) 62 48, dpitch := fld (w 3) 47 32
    spitch := fld (w 3) 31 16, rowBytes := fld (w 3) 15 0 }

/-- The end of the last row at an address and pitch. -/
def lastEnd (o : CopyOp) (a pitch : Nat) : Nat := a + (o.rows - 1) * pitch + o.rowBytes

/-- A descriptor that lies in the scratchpad has a reserved bit set or no row bytes (R290; step 1 of R450). -/
def descFieldK (t : Team) (off : Nat) : Bool :=
  off + 32 ≤ t.size && (fld (scN t off 8) 63 61 != 0 || fld (scN t (off + 24) 8) 63 63 != 0 || (descCopy t off 0).rowBytes == 0)

/-- A descriptor lies beyond the scratchpad, or its object or a row lies outside its space (R289, R290; step 4 of R450). -/
def descSpaceK (t : Team) (off : Nat) : Bool :=
  let o := descCopy t off 0
  t.size < off + 32 || t.size < o.bar + 16 || (if o.srcSp then t.size else 2 ^ 56) < lastEnd o o.saddr o.spitch || (if o.dstSp then t.size else 2 ^ 56) < lastEnd o o.daddr o.dpitch

/-- Why CPYK traps RANGE: the value for `tva` (R289), field limits of the operands and of every descriptor first (R450). -/
def cpykBad (x : Ctx) (f : QF) (s : State) : Option Nat :=
  let off := (sget x.c f.p1.toNat).toNat
  let n := (sget x.c f.p2.toNat).toNat
  let t := teamAt s x.c.teamKey
  let ds := (List.range n).map (fun k => off + 32 * k)
  if off % 32 != 0 then some off
  else if n == 0 || 64 < n then some n
  else (ds.find? (descFieldK t)).orElse (fun _ => ds.find? (descSpaceK t))

/-- Bytes of a copy. -/
def copyTotal (o : CopyOp) : Nat := o.rows * o.rowBytes

/-- CPYK (R289): reads its descriptors at issue and holds the slot for 1 + ⌈n / 4⌉ cycles. -/
def coreCpyk (f : QF) : Core := 
  { illop := fun c _ => !(expertOf c 2)
    uses := [useS f.p1 1 false, useS f.p2 1 false]
    cyc := 0
    hold := fun x s => if (cpykBad x f s).isSome then none else entriesHold s x (sget x.c f.p2.toNat).toNat
    run := fun x s =>
      match cpykBad x f s with
      | some v => .trap s (trapAt x 0x13 (BitVec.ofNat 64 v))
      | none =>
        let off := (sget x.c f.p1.toNat).toNat
        let n := (sget x.c f.p2.toNat).toNat
        let os := (List.range n).map (fun k => descCopy (teamAt s x.c.teamKey) (off + 32 * k) (stampOf x.c (lowest x.m)))
        let s := os.foldl (fun s o => startCopy s x o) s
        let s := os.foldl (fun s o =>
          if o.expect then barUpd s x.c.teamKey o.bar 0 (copyTotal o) (if o.outcnt then copyTotal o else 0) true else s) s
        .done (holdSlot s x.k (1 + (n + 3) / 4)) }
/-- CPYK. -/
def execCpyk (f : QF) (s : State) : Host.Outcome State Fault Refusal := issue (.cpyk f) (coreCpyk f) s

/-- Source and destination addresses of byte `i` in row-major order. -/
def copyByte (o : CopyOp) (i : Nat) : Nat × Nat :=
  (o.saddr + i / o.rowBytes * o.spitch + i % o.rowBytes, o.daddr + i / o.rowBytes * o.dpitch + i % o.rowBytes)

/-- Source and destination addresses of the next byte. -/
def copyHere (o : CopyOp) : Nat × Nat := copyByte o o.moved

/-- Bytes of the next piece: to the end of the destination's 128-byte line, or to the end of the row where the next row does not follow on from it. An aligned
destination word that the copy covers whole lies in one piece (R299). -/
def copyPiece (o : CopyOp) : Nat :=
  min (if o.dpitch == o.rowBytes then copyTotal o - o.moved else o.rowBytes - o.moved % o.rowBytes) (128 - (copyHere o).2 % 128)

/-- The first of the next `n` bytes that faults, with what fails; bytes before it perform. -/
def pieceFault (s : State) (o : CopyOp) : Nat → Nat → State × Option (Nat × Byte × Nat × Bool)
  | 0, _ => (s, none)
  | n + 1, k =>
    let h := copyByte o (o.moved + k)
    let r := copySrc s o o.srcSp h.1 1
    let t := copyDst r.1 o o.dstSp h.2 1
    match worst r.2 t.2 with
    | some f => (t.1, some (k, f.1, f.2, r.2 != some f))
    | none => pieceFault t.1 o n (k + 1)

/-- The next `n` bytes that a copy reads. -/
def pieceBytes (s : State) (o : CopyOp) (n : Nat) : List Byte :=
  (List.range n).flatMap (fun k => copyGet s o o.srcSp (copyByte o (o.moved + k)).1 1)

/-- The bytes of a piece of `n` that perform before its byte `k` parks: an aligned destination word is not written in part where the piece covers it whole
(R299). `da` is the piece's destination. -/
def beforePark (da n k : Nat) : Nat :=
  let j := (da + k) % 4
  if j ≤ k && k + 4 ≤ n + j then k - j else k

/-- The fault at byte `k` of a piece stands only as PGNP and is not refused: the copy parks there (R300). -/
def parksAt (o : CopyOp) (f : Nat × Byte × Nat × Bool) : Bool := f.2.1 == 0x10 && !(o.refused.contains (f.2.2.1 / 65536))

/-- A piece writes the whole of a poisoned line, which clears it (R435). -/
def wholeLine (o : CopyOp) (n da : Nat) : Bool := n == 128 && da % 128 == 0 && !o.dstSp

/-- The first fault of the next line of a piece that writes the line whole. Where only a part of it could be written, a poisoned line takes no byte: it waits
for a page that parks the rest, or faults at its first byte (R291, R300, R435). -/
def lineFault (s : State) (o : CopyOp) (n da : Nat) : State × Option (Nat × Byte × Nat × Bool) :=
  let q := pieceFault s { o with dstSp := true } n 0
  let d := copyDst q.1 o false da 128
  match q.2, d.2 with
  | none, none => (d.1, none)
  | none, some g => (d.1, some (0, g.1, g.2, true))
  | some f, some g => (d.1, if f.1 == 0 && copyRank f.2.1 ≤ copyRank g.1 then some f else some (0, g.1, g.2, true))
  | some f, none =>
    match (copyDst d.1 o false da 1).2 with
    | none => (d.1, some f)
    | some g => (d.1, if f.1 == 0 || parksAt o f then some (0, f.2) else some (0, g.1, g.2, true))

/-- The lines that the next `k` bytes of a CPYK read and write, which the request engine of its isle counts (R421). -/
def pieceLines (s : State) (o : CopyOp) (k : Nat) : State :=
  let at_ := fun (f : Nat × Nat → Nat) => lineCount ((List.range k).map (fun j => f (copyByte o (o.moved + j))))
  count (count s (4112 + 4 * o.isle) (at_ (fun p => p.1))) (4113 + 4 * o.isle) (at_ (fun p => p.2))

/-- Move the next piece of a CPYK descriptor: its bytes perform, or it parks on a missing page, or a fault stands (R291, R300). -/
def movePiece (s : State) (o : CopyOp) : State × CopyOp :=
  let n := copyPiece o
  let h := copyHere o
  let r := if wholeLine o n h.2 then lineFault s o n h.2 else pieceFault s o n 0
  let s := r.1
  let k := match r.2 with | some f => if parksAt o f then beforePark h.2 n f.1 else f.1 | none => n
  let s1 := if k == 0 then s else pieceLines (copyPut s o o.dstSp h.2 (pieceBytes s o k)) o k
  let snap := if o.snap.isSome || k == 0 then o.snap else some (0, copyAttr s o o.srcSp h.1)
  let o := { o with moved := o.moved + k, snap := snap }
  match r.2 with
  | none => (s1, o)
  | some f =>
    if parksAt o f then
      (copyPark s1 o o.stamp f.2.2.1 0 f.2.2.2, { o with parked := [f.2.2.1 / 65536] })
    else (s1, { o with failed := some (f.2.1, f.2.2.1) })

/-- Every byte of a descriptor has performed, or a fault stands. -/
def copyOver (o : CopyOp) : Bool := o.failed.isSome || o.moved == copyTotal o

/-- Source and destination team and object of a CPYC (R298). -/
def cpycEnds (o : CopyOp) : (Nat × Nat) × (Nat × Nat) :=
  if o.push then ((o.team, o.bar), (o.remote, o.rbar)) else ((o.remote, o.rbar), (o.team, o.bar))

/-- Move the next piece of a CPYC: read and counted on the source's object, landed and counted on the destination's; the scratchpad ports of both isles carry it (R421). -/
def moveCpyc (s : State) (o : CopyOp) : State × CopyOp :=
  let n := copyPiece o
  let h := copyHere o
  let e := cpycEnds o
  let bs := scB (teamAt s e.1.1) h.1 n
  let s := barUpd s e.1.1 e.1.2 0 0 (-n) false
  let s := scLand s e.2.1 h.2 bs
  let s := [e.1.1, e.2.1].foldl (fun s tk => count s (4114 + 4 * (teamAt s tk).isle) n) s
  (barUpd s e.2.1 e.2.2 0 (-n) 0 false, { o with moved := o.moved + n })

/-- COPY_BYTE_COUNTDOWN (R291, R298): the next piece of copy `arg.a` performs and is counted down. The last countdown of a descriptor comes with its end, and
the last piece of a CPYC with its. -/
def execCopyByteCountdown (s : State) : Host.Outcome State Fault Refusal :=
  match copyAt s s.arg.a with
  | none => .next s
  | some o =>
    if !o.parked.isEmpty || copyOver o || o.ended.isSome then .next s
    else if o.kind == .cpyk then
      let r := movePiece s o
      let d := r.2.moved - r.2.landed
      if copyOver r.2 || d == 0 then .next (putCopy r.1 r.2)
      else .next (barUpd (putCopy r.1 { r.2 with landed := r.2.moved }) o.team o.bar 0 (-d) (if o.outcnt then -d else 0) false)
    else if o.kind == .cpyc && o.accepted && o.moved + copyPiece o < copyTotal o then
      let r := moveCpyc s o
      .next (putCopy r.1 r.2)
    else .next s

/-- CPYK_DESCRIPTOR_END (R291): the status word of copy `arg.a` is written back, then the final countdown is made, and the entry frees (R283). -/
def execCpykDescriptorEnd (s : State) : Host.Outcome State Fault Refusal :=
  match copyAt s s.arg.a with
  | none => .next s
  | some o =>
    if o.kind != .cpyk || !(copyOver o) then .next s
    else
      let st := copyStatus o.failed.isSome o.snap o.moved
      let s := match o.failed with | some f => copyFault s o o.stamp f.1 f.2 0 0 | none => s
      let s := scLand s o.team (o.descOff + 16) (natBytes 4 st.toNat)
      let d : Int := copyTotal o - o.landed
      let s := barUpd s o.team o.bar 0 (-d) (if o.outcnt then -d else 0) false
      .next (traceEngine (endCopy s o st) o.crew 2 st o.stamp o.descOff)

/-! ## Channels (R292 to R296) -/

/-- Key of a channel of the crew's isle. -/
def chanKey (c : Crew) (n : Nat) : Nat := 16 * isleOf c.gcrew + n
/-- The channel, when the crew's team holds it. -/
def ownChan (s : State) (c : Crew) (n : Nat) : Option Chan :=
  if 16 ≤ n then none
  else match mfind s.chans (chanKey c n) with
    | some h => if h.team == c.teamKey then some h else none
    | none => none
/-- CPYTs queued on a channel. -/
def chanQueue (s : State) (isle n : Nat) : List CopyOp := s.copies.filter (fun o => o.kind == .cpyt && o.isle == isle && o.chan == n)

/-- Why PERMIT traps (R293). -/
def permitBad (x : Ctx) (f : QF) (s : State) (rel : Bool) : Option TrapReq :=
  let v := sget x.c f.p1.toNat
  let off := sget x.c f.p2.toNat
  let size := (teamAt s x.c.teamKey).size
  if 16 < v.toNat || (rel && (ownChan s x.c v.toNat).isNone) then some (trapAt x 0x13 (v.setWidth 64))
  else if rel then none
  else if off.toNat % 4096 != 0 then some (trapAt x 0x05 (off.setWidth 64))
  else if size < off.toNat + 4096 then some (trapAt x 0x13 (off.setWidth 64)) else none

/-- The channel that a PERMIT would bind now; `none` while it must wait (R293). -/
def permitPick (s : State) (c : Crew) (v : Nat) : Option Nat :=
  if v == 16 then (List.range 16).find? (fun n => (mfind s.chans (chanKey c n)).isNone)
  else if (mfind s.chans (chanKey c v)).isNone then some v
  else if (ownChan s c v).isSome && (chanQueue s (isleOf c.gcrew) v).isEmpty then some v
  else none

/-- The status word of PERMIT. -/
def permitWord (n : Nat) : Word := BitVec.ofNat 32 (2 ^ 31 + n)

/-- PERMIT (R293): binds a channel to the team and a landing slot. -/
def corePermit (f : QF) : Core := 
  { illop := fun c _ => !(expertOf c 2)
    uses := [useS f.p1 1 false, useS f.p2 1 false, useS f.d 1 true]
    counts := true
    hold := fun x s =>
      if (permitBad x f s false).isNone && (permitPick s x.c (sget x.c f.p1.toNat).toNat).isNone then some .copyLimit else none
    run := fun x s =>
      match permitBad x f s false with
      | some t => .trap s t
      | none =>
        let n := (permitPick s x.c (sget x.c f.p1.toNat).toNat).getD 0
        let h : Chan := { team := x.c.teamKey, slot := (sget x.c f.p2.toNat).toNat, count := 0, next := 0, fault := none }
        let s := { s with chans := minsert s.chans (chanKey x.c n) h }
        .done (updCrew s x.k (fun c => addPend c (statusPend x f.d.toNat (some (permitWord n))))) }
/-- PERMIT. -/
def execPermit (f : QF) (s : State) : Host.Outcome State Fault Refusal := issue (.permit f) (corePermit f) s

/-- PERMIT, release form (R293). -/
def corePermitRel (f : QF) : Core := 
  { illop := fun c _ => !(expertOf c 2)
    uses := [useS f.p1 1 false, useS f.d 1 true]
    counts := true
    hold := fun x s =>
      if (permitBad x f s true).isNone && !(chanQueue s (isleOf x.c.gcrew) (sget x.c f.p1.toNat).toNat).isEmpty then some .copyLimit else none
    run := fun x s =>
      match permitBad x f s true with
      | some t => .trap s t
      | none =>
        let n := (sget x.c f.p1.toNat).toNat
        let s := { s with chans := merase s.chans (chanKey x.c n) }
        .done (updCrew s x.k (fun c => addPend c (statusPend x f.d.toNat (some (permitWord n))))) }
/-- PERMIT_REL. -/
def execPermitRel (f : QF) (s : State) : Host.Outcome State Fault Refusal := issue (.permitRel f) (corePermitRel f) s

/-- Why CPYT traps RANGE: the offending pair (R294, R296). -/
def cpytBad (x : Ctx) (f : QF) (s : State) : Option Dword :=
  let a := sget2 x.c f.p1.toNat
  let t := sget2 x.c f.p2.toNat
  let rb := fld t.toNat 31 16
  let rows := fld t.toNat 59 48
  if fld a.toNat 63 56 != 0 then some a
  else if rb == 0 || 4096 < rb || fld t.toNat 15 4 != 0 || fld t.toNat 63 60 != 0 || rows == 0 || 4096 < rows * rb then some t
  else match ownChan s x.c (fld t.toNat 3 0) with
    | none => some t
    | some h => if h.fault.isSome then some t else none

/-- CPYT (R294): queues a tile on a channel. -/
def coreCpyt (f : QF) : Core := 
  { illop := fun c _ => !(expertOf c 2)
    uses := [useS f.p1 2 false, useS f.p2 2 false]
    hold := fun x s =>
      if (cpytBad x f s).isSome then none
      else if 8 ≤ (chanQueue s (isleOf x.c.gcrew) (fld (sget2 x.c f.p2.toNat).toNat 3 0)).length then some .copyLimit
      else entriesHold s x 1
    run := fun x s =>
      match cpytBad x f s with
      | some v => .trap s (trapAt x 0x13 v)
      | none =>
        let t := (sget2 x.c f.p2.toNat).toNat
        let n := fld t 3 0
        let total := fld t 59 48 * fld t 31 16
        let first := ((ownChan s x.c n).map (fun h => h.next)).getD 0
        let s := startCopy s x
          { kind := .cpyt, chan := n, first := first, saddr := fld (sget2 x.c f.p1.toNat).toNat 55 0, rows := fld t 59 48, rowBytes := fld t 31 16
            spitch := fld t 47 32, dstSp := true, stamp := stampOf x.c (lowest x.m) }
        .done { s with chans := mmodify s.chans (chanKey x.c n) (fun h => { h with next := h.next + total }) } }
/-- CPYT. -/
def execCpyt (f : QF) (s : State) : Host.Outcome State Fault Refusal := issue (.cpyt f) (coreCpyt f) s

/-- A channel stops: its FAULT bit is set, its queue is discarded and the record is written (R296). -/
def chanFault (s : State) (o : CopyOp) (cause : Byte) (addr : Nat) : State :=
  let key := 16 * o.isle + o.chan
  let q := chanQueue s o.isle o.chan
  let cnt := ((mfind s.chans key).map (fun h => h.count)).getD 0
  let s := { s with chans := mmodify s.chans key (fun h => { h with fault := some (cause, addr) }) }
  let s := copyFault s o o.stamp cause addr 0 0
  q.foldl (fun s p => traceEngine (endCopy s p 0) p.crew 3 (BitVec.ofNat 32 cnt) p.stamp o.chan) s

/-- CPYT_LAND (R292): the next bytes of channel `arg.b` of isle `arg.a` land in order, or its first CPYT parks or faults. -/
def execCpytLand (s : State) : Host.Outcome State Fault Refusal :=
  match chanQueue s s.arg.a s.arg.b, mfind s.chans (16 * s.arg.a + s.arg.b) with
  | o :: _, some h =>
    if !o.parked.isEmpty then .next s
    else
      let k := o.first + o.moved
      let n := min (copyTotal o - o.moved) (128 - k % 128)
      let r := pieceFault s o n 0
      let m := match r.2 with | some f => if parksAt o f then beforePark k n f.1 else f.1 | none => n
      let s := count (scLand r.1 o.team (h.slot + k % 4096) (pieceBytes r.1 o m)) (4115 + 4 * o.isle) m
      let s := { s with chans := mmodify s.chans (16 * o.isle + o.chan) (fun h => { h with count := h.count + m }) }
      let o := { o with moved := o.moved + m }
      match r.2 with
      | some f =>
        if parksAt o f then
          .next (copyPark (putCopy s { o with parked := [f.2.2.1 / 65536] }) o o.stamp f.2.2.1 0 false)
        else .next (chanFault (putCopy s o) o f.2.1 f.2.2.1)
      | none =>
        if o.moved == copyTotal o then .next (traceEngine (endCopy s o 0) o.crew 3 (BitVec.ofNat 32 (k + m)) o.stamp o.chan)
        else .next (putCopy s o)
  | _, _ => .next s

/-- The write pointer has passed count `c` (R295). -/
def cwpPast (h : Chan) (c : Word) : Bool := (BitVec.ofNat 32 h.count - c).toNat < 2 ^ 31

/-- CPYWT (R295, R296): waits on a write pointer. -/
def coreCpywt (f : QF) : Core := 
  { illop := fun c _ => !(expertOf c 2)
    uses := [useS f.p1 1 false, useS f.p2 1 false]
    hold := fun x s =>
      match ownChan s x.c (sget x.c f.p1.toNat).toNat with
      | some h => if !(cwpPast h (sget x.c f.p2.toNat)) && h.fault.isNone then some .copyStatus else none
      | none => none
    run := fun x s =>
      match ownChan s x.c (sget x.c f.p1.toNat).toNat with
      | none => .trap s (trapAt x 0x13 ((sget x.c f.p1.toNat).setWidth 64))
      | some h =>
        match cwpPast h (sget x.c f.p2.toNat), h.fault with
        | false, some e => .trap s (trapAt x e.1 (BitVec.ofNat 64 e.2))
        | _, _ => .done s }
/-- CPYWT. -/
def execCpywt (f : QF) (s : State) : Host.Outcome State Fault Refusal := issue (.cpywt f) (coreCpywt f) s

/-! ## CPYC (R297, R298) -/

/-- The team of the crew's cohort on isle `i` of its atoll, other than its own isle. -/
def cohortTeam (s : State) (c : Crew) (i : Nat) : Option (Nat × Team) :=
  let isle := isleOf c.gcrew / 4 * 4 + i
  let n := max 1 (launchOf s c).desc.cohort
  let ix := (teamAt s c.teamKey).ix
  if isle == isleOf c.gcrew then none
  else s.teams.find? (fun p => p.2.lid == c.lid && p.2.isle == isle && p.2.ix / n == ix / n && !p.2.saved)

/-- Why CPYC traps RANGE: the pair at fault (R297), the fields of `sO` before those of `sL`, and ranges and objects last (R450). -/
def cpycBad (x : Ctx) (f : QF) (s : State) : Option Dword :=
  let o := sget2 x.c f.p1.toNat
  let l := sget2 x.c f.p2.toNat
  let len := fld l.toNat 19 0
  let t := teamAt s x.c.teamKey
  if fld o.toNat 31 19 != 0 || fld o.toNat 63 53 != 0 then some o
  else match cohortTeam s x.c (fld o.toNat 52 51) with
    | none => some o
    | some r =>
      if fld l.toNat 31 20 != 0 || len == 0 || 2 ^ 19 < len then some l
      else if t.size < fld o.toNat 18 0 + len || r.2.size < fld o.toNat 50 32 + len then some o
      else if t.size < 16 * fld l.toNat 46 32 + 16 || r.2.size < 16 * fld l.toNat 62 48 + 16 then some l
      else none

/-- CPYC, pushed or pulled (R297). -/
def cpycCore (f : QF) (push : Bool) : Core :=
  { uses := [useS f.p1 2 false, useS f.p2 2 false, useS f.d 1 true]
    counts := true
    hold := fun x s => if (cpycBad x f s).isSome then none else entriesHold s x 1
    run := fun x s =>
      match cpycBad x f s with
      | some v => .trap s (trapAt x 0x13 v)
      | none =>
        let o := (sget2 x.c f.p1.toNat).toNat
        let l := (sget2 x.c f.p2.toNat).toNat
        let remote := ((cohortTeam s x.c (fld o 52 51)).map (fun r => r.1)).getD 0
        let loc := fld o 18 0
        let rem := fld o 50 32
        let s := startCopy s x
          { kind := .cpyc, push := push, remote := remote, saddr := if push then loc else rem, daddr := if push then rem else loc, rows := 1
            rowBytes := fld l 19 0, srcSp := true, dstSp := true, bar := 16 * fld l 46 32, expect := fld l 47 47 == 1, rbar := 16 * fld l 62 48
            rexp := fld l 63 63 == 1, stamp := stampOf x.c (lowest x.m) }
        .done (updCrew s x.k (fun c => addPend c (statusPend x f.d.toNat none true))) }

/-- CPYC, push (R297). -/
def coreCpyc (f : QF) : Core := cpycCore f true
/-- CPYC. -/
def execCpyc (f : QF) (s : State) : Host.Outcome State Fault Refusal := issue (.cpyc f) (coreCpyc f) s

/-- CPYC, pull (R297). -/
def coreCpycPull (f : QF) : Core := cpycCore f false
/-- CPYC_PULL. -/
def execCpycPull (f : QF) (s : State) : Host.Outcome State Fault Refusal := issue (.cpycPull f) (coreCpycPull f) s

/-- CPYC_ACCEPT (R298): both ports have taken in copy `arg.a`; the expect adds apply and the acceptance word is known. -/
def execCpycAccept (s : State) : Host.Outcome State Fault Refusal :=
  match copyAt s s.arg.a with
  | none => .next s
  | some o =>
    if o.kind != .cpyc || o.accepted then .next s
    else
      let n : Int := copyTotal o
      let e := fun (src : Bool) => if src then ((0 : Int), n) else (n, 0)
      let s := if o.expect then barUpd s o.team o.bar 0 (e o.push).1 (e o.push).2 true else s
      let s := if o.rexp then barUpd s o.remote o.rbar 0 (e (!o.push)).1 (e (!o.push)).2 true else s
      .next (copyResult (putCopy s { o with accepted := true }) o (copyStatus false none (copyTotal o)))

/-- CPYC_TRANSFER_END (R298): the last bytes of copy `arg.a` land and its entry frees. -/
def execCpycTransferEnd (s : State) : Host.Outcome State Fault Refusal :=
  match copyAt s s.arg.a with
  | none => .next s
  | some o =>
    if o.kind != .cpyc || !o.accepted || o.ended.isSome || o.moved + copyPiece o < copyTotal o then .next s
    else
      let r := moveCpyc s o
      .next (traceEngine (endCopy r.1 r.2 (copyStatus false none (copyTotal o))) o.crew 4 (BitVec.ofNat 32 (copyTotal o)) o.stamp 0)

end Sys2Proof.Machine
end

