-- ==== Sys2Proof/Machine/Matrix.lean ====
section
/-! DEFINITION. The matrix engine: MMA, MMASP, MZERO, MLDA, MWAITC, MWAITD and the two steps of a unit (R259 to R281). -/

namespace Sys2Proof.Machine

/-! ## Quarters and operands (R262 to R268) -/

/-- The mask of quarter `q`. -/
def quarterMask (q : Nat) : Mask := BitVec.ofNat 32 (255 * 2 ^ (8 * q))
/-- The active quarters of a mask (R262). -/
def activeQ (m : Mask) : List Nat := (List.range 4).filter (fun q => m &&& quarterMask q == quarterMask q)
/-- The partly active quarters of a mask, as four bits (R279). -/
def partQ (m : Mask) : Nat :=
  ((List.range 4).filter (fun q => m &&& quarterMask q != 0 && m &&& quarterMask q != quarterMask q)).foldl (fun n q => n + 2 ^ q) 0
/-- The lanes of quarters. -/
def quartersMask (qs : List Nat) : Mask := qs.foldl (fun m q => m ||| quarterMask q) 0

/-- MATOP for the accumulators that an instruction names; `quarters` when it acts on quarters (R260, R262, R279). -/
def matop (x : Ctx) (accs : List Nat) (quarters : Bool) : Option TrapReq :=
  let part := if quarters then partQ x.m else 0
  match accs.filter (fun n => x.c.naccs ≤ n) with
  | n :: _ => some (trapAt x 0x70 (BitVec.ofNat 64 (2048 + 256 * n + part)))
  | [] => if part == 0 then none else some (trapAt x 0x70 (BitVec.ofNat 64 part))

/-- A format code of R263. -/
def matFmt (f : Nat) : Bool := (1 ≤ f && f ≤ 3) || isBfp f
/-- Registers per register line (R263). -/
def lineRegs (f : Nat) : Nat := if f == 1 then 32 else if f ≤ 3 then 16 else f - 5
/-- Bytes of a dense scratchpad line (R263). -/
def lineBytes (f nc : Nat) : Nat := if f == 1 then 128 else if f ≤ 3 then 64 else if nc == 1 then 1 + 4 * (f - 6) else 2 + 4 * (f - 6)

/-- A scratchpad descriptor (R265): bits [31:0] the even register, [63:32] the odd one. -/
abbrev MDesc := Dword
/-- FMT. -/
def MDesc.fmt (d : MDesc) : Nat := fld d.toNat 23 20
/-- NC. -/
def MDesc.nc (d : MDesc) : Nat := fld d.toNat 29 28
/-- ROT, 0 at the basic level (R268). -/
def MDesc.rot (d : MDesc) (expert : Bool) : Nat := if expert then fld d.toNat 27 24 else 0
/-- Start of line `i` of quarter `q` (R266). -/
def MDesc.start (d : MDesc) (expert : Bool) (q i : Nat) : Nat :=
  fld d.toNat 18 0 + q * fld d.toNat 63 48 + i * fld d.toNat 47 32 + 4 * (i * d.rot expert % 8)

/-- Alignment of a float line (R267). -/
def lineAlign (f : Nat) : Nat := if f == 1 then 4 else if f ≤ 3 then 2 else 1

/-- The checks of R267 on the operands in scratchpad, A before B: the cause and `tva`. `sp` marks a sparse operand. -/
def descBad (size : Nat) (expert : Bool) (qs : List Nat) (ds : List (MDesc × Bool)) : Option (Byte × Nat) :=
  let lines := fun (p : Nat → MDesc × Bool → Nat → Bool) =>
    qs.findSome? (fun q => ds.findSome? (fun d => ((List.range 8).find? (fun i => p q d i)).map (fun i => d.1.start expert q i)))
  let fields := ds.find? (fun d => fld d.1.toNat 31 30 != 0 || fld d.1.toNat 19 19 != 0 || (expert && 8 ≤ fld d.1.toNat 27 24))
  let fmts := ds.find? (fun d => !(matFmt d.1.fmt) || (isBfp d.1.fmt && !d.2 && 2 ≤ d.1.nc))
  match fields, fmts with
  | some d, _ => some (0x13, fld d.1.toNat 31 0)
  | none, some d => some (0x14, fld d.1.toNat 31 0)
  | none, none =>
    match lines (fun q d i => d.1.start expert q i % lineAlign d.1.fmt != 0) with
    | some a => some (0x05, a)
    | none => (lines (fun q d i => size < d.1.start expert q i + (if d.2 then 8 else lineBytes d.1.fmt d.1.nc))).map (fun a => (0x13, a))

/-! ## Lines and sums (R264, R266, R269) -/

/-- The exact elements of a register line in a lane: `r` gives the registers (R264). -/
def regLine (r : Nat → Word) (f : Nat) : List FVal :=
  if f == 1 then (List.range 32).map (fun k => fdec F32 (r k).toNat)
  else if f ≤ 3 then (List.range 32).map (fun k => fdec (fmtOf f) ((r (k / 2)).toNat / 65536 ^ (k % 2) % 65536))
  else
    let b := f - 6
    let bits := bytesNat (bytesOf ((List.range b).map r))
    (List.range 32).map (fun k => bfpVal b ((r b).toNat % 256) (bfpMant b bits k))

/-- The exact elements of a dense line at `a` (R266). -/
def denseLine (t : Team) (a f nc : Nat) : List FVal :=
  if f ≤ 3 then (List.range 32).map (fun k => fdec (fmtOf f) (scN t (a + fmtWidth f * k) (fmtWidth f)))
  else
    let b := f - 6
    let block := fun (o n : Nat) =>
      let bits := scN t (o + 1) (n * b / 8)
      (List.range n).map (fun k => bfpVal b (scN t o 1) (bfpMant b bits k))
    if nc == 1 then block a 32 else block a 16 ++ block (a + 1 + 2 * b) 16

/-- The exact elements of a sparse line, or why it cannot be read (R63, R266, R280). DESIGN CHOICE (log entry 51): the bits of a malformed bitmap from 32 up count in the
length of the line, which faults RANGE where that runs past the scratchpad. -/
def sparseLine (t : Team) (a f : Nat) : Except Byte (List FVal) :=
  let bm := scN t a 8
  let cnt := fun (n : Nat) => ((List.range n).filter (fun j => bm / 2 ^ j % 2 == 1)).length
  let all := cnt 64
  let len := if isBfp f then 9 + (all * (f - 6) + 7) / 8 else 8 + fmtWidth f * all
  if t.size < a + len then .error 0x13
  else if bm / 2 ^ 32 != 0 then .error 0x14
  else
    let b := f - 6
    let bits := if isBfp f then scN t (a + 9) ((all * b + 7) / 8) else 0
    .ok ((List.range 32).map (fun k =>
      if bm / 2 ^ k % 2 == 1 then
        if isBfp f then bfpVal b (scN t (a + 8) 1) (bfpMant b bits (cnt k)) else fdec (fmtOf f) (scN t (a + 8 + fmtWidth f * cnt k) (fmtWidth f))
      else if isBfp f then bfpVal b (scN t (a + 8) 1) 0 else .fin false 0 0))

/-- An exact product as a term of the sum: NaN for 0 × ∞. -/
def exactMul (a b : FVal) : FVal :=
  match a, b with
  | .nan _, _ => .nan false
  | _, .nan _ => .nan false
  | .inf s, .inf t => .inf (s != t)
  | .inf s, .fin t m _ => if m == 0 then .nan false else .inf (s != t)
  | .fin s m _, .inf t => if m == 0 then .nan false else .inf (s != t)
  | .fin s m e, .fin t n g => .fin (s != t) (m * n) (e + g)

/-- rnd80 of the exact sum of the old value and the products (R269). -/
def macSum (mode : BitVec 2) (old : BitVec 80) (xs ys : List FVal) : BitVec 80 :=
  let ts := fdec A80 old.toNat :: (xs.zip ys).map (fun p => exactMul p.1 p.2)
  let pinf := ts.contains (.inf false)
  let ninf := ts.contains (.inf true)
  if ts.any isNan || (pinf && ninf) then BitVec.ofNat 80 (cnan A80)
  else if pinf || ninf then BitVec.ofNat 80 (infBits A80 ninf)
  else
    let sum := ts.foldl (fun a t => match t with | .fin s m e => if m == 0 then a else dyAdd a (sgn s m, e) | _ => a) ((0, 0) : Dy)
    let allNegZero := ts.all (fun t => match t with | .fin s m _ => s && m == 0 | _ => false)
    BitVec.ofNat 80 (dyRound A80 mode (zeroSign mode || allNegZero) sum).1

/-! ## Issue (R259, R272 to R276) -/

/-- `macc` recomputed from the operations outstanding on each accumulator (R272). -/
def maccOf (s : State) (k : Nat) : BitVec 16 :=
  let mine := s.matq.filter (fun o => o.crew == k)
  let reads := fun (o : MatOp) => !o.zero && (o.aDesc.isSome || o.bDesc.isSome) && o.executed.length < o.quarters.length
  BitVec.ofNat 16 ((List.range 8).foldl (fun n a =>
    n + (if mine.any (fun o => o.acc == a && reads o) then 0 else 2 ^ a) + (if mine.any (fun o => o.acc == a) then 0 else 2 ^ (a + 8))) 0)

/-- A crew that waits for `macc` bits, or at issue, sees their new values. -/
def setMacc (s : State) (k : Nat) : State := pokeAcc (updCrew s k (fun c => { c with macc := maccOf s k })) k []

/-- The unit's queue holds 16 operations that have not all started (R259). -/
def matFull (s : State) (c : Crew) : Bool :=
  16 ≤ (s.matq.filter (fun o => o.isle == isleOf c.gcrew && o.slot == slotOf c.gcrew && o.executed.length < o.quarters.length)).length

/-- Issue an operation: it is outstanding on its accumulator until its tiles are updated. -/
def matIssue (x : Ctx) (o : MatOp) (s : State) : Res :=
  let o := { o with
    id := x.id, isle := isleOf x.c.gcrew, slot := slotOf x.c.gcrew, crew := x.k, team := x.c.teamKey, pcAt := x.pc, next := x.nx, seq := x.id
    depth := x.c.tdepth.toNat, quarters := activeQ x.m, mask := quartersMask (activeQ x.m), rnd := x.c.rnd, stamps := x.c.stamp }
  let s := { s with matq := s.matq ++ [o] }
  let p : Pend :=
    { id := x.id, kind := .matrix, ready := false, drains := true, targets := [{ file := .accum, idx := o.acc, lane := 0, val := 0 }] }
  .done (setMacc (updCrew s x.k (fun c => addPend c p)) x.k)

/-- The registers of a register operand as read at issue. -/
def matRegs (x : Ctx) (n c : Nat) : Map Word :=
  (List.range c).foldl (fun m r => (lanes x.m).foldl (fun m L => mset 0 m (32 * r + L) (vget x.c (n + r) L)) m) []

/-- The descriptors of the scratchpad operands, A before B. -/
def matDescs (x : Ctx) (f : XF) (sparse : Bool) : List (MDesc × Bool) :=
  (if f.ash == 1 then [(sget2 x.c f.a.toNat, sparse)] else []) ++ (if f.bs == 1 then [(sget2 x.c f.b.toNat, false)] else [])

/-- Why MMA or MMASP traps at issue (R275). -/
def mmaBad (x : Ctx) (f : XF) (sparse : Bool) (s : State) : Option TrapReq :=
  (matop x [f.acc.toNat] true).orElse (fun _ =>
    (descBad (teamAt s x.c.teamKey).size (expertOf x.c 1) (activeQ x.m) (matDescs x f sparse)).map (fun r => trapAt x r.1 (BitVec.ofNat 64 r.2)))

/-- MMA and MMASP (R275). -/
def mmaCore (f : XF) (sparse : Bool) : Core :=
  let fm := f.fm.toNat
  let n := lineRegs fm
  { illop := fun _ _ => (if f.ash == 1 && f.bs == 1 then fm != 0 else !(matFmt fm)) || (sparse && f.ash == 0)
    uses :=
      (if f.ash == 1 then [useS f.a 2 false] else [{ file := .vector, idx := f.a.toNat, n := n }]) ++
      (if f.bs == 1 then [useS f.b 2 false] else [{ file := .vector, idx := f.b.toNat, n := n }])
    counts := true
    hold := fun x s => if (mmaBad x f sparse s).isNone && matFull s x.c then some .issueConflict else none
    run := fun x s =>
      match mmaBad x f sparse s with
      | some t => .trap s t
      | none =>
        matIssue x
          { sparse := sparse, acc := f.acc.toNat, fmtA := fm, fmtB := fm
            rot := expertOf x.c 1
            regA := if f.ash == 1 then [] else matRegs x f.a.toNat n
            regB := if f.bs == 1 then [] else matRegs x f.b.toNat n
            aDesc := if f.ash == 1 then some (sget2 x.c f.a.toNat) else none
            bDesc := if f.bs == 1 then some (sget2 x.c f.b.toNat) else none } s }

/-- MMA (R275, R269). -/
def coreMma (f : XF) : Core := mmaCore f false
/-- MMA. -/
def execMma (f : XF) (s : State) : Host.Outcome State Fault Refusal := issue (.mma f) (coreMma f) s

/-- MMASP (R275, R269): A is sparse. -/
def coreMmasp (f : XF) : Core := mmaCore f true
/-- MMASP. -/
def execMmasp (f : XF) (s : State) : Host.Outcome State Fault Refusal := issue (.mmasp f) (coreMmasp f) s

/-- MZERO (R276). -/
def coreMzero (f : XF) : Core := 
  { counts := true
    hold := fun x s => if (matop x [f.acc.toNat] true).isNone && matFull s x.c then some .issueConflict else none
    run := fun x s =>
      match matop x [f.acc.toNat] true with
      | some t => .trap s t
      | none => matIssue x { zero := true, acc := f.acc.toNat } s }
/-- MZERO. -/
def execMzero (f : XF) (s : State) : Host.Outcome State Fault Refusal := issue (.mzero f) (coreMzero f) s

/-! ## MLDA, MWAITC, MWAITD (R277, R278) -/

/-- The columns that MLDA copies. -/
def mldaCols (f : XF) : List Nat :=
  if f.fm.getLsbD 2 then (List.range 4).map (fun c => c + (if f.fm.getLsbD 3 then 4 else 0)) else List.range 8
/-- Registers per element of a mode of MLDA: 1, 2 or 4. -/
def mldaStep (mode : Nat) : Nat := 2 ^ mode

/-- The words of an element in a mode (R277): F32, F64, or the triple of R57. -/
def mldaWords (mode : Nat) (rnd : BitVec 2) (x : BitVec 80) : List Word :=
  match mode with
  | 0 => [BitVec.ofNat 32 (cvtFF A80 F32 rnd x.toNat).1]
  | 1 =>
    let d := (cvtFF A80 F64 rnd x.toNat).1
    [BitVec.ofNat 32 d, BitVec.ofNat 32 (d / 2 ^ 32)]
  | _ =>
    let y := if isNan (fdec A80 x.toNat) then cnan A80 else x.toNat
    [BitVec.ofNat 32 y, BitVec.ofNat 32 (y / 2 ^ 32), BitVec.ofNat 32 (y / 2 ^ 64)]

/-- The targets of an MLDA: `g` gives the value of element 64 × quarter + 8 × i + j. -/
def mldaTargets (regD mode : Nat) (rnd : BitVec 2) (cols qs : List Nat) (g : Nat → BitVec 80) : List PTarget :=
  qs.flatMap (fun q => (List.range 8).flatMap (fun i => cols.zipIdx.flatMap (fun c =>
    (mldaWords mode rnd (g (64 * q + 8 * i + c.1))).zipIdx.map (fun w =>
      { file := .vector, idx := regD + mldaStep mode * c.2 + w.2, lane := 8 * q + i, val := w.1 }))))

/-- Element `e` of accumulator `n`. -/
def accGet (c : Crew) (n e : Nat) : BitVec 80 := mget 0 c.acc (256 * n + e)

/-- The destination registers that MLDA writes, from `d` on: of the four of each element in mode `.a80` the first three (R57, R277). -/
def mldaUses (d mode cols : Nat) : List Use :=
  let step := mldaStep mode
  if mode == 2 then (List.range cols).map (fun c => { file := .vector, idx := d + 4 * c, n := 3, al := if c == 0 then 4 else 1, wr := true })
  else [{ file := .vector, idx := d, n := step * cols, al := step, wr := true }]

/-- MLDA (R277, R274): copies quarter tiles to registers; with operations outstanding on the accumulator the result comes once they have ended. -/
def coreMlda (f : XF) : Core := 
  let mode := f.fm.toNat % 4
  { illop := fun c _ => mode == 3 || (!(f.fm.getLsbD 2) && f.fm.getLsbD 3) || decide (c.nregs < f.a.toNat + mldaStep mode * (mldaCols f).length)
    uses := { file := .accum, idx := f.acc.toNat } :: mldaUses f.a.toNat mode (mldaCols f).length
    counts := true
    run := fun x s =>
      match matop x [f.acc.toNat] true with
      | some t => .trap s t
      | none =>
        let n := f.acc.toNat
        let qs := activeQ x.m
        let ops := (s.matq.filter (fun o => o.crew == x.k && o.acc == n)).map (fun o => o.id)
        let ts := mldaTargets f.a.toNat mode x.c.rnd (mldaCols f) qs (accGet x.c n)
        let s := updCrew s x.k (fun c => addPend c { id := x.id, kind := .matrix, ready := ops.isEmpty, drains := true, targets := ts })
        if ops.isEmpty then .done s
        else
          .done { s with mldas := s.mldas ++
            [{ crew := x.k, id := x.id, acc := n, ops := ops, regD := f.a.toNat, mode := mode, cols := mldaCols f, rnd := x.c.rnd, quarters := qs
               cands := qs.flatMap (fun q => (List.range 64).map (fun e => (64 * q + e, [accGet x.c n (64 * q + e)]))) }] } }
/-- MLDA. -/
def execMlda (f : XF) (s : State) : Host.Outcome State Fault Refusal := issue (.mlda f) (coreMlda f) s

/-- The accumulators that a mask names. -/
def mwaitAccs (f : XF) : List Nat := (List.range 8).filter (fun n => mwaitMask f / 2 ^ n % 2 == 1)
/-- MWAITC (`sh` 0) and MWAITD (`sh` 8): waits at issue until every named bit is 1 (R278). -/
def mwaitCore (f : XF) (sh : Nat) : Core :=
  { hold := fun x s =>
      if (matop x (mwaitAccs f) false).isNone && (mwaitAccs f).any (fun n => !((crewAt s x.k).macc.getLsbD (n + sh))) then some .matrix else none
    run := fun x s =>
      match matop x (mwaitAccs f) false with
      | some t => .trap s t
      | none => .done s }

/-- MWAITC (R278). -/
def coreMwaitc (f : XF) : Core := mwaitCore f 0
/-- MWAITC. -/
def execMwaitc (f : XF) (s : State) : Host.Outcome State Fault Refusal := issue (.mwaitc f) (coreMwaitc f) s

/-- MWAITD (R278). -/
def coreMwaitd (f : XF) : Core := mwaitCore f 8
/-- MWAITD. -/
def execMwaitd (f : XF) (s : State) : Host.Outcome State Fault Refusal := issue (.mwaitd f) (coreMwaitd f) s

/-! ## The units (R270, R271, R280) -/

/-- The value that the next operation on a tile element finds: the last result not yet in the tile, or the tile (R274). -/
def tileVal (s : State) (k n q e : Nat) : BitVec 80 :=
  match ((s.matq.filter (fun o => o.crew == k && o.acc == n && o.executed.any (fun p => p.1 == q) && !(o.faults.any (fun p => p.1 == q)) &&
      !(o.updated.contains q))).reverse).head? with
  | some o => mget 0 o.results (64 * q + e)
  | none => accGet (crewAt s k) n (64 * q + e)

/-- The operation has not started quarter `q`. -/
def notStarted (o : MatOp) (q : Nat) : Bool := o.quarters.contains q && !(o.executed.any (fun p => p.1 == q))

/-- Two quarters of two operations may fuse: their B lines are the same scratchpad lines in the same format (R270). -/
def sameB (o : MatOp) (q : Nat) (p : MatOp) (r : Nat) : Bool :=
  match o.bDesc, p.bDesc with
  | some d, some e =>
    o.team == p.team && MDesc.fmt d == MDesc.fmt e && MDesc.nc d == MDesc.nc e && MDesc.rot d o.rot == MDesc.rot e p.rot &&
    (List.range 8).all (fun i => MDesc.start d o.rot q i == MDesc.start e p.rot r i)
  | _, _ => false

/-- The group that a unit starts: the first quarter not started, and every fusing quarter of the next 16 operations that neither updates a tile of an earlier
member nor passes an operation on its own tile (R270, R274). Pairs an operation's crew and number with a quarter. -/
def matGroup (s : State) (isle slot : Nat) : List (Nat × Nat × Nat) :=
  let q := s.matq.filter (fun o => o.isle == isle && o.slot == slot && o.executed.length < o.quarters.length)
  match q with
  | [] => []
  | h :: _ =>
    match h.quarters.find? (notStarted h) with
    | none => []
    | some hq =>
      if h.zero then h.quarters.map (fun r => (h.crew, h.id, r))
      else
        ((q.take 17).foldl (fun (acc : List (Nat × Nat × Nat) × List (Nat × Nat × Nat)) o =>
          o.quarters.foldl (fun (acc : List (Nat × Nat × Nat) × List (Nat × Nat × Nat)) r =>
            let tile := (o.crew, o.acc, r)
            if !(notStarted o r) then acc
            else
              let lead := o.crew == h.crew && o.id == h.id && r == hq
              if !(acc.2.contains tile) && (lead || (!o.zero && sameB h hq o r)) then (acc.1 ++ [(o.crew, o.id, r)], acc.2 ++ [tile])
              else (acc.1, acc.2 ++ [tile])) acc) ([], [])).1

/-- A team's scratchpad as an operation reads it: words of its tiles that the unit has read already keep the value they had then (R91). -/
def readTeam (s : State) (o : MatOp) : Team :=
  let t := teamAt s o.team
  { t with scratch := o.early.foldl (fun m p => Memory.write m p.1 p.2) t.scratch }

/-- Lines of A or B of a quarter: eight lists of exact elements, or the least cause among its lines by R215, with the first line start of that cause (R280). -/
def matLines (t : Team) (o : MatOp) (isA : Bool) (q : Nat) : Except (Byte × Nat) (List (List FVal)) :=
  match (if isA then o.aDesc else o.bDesc) with
  | none =>
    let m := if isA then o.regA else o.regB
    .ok ((List.range 8).map (fun i => regLine (fun r => mget 0 m (32 * r + 8 * q + i)) o.fmtA))
  | some d =>
    let line := fun (i : Nat) =>
      let a := MDesc.start d o.rot q i
      if o.sparse && isA then (match sparseLine t a (MDesc.fmt d) with | .ok l => Except.ok l | .error c => .error (c, a))
      else .ok (denseLine t a (MDesc.fmt d) (MDesc.nc d))
    let bad := (List.range 8).filterMap (fun i => match line i with | .error e => some e | .ok _ => none)
    match least (fun (e : Byte × Nat) => causeRank e.1) bad with
    | some e => .error e
    | none => .ok ((List.range 8).map (fun i => match line i with | .ok l => l | .error _ => []))

/-- Execute quarter `q` of an operation as a member of group `g`. -/
def matQuarter (s : State) (o : MatOp) (q g : Nat) : MatOp :=
  let t := readTeam s o
  let o1 := { o with executed := o.executed ++ [(q, g)] }
  if o.zero then o1
  else
    match matLines t o true q, matLines t o false q with
    | .error e, _ => { o1 with faults := o.faults ++ [(q, e.1, e.2)] }
    | _, .error e => { o1 with faults := o.faults ++ [(q, e.1, e.2)] }
    | .ok as, .ok bs =>
      { o1 with results := (as.zipIdx).foldl (fun m a => (bs.zipIdx).foldl (fun m b =>
          let e := 8 * a.2 + b.2
          mset 0 m (64 * q + e) (macSum o.rnd (tileVal s o.crew o.acc q e) a.1 b.1)) m) o.results }

/-- Replace an operation in the list. -/
def putMat (s : State) (o : MatOp) : State :=
  { s with matq := s.matq.map (fun p => if p.crew == o.crew && p.id == o.id then o else p) }

/-- A unit reads the aligned word at scratchpad offset `a` for operation `n` of crew `k` ahead of the rest: a later store to it does not reach the operation (R91). -/
def readEarly (s : State) (k n a : Nat) : State :=
  match s.matq.find? (fun o => o.crew == k && o.id == n) with
  | none => s
  | some o =>
    let w := (scB (teamAt s o.team) (a / 4 * 4) 4).zipIdx
    putMat s { o with early := w.foldl (fun m b => if (mfind m (a / 4 * 4 + b.2)).isSome then m else minsert m (a / 4 * 4 + b.2) b.1) o.early }

/-- MATRIX_GROUP_EXECUTE (R270): unit `arg.b` of isle `arg.a` starts the quarter at its queue head with its group and reads their operands. The words of an operand may be read one by one
beforehand, each at a moment of its own: with `arg.c` 1, the word at offset `arg.d` for operation `arg.a` of crew `arg.crew` (R91, log entry 3). -/
def execMatrixGroupExecute (s : State) : Host.Outcome State Fault Refusal :=
  if s.arg.c == 1 then .next (readEarly s s.arg.crew s.arg.a s.arg.d) else
  let g := s.nextGroup
  let ms := matGroup s s.arg.a s.arg.b
  let s := ms.foldl (fun s m =>
    match s.matq.find? (fun o => o.crew == m.1 && o.id == m.2.1) with
    | some o => putMat s (matQuarter s o m.2.2 g)
    | none => s) { s with nextGroup := g + 1 }
  .next (ms.foldl (fun s m => setMacc s m.1) s)

/-- The value of an element after an operation's update: with MLDAs that wait on it, one more candidate (R274). -/
def mldaSee (s : State) (k n id q : Nat) : State :=
  { s with mldas := s.mldas.map (fun d =>
    if d.crew == k && d.acc == n && d.ops.contains id then
      { d with cands := d.cands.map (fun p => if p.1 / 64 == q then (p.1, p.2 ++ [accGet (crewAt s k) n p.1]) else p) }
    else d) }

/-- An MLDA whose operations have all ended has its result: for every element one of its candidates, a free choice (R274). -/
def mldaDone (s : State) (k id : Nat) : State :=
  let s := { s with mldas := s.mldas.map (fun (d : MldaOp) => if d.crew == k then { d with ops := d.ops.filter (fun n => n != id) } else d) }
  let fin := s.mldas.filter (fun d => d.ops.isEmpty)
  let s := fin.foldl (fun (s : State) (d : MldaOp) =>
    let pick := fun e => let l := mget [] d.cands e; l.getD (Config.freeNat (s.free + e) % l.length) 0
    let ts := mldaTargets d.regD d.mode d.rnd d.cols d.quarters pick
    let s := updCrew s d.crew (fun c => { c with pend := c.pend.map (fun (p : Pend) => if p.id == d.id then
      { p with ready := true, targets := (p.targets.zip ts).map (fun t => { t.1 with val := t.2.val }) } else p) })
    { s with free := s.free + 256 }) s
  { s with mldas := s.mldas.filter (fun d => !d.ops.isEmpty) }

/-- An operation all of whose quarters are updated or faulted ends: its result is no longer outstanding, and a fault of it is held (R272, R280). -/
def matEnd (s : State) (o : MatOp) : State :=
  let s := { s with matq := s.matq.filter (fun p => !(p.crew == o.crew && p.id == o.id)) }
  let qs := o.faults.map (fun f => f.1)
  let s := updCrew s o.crew (fun c =>
    let c := { c with pend := c.pend.filter (fun p => p.id != o.id) }
    match least (fun f => causeRank f.2.1) o.faults, least (fun f => f.1) o.faults with
    | some f, some l =>
      { c with held := c.held ++
        [{ addr := o.pcAt, next := o.next, cause := f.2.1, tva := BitVec.ofNat 64 l.2.2, tmask := o.mask
           pcm := quartersMask (o.quarters.filter (fun q => !(qs.contains q))), seq := o.seq, depth := o.depth, returning := true, due := c.saved
           stamps := o.stamps }] }
    | _, _ => c)
  pendEnded (mldaDone (setMacc (pokeHeld s o.crew) o.crew) o.crew o.id) o.crew

/-- Update a tile from an operation's quarter, in issue order per tile (R272, R274). -/
def matUpdate (s : State) (o : MatOp) (q : Nat) : State :=
  let earlier := (s.matq.takeWhile (fun p => !(p.crew == o.crew && p.id == o.id))).any (fun p =>
    p.crew == o.crew && p.acc == o.acc && p.quarters.contains q && !(p.updated.contains q))
  if earlier || o.updated.contains q then s
  else
    let s := if o.faults.any (fun f => f.1 == q) then s
      else
        let s := updCrew s o.crew (fun c => { c with acc := (List.range 64).foldl (fun m e => mset 0 m (256 * o.acc + 64 * q + e) (mget 0 o.results (64 * q + e))) c.acc })
        pokeAcc s o.crew ((List.range 64).map (fun e => 256 * o.acc + 64 * q + e))
    let o := { o with updated := o.updated ++ [q] }
    let s := mldaSee (putMat s o) o.crew o.acc o.id q
    if o.updated.length == o.quarters.length then matEnd s o else s

/-- MATRIX_TILE_UPDATE (R272): the quarter tiles of group `arg.a` are updated; DONE is set for operations that have ended. -/
def execMatrixTileUpdate (s : State) : Host.Outcome State Fault Refusal :=
  .next ((s.matq.flatMap (fun o => (o.executed.filter (fun p => p.2 == s.arg.a)).map (fun p => (o.crew, o.id, p.1)))).foldl (fun s m =>
    match s.matq.find? (fun o => o.crew == m.1 && o.id == m.2.1) with
    | some o => matUpdate s o m.2.2
    | none => s) s)

end Sys2Proof.Machine
end

