-- ==== Sys2Proof/Machine/System.lean ====
section
/-! DEFINITION. Fetch faults and words that are no instruction (R108, R131, R134). -/

namespace Sys2Proof.Machine

/-- The context of a crew's split for what stands at its PC, `n` bytes long. -/
def ctxAt (k : Nat) (c : Crew) (n : Nat) : Ctx := { k := k, c := c, m := c.exm, pc := c.pc, nx := c.pc + BitVec.ofNat 56 n, id := c.seq }

/-- A fetch that faults (R108): a precise trap of the split with the failing address in `tva`, or the basic-level park on a missing page (R252). -/
def fetchFault (s : State) (k : Nat) (c : Crew) (cause : Byte) (a : Nat) : State :=
  let x := ctxAt k c 0
  if cause == 0x10 && !(expertOf c 0) then
    parkPgnp s k [(a / 65536, a, c.exm)] 2
      { left := 1, cause := 0x10, tva := BitVec.ofNat 64 a, tmask := c.exm, pcm := 0, impr := false, precise := true, addr := c.pc, next := c.pc
        seq := x.id, stamps := c.stamp }
  else finish x 1 (.trap s (trapAt x cause (BitVec.ofNat 64 a))) s

/-- FETCH_FAULT (R108): the fetch at the PC of crew `arg.crew` faults before any lane issues. -/
def execFetchFault (s : State) : Host.Outcome State Fault Refusal :=
  let k := s.arg.crew
  match mfind s.crews k with
  | none => .next s
  | some c =>
    match fetchAt s c c.pc with
    | (s, .fault e a) => .next (fetchFault s k c e a)
    | _ => .next s

/-- UNASSIGNED_OPCODE (R134): the word at the PC of crew `arg.crew` is no instruction; it is issued and raises ILLOP precisely (R131). -/
def execUnassignedOpcode (s : State) : Host.Outcome State Fault Refusal :=
  let k := s.arg.crew
  match mfind s.crews k with
  | none => .next s
  | some c =>
    match fetchAt s c c.pc with
    | (s, .bad bs) =>
      let x := ctxAt k c bs.length
      let s := traceFirst s k
      .next (finish x 1 (.trap s (trapAt x 0x01 (join (leWord bs) (leWord (bs.drop 4))))) s)
    | _ => .next s

end Sys2Proof.Machine
end

