-- ==== Sys2Proof/Machine/Trap.lean ====
section
/-! DEFINITION. The system instructions TRAP, SVC, ILL and CTXSW, and the steps by which results return and a trap that waited is entered (R17, R133, R245,
R256). RETT stands in Replay.lean. -/

namespace Sys2Proof.Machine

/-- TRAP (R256): a precise TRAPSW with S1's value in `tva`. -/
def coreTrap (f : TF) : Core :=
  { illop := fun _ _ => f.k1 == 0
    uses := useSrc f.k1 f.s1 1
    cbank := f.k1 == 2
    run := fun x s => .trap s (trapAt x 0x50 ((opA x.c .i32 f 0).setWidth 64)) }
/-- TRAP. -/
def execTrap (f : TF) (s : State) : Host.Outcome State Fault Refusal := issue (.trap f) (coreTrap f) s

/-- The SVC record (R253, R256). -/
def svcRecord (x : Ctx) (a b : Word) : FRec :=
  { typ := 0x80, gcrew := x.c.gcrew, lid := BitVec.ofNat 32 x.c.lid, part := x.c.part, pc := x.pc.setWidth 64, lanes := x.m
    stamp := stampOf x.c (lowest x.m), detail := join a b }

/-- SVC (R256): an SVC record when the queue has room for it (R254), and in sD whether it was queued. -/
def coreSvc (f : TF) : Core :=
  { illop := fun _ _ => f.k1 == 0 || f.k2 == 0
    uses := useSrc f.k1 f.s1 1 ++ useSrc f.k2 f.s2 1 ++ [useS f.d 1 true]
    cbank := f.k1 == 2 || f.k2 == 2
    run := fun x s =>
      let s := flushRecs (s.faultq.waiting.length + 2) s
      let s1 := if recRoom s then putRec s (svcRecord x (opA x.c .i32 f 0) (opB x.c .i32 f 0)) .nobody else s
      .done (updCrew s1 x.k (fun c => sset c f.d.toNat (if recRoom s then 1 else 0))) }
/-- SVC. -/
def execSvc (f : TF) (s : State) : Host.Outcome State Fault Refusal := issue (.svc f) (coreSvc f) s

/-- ILL (R133): ILLOP whatever its fields hold. -/
def coreIll : Core :=
  { illop := fun _ _ => true
    run := fun _ s => .done s }
/-- ILL. -/
def execIll (s : State) : Host.Outcome State Fault Refusal := issue .ill coreIll s

/-- CTXSW (R256): a save of this crew alone begins at the next instruction; `halt` leaves it Saved until it is resumed. -/
def ctxswCore (halt : Bool) : Core :=
  { priv := true
    run := fun x s => .done (updCrew s x.k (fun c => { c with saving := some s.clock, alone := true, ctxHalt := halt })) }
/-- CTXSW with S2 0. -/
def coreCtxsw : Core := ctxswCore false
/-- CTXSW with S2 1. -/
def coreCtxswHalt : Core := ctxswCore true

/-- The save completes at once when nothing that it drains is outstanding (R255). -/
def thenSave (r : Host.Outcome State Fault Refusal) : Host.Outcome State Fault Refusal :=
  match r with
  | .next s => .next (trySave s s.cur)
  | .fault e => .fault e
  | .refused e => .refused e
/-- CTXSW. -/
def execCtxsw (s : State) : Host.Outcome State Fault Refusal := thenSave (issue .ctxsw coreCtxsw s)
/-- CTXSW_HALT. -/
def execCtxswHalt (s : State) : Host.Outcome State Fault Refusal := thenSave (issue .ctxswHalt coreCtxswHalt s)

/-- REGISTER_RESULT_RETURN (R17): result `arg.a` of crew `arg.crew`, whose values are known, returns into its registers, or into the image of a saved crew
(R19). A copy that it ends frees its entry (R283). -/
def execRegisterResultReturn (s : State) : Host.Outcome State Fault Refusal :=
  let k := s.arg.crew
  if (crewAt s k).pend.any (fun p => p.id == s.arg.a && p.ready) then .next (copyReturned (landPend s k s.arg.a (fun _ => true) (fun t => some t.val)) k s.arg.a) else .next s

/-- Nothing but its engine's own waits keeps a resident crew from taking a trap. -/
def mayTrap (c : Crew) : Bool := c.halt == .running && !c.saved && !c.ctxHalt && c.saving.isNone && c.park.isNone

/-- The trap that crew `c` may enter now (R245). -/
def trapDue (c : Crew) : Option TrapReq :=
  match c.trapReq with
  | some r => if mayTrap c && c.pend.isEmpty && (pagesFirst c r).isNone then some r else none
  | none => none

/-- TRAP_ENTRY (R245): nothing of crew `arg.crew` is outstanding any more, and it enters the handler of the trap it waits to take. -/
def execTrapEntry (s : State) : Host.Outcome State Fault Refusal :=
  match mfind s.crews s.arg.crew with
  | none => .next s
  | some c =>
    match trapDue c with
    | some r => .next (enterTrap (updCrew s s.arg.crew drained) s.arg.crew r)
    | none => .next s

end Sys2Proof.Machine
end

