-- ==== Sys2Proof/Machine/Watch.lean ====
section
/-! DEFINITION. The watch engine: TMARK, BRK, PMARK and WATCHSET, breakpoints and stops, the request ring with its thirteen requests, the counter series and the trace
pointers (R405 to R425). The trace writer stands in Ops.lean. -/

namespace Sys2Proof.Machine

/-! ## Instructions (R413 to R415) -/

/-- The TMARK packet of a traced crew, after the SYNC it may need (R408, R409). -/
def tmarkPacket (s : State) (x : Ctx) (code : BitVec 16) (v : Word) : State :=
  if !(bufOn s x.c) then traceOff s x.k else
  let s := traceDue s x.k
  let t := (crewAt s x.k).trace
  let bs := pktHead 4 x.c.gcrew ((s.clock - t.lastPkt) % 65536) ++ natBytes 4 v.toNat ++ natBytes 8 (x.m.toNat + 2 ^ 32 * code.toNat) ++
    natBytes 8 (stampOf x.c (lowest x.m)).toNat ++ natBytes 4 x.c.lid ++ natBytes 4 ((x.pc - t.refPc).toNat % 2 ^ 32)
  let s := updCrew s x.k (fun c => { c with trace := { c.trace with lastPkt := s.clock, sinceSync := t.sinceSync + 1 } })
  emitPacket s (shelfOf x.c.gcrew) x.c.gcrew (some x.k) bs

/-- TMARK (R413): a TMARK packet when the crew is traced. -/
def coreTmark (f : SF) : Core :=
  { uses := [useS f.d 1 false]
    run := fun x s =>
      if !(x.c.trace.traced) then .done s
      else .formed (tmarkPacket (updCrew s x.k (fun c => sendLanes c x.m (fun _ => x.nx))) x f.code (sget x.c f.d.toNat)) }
/-- TMARK. -/
def execTmark (f : SF) (s : State) : Host.Outcome State Fault Refusal := issue (.tmark f) (coreTmark f) s

/-- PMARK (R413): a PMARK packet to the shelf's buffer. -/
def corePmark (f : SF) : Core :=
  { uses := [useS f.d 1 false]
    run := fun x s => .done (emitPacket s (shelfOf x.c.gcrew) x.c.gcrew none
      (pktHead 6 x.c.gcrew f.code.toNat ++ natBytes 4 (sget x.c f.d.toNat).toNat ++ natBytes 8 s.clock ++ natBytes 8 (stampOf x.c (lowest x.m)).toNat ++
        natBytes 4 x.c.lid ++ natBytes 4 x.m.toNat)) }
/-- PMARK. -/
def execPmark (f : SF) (s : State) : Host.Outcome State Fault Refusal := issue (.pmark f) (corePmark f) s

/-- Set or disable a watched region (R407, R415). -/
def setRegion (s : State) (n base len part : Nat) (lid : Option Nat) : State :=
  { s with regions := if len == 0 then merase s.regions n else minsert s.regions n { base := base, len := len, part := part, lid := lid } }

/-- The offending value of WATCHSET's operands (R415). -/
def regionBad (base len flag : Nat) : Option Nat :=
  if base % 4 != 0 || 2 ^ 56 ≤ base then some base else if len % 4 != 0 then some len else if 1 < flag then some flag
  else if 2 ^ 56 < base + len then some base else none

/-- WATCHSET (R415, R423): at the basic level of the watch engine it is no instruction. -/
def coreWatchset (f : SF) : Core :=
  { illop := fun c _ => !(expertOf c 8)
    uses := [useS f.d 4 false]
    priv := true
    run := fun x s =>
      let base := (sget2 x.c f.d.toNat).toNat
      let len := (sget x.c (f.d.toNat + 2)).toNat
      let flag := (sget x.c (f.d.toNat + 3)).toNat
      match regionBad base len flag with
      | some v => .trap s (trapAt x 0x13 (BitVec.ofNat 64 v))
      | none => .done (setRegion s (f.code.toNat % 8) base len x.c.part (if flag == 1 then some x.c.lid else none)) }
/-- WATCHSET. -/
def execWatchset (f : SF) (s : State) : Host.Outcome State Fault Refusal := issue (.watchset f) (coreWatchset f) s

/-- BRK is armed for a launch (R407). -/
def isArmed (s : State) (lid : Nat) : Bool := s.armed.contains lid

/-- BRK (R414): it issues when it is armed, else it traps with its code. -/
def coreBrk : Core :=
  { run := fun x s => if isArmed s x.c.lid then .done s else .trap s (trapAt x 0x51 (BitVec.ofNat 64 (s.ir.aux.toNat / 64))) }
/-- BRK: when it is armed, the crew stops after it with reason 2 and the code. -/
def execBrk (s : State) : Host.Outcome State Fault Refusal :=
  match issue .brk coreBrk s with
  | .next t => .next (if isArmed s (crewAt s s.cur).lid then stopCrew t s.cur 2 0 (s.ir.aux.toNat / 64) else t)
  | o => o

/-! ## Stops (R417) -/

/-- The crew is stopped. -/
def isStopped (c : Crew) : Bool := match c.halt with | .stopped _ => true | _ => false

/-- A crew's stop halts every crew resident on its isle, and the isle takes no others until it ends (R417). One whose XIR is under way stops once that has issued (R239). -/
def isleStop (s : State) (k : Nat) : State :=
  let i := isleOf (crewAt s k).gcrew
  let ks := (s.crews.filter (fun p => !p.2.saved && p.2.halt == .running && isleOf p.2.gcrew == i)).map (fun p => p.1)
  let stop := fun (s : State) (k : Nat) => if (crewAt s k).xir.isSome then updCrew s k (fun c => { c with stopNext := some (5, 0, 0) }) else stopCrew s k 5 0 0
  { ks.foldl stop s with isleStops := s.isleStops ++ [(i, k, ks)] }

/-- A stop that waited for an XIR to issue lands (R239, R417). -/
def stopDue (c : Crew) : Option (Nat × Nat × Nat) := if c.halt == .running && !c.saved && c.xir.isNone then c.stopNext else none

/-- A stopped crew goes on. -/
def resumeCrew (s : State) (k : Nat) : State :=
  updCrew s k (fun c => { c with
    halt := if isStopped c then .running else c.halt, ctxHalt := false, stepping := if c.stepping == 3 then 0 else c.stepping, stopNext := none
    readySince := max c.readySince s.clock })

/-- End an isle stop: the crews it stopped go on, unless another stop of the isle holds them. -/
def endIsleStop (s : State) (e : Nat × Nat × List Nat) : State :=
  let rest := s.isleStops.filter (fun p => p != e)
  if rest.any (fun p => p.1 == e.1) then
    let first := (rest.findIdx? (fun p => p.1 == e.1)).getD 0
    { s with isleStops := rest.zipIdx.map (fun p => if p.2 == first then (p.1.1, p.1.2.1, p.1.2.2 ++ e.2.2) else p.1) }
  else
    (e.2.2.filter (fun k => (mfind s.crews k).isSome && ((crewAt s k).halt == .stopped 5 || (crewAt s k).stopNext.isSome))).foldl resumeCrew { s with isleStops := rest }

/-- A breakpoint that matches the crew's next instruction (R417). -/
def brkHit (s : State) (c : Crew) : Option (Nat × Brk) :=
  s.brks.find? (fun b => b.2.lid == c.lid && c.text + b.2.off.setWidth 56 == c.pc && (b.2.crew == 0xFFFFFFFF || b.2.crew.toNat == c.lcid))

/-- BREAKPOINT_STOP (R417): a breakpoint matches the next issue of crew `arg.crew`, which stops before it. -/
def execBreakpointStop (s : State) : Host.Outcome State Fault Refusal :=
  let k := s.arg.crew
  match mfind s.crews k with
  | none => .next s
  | some c =>
    match brkHit s c with
    | some (n, b) =>
      if c.halt != .running || c.saved || c.stepping == 1 then .next s
      else
        let s := stopCrew s k 1 n 0
        .next (if b.isleStop then isleStop s k else s)
    | none => .next s

/-! ## The request ring (R406, R407) -/

/-- Bytes of physical memory for a request. -/
def wread (s : State) (a n : Nat) : State × Except (Byte × Nat) (List Byte) := qread s { physical := true } a n
/-- Write physical bytes for a request; `none` when they cannot be written. -/
def wwrite (s : State) (a : Nat) (bs : List Byte) : Option State :=
  match qwrite s true 0 a bs with | (s, none) => some s | (_, some _) => none

/-- The head of the request ring. A STEP that has not completed holds it (R406, R418). -/
def watchHead (s : State) : State × QHead :=
  let r := s.watchRing
  if r.base == 0 || r.stopped != 0 || s.stepReq.isSome then (s, .idle)
  else
    match wread s r.tailw 4 with
    | (s, .error _) => (s, .stop 2)
    | (s, .ok t) =>
      let tail := BitVec.ofNat 32 (bytesNat t)
      if tail == r.head then (s, .idle)
      else if 256 < (tail - r.head).toNat then (s, .stop 1)
      else
        match wread s (r.base + r.head.toNat % 256 * 64) 64 with
        | (s, .error _) => (s, .stop 2)
        | (s, .ok bs) => (s, .entry bs)

/-- Write the ring's head word (R389). -/
def writeWatchHead (s : State) : State :=
  let r := s.watchRing
  (wwrite s r.headw (natBytes 8 (r.head.toNat + (if r.stopped == 0 then 0 else 2 ^ 32) + r.stopped * 2 ^ 33))).getD s

/-- Write a result word (R406). -/
def writeResult (s : State) (res code wait_ : Nat) : State :=
  if res % 4 != 0 then s else (wwrite s res (natBytes 4 (2 ^ 31 + (if code == 0 then 0 else 2 ^ 30) + 256 * wait_ + code))).getD s

/-- Fields that a request uses (R407): FLAGS, whether LID, CREW and ADDR are used, ARG0, ARG1, and the bytes of ARG2. -/
structure ReqUse where
  flags : Nat
  lid : Bool
  crew : Bool
  arg0 : Nat
  addr : Bool
  arg1 : Nat
  arg2 : Nat

/-- The fields that each OP uses. -/
def reqUse (op : Nat) : Option ReqUse :=
  match op with
  | 1 => some ⟨0, false, false, 0xFFFF, true, 0x3F, 16⟩
  | 2 => some ⟨1, true, true, 0, false, 0, 0⟩
  | 3 => some ⟨0, false, false, 31, true, 0xFFFFFFFF, 16⟩
  | 4 => some ⟨1, true, false, 7, true, 0xFFFFFFFF, 1⟩
  | 5 => some ⟨3, true, true, 7, false, 0xFFFFFFFF, 0⟩
  | 6 => some ⟨1, true, false, 0, false, 0, 0⟩
  | 7 => some ⟨2, true, true, 0, false, 0, 0⟩
  | 8 => some ⟨0, true, true, 0, false, 0, 0⟩
  | 9 => some ⟨2, true, true, 0, false, 0, 0⟩
  | 10 => some ⟨0, true, true, 0, true, 0, 0⟩
  | 11 => some ⟨0, true, true, 0, true, 0, 0⟩
  | 12 => some ⟨0, true, true, 0, false, 0, 0⟩
  | 13 => some ⟨0, true, true, 0, false, 0, 0⟩
  | _ => none

/-- A field of a request breaks R406 or R407. -/
def reqBad (bs : List Byte) : Bool :=
  let f := at_ bs
  match reqUse (f 0 1) with
  | none => true
  | some u =>
    let beyond := fun (x m : Nat) => x ||| m != m
    f 2 2 != 0 || beyond (f 1 1) u.flags || (!u.lid && f 4 4 != 0) || (!u.crew && f 8 4 != 0) || beyond (f 12 4) u.arg0 || 2 ^ 56 ≤ f 16 8 || (!u.addr && f 16 8 != 0) ||
    beyond (f 24 8) u.arg1 || 2 ^ 56 ≤ f 32 8 || f 32 8 % 4 != 0 || at_ bs (40 + u.arg2) (24 - u.arg2) != 0 || (f 0 1 == 4 && 15 < f 40 1)

/-- A request as its fields. -/
structure Req where
  flags : Nat
  lid : Nat
  crew : Nat
  arg0 : Nat
  addr : Nat
  arg1 : Nat
  res : Nat
  p0 : Nat
  p1 : Nat

/-- The fields of a request's bytes. -/
def watchReqOf (bs : List Byte) : Req :=
  let f := at_ bs
  { flags := f 1 1, lid := f 4 4, crew := f 8 4, arg0 := f 12 4, addr := f 16 8, arg1 := f 24 8, res := f 32 8, p0 := f 40 8, p1 := f 48 8 }

/-- The request names every crew of its launch. -/
def Req.all (r : Req) : Bool := r.crew == 0xFFFFFFFF
/-- The request names a crew key. -/
def Req.names (r : Req) (k : Nat) : Bool := k / 2 ^ 26 == r.lid && (r.all || k % 2 ^ 26 == r.crew)
/-- The crews that a request names. -/
def reqCrews (s : State) (r : Req) : List (Nat × Crew) := s.crews.filter (fun p => p.2.lid == r.lid && r.names p.1)

/-- Take the head request of the ring for the OPs that `mine` picks: a request completes with its result word; one with an error changes nothing (R406). -/
def takeReq (s : State) (mine : Nat → Bool) (run : State → Req → Except Nat State) : State :=
  match watchHead s with
  | (_, .idle) => s
  | (s, .stop n) => writeWatchHead { s with watchRing := { s.watchRing with stopped := n } }
  | (s1, .entry bs) =>
    if !(mine (at_ bs 0 1)) then s
    else
      let s := writeWatchHead { s1 with watchRing := { s1.watchRing with head := s1.watchRing.head + 1 } }
      let r := watchReqOf bs
      if reqBad bs then (if r.res < 2 ^ 56 then writeResult s r.res 1 0 else s)
      else
        match run s r with
        | .ok t => if t.stepReq.isSome then t else writeResult t r.res 0 0
        | .error code => writeResult s r.res code 0

/-- Crews of a plain launch. -/
def crewTotal (d : Desc) : Nat := teamCount d * d.team

/-- The launch that a request needs, with its watch engine at the expert level (R423); code 2 or 3 where it is missing. -/
def reqLaunch (s : State) (r : Req) (basic : Bool) : Except Nat Launch :=
  match mfind s.launches r.lid with
  | none => .error 2
  | some l => if basic || l.desc.expert.getLsbD 8 then .ok l else .error 3

/-- The crews that a request must find: code 2 when it names one that is not there. -/
def needCrews (s : State) (r : Req) : Except Nat (List (Nat × Crew)) :=
  let cs := reqCrews s r
  if cs.isEmpty && !r.all then .error 2 else .ok cs

/-- The one crew that a request must name (R407). -/
def needOne (s : State) (r : Req) : Except Nat (Nat × Crew) :=
  if r.all then .error 1 else match reqCrews s r with | [] => .error 2 | p :: _ => .ok p

/-- Bytes from an address on lie in memory. -/
def place (a n : Nat) : Bool := inMem a n

/-- BUFFER: set or disable the trace buffers of a shelf mask. -/
def doBuffer (s : State) (r : Req) : Except Nat State :=
  let s := flushTrace s
  let shelves := (List.range 16).filter (fun i => r.arg0.testBit i)
  if r.arg1 == 0 then .ok { s with tbufs := shelves.foldl merase s.tbufs }
  else if !(within 16 r.arg1 30) then .error 1
  else if !(place r.addr (2 ^ r.arg1)) || !(place r.p0 4) || !(place r.p1 4) then .error 4
  else
    let w := BitVec.ofNat 32 (rdN s r.p0 4)
    let b : TBuf := { base := r.addr, size := r.arg1, wAddr := r.p0, rAddr := r.p1, w := w, published := w }
    .ok { s with tbufs := shelves.foldl (fun m i => minsert m i b) s.tbufs }
/-- BUFFER (R407): the head request of the ring sets trace buffers, or has an unknown OP. -/
def execBufferReq (s : State) : Host.Outcome State Fault Refusal := .next (takeReq s (fun op => op == 1 || op == 0 || 13 < op) doBuffer)

/-- A crew starts or stops being traced; its first packet is then a SYNC (R408). -/
def setTraced (on : Bool) (c : Crew) : Crew := if c.trace.traced == on then c else { c with trace := { traced := on } }
/-- TRACE: trace crews, those that start later among them. -/
def doTrace (s : State) (r : Req) : Except Nat State := do
  let l ← reqLaunch s r false
  if !r.all && l.desc.kind != 2 && crewTotal l.desc ≤ r.crew then .error 2
  else
    let on := r.flags == 1
    let s := (reqCrews s r).foldl (fun s p => updCrew s p.1 (setTraced on)) s
    .ok { s with launches := mmodify s.launches r.lid (fun l => { l with
      traceAll := if r.all then on else l.traceAll
      traced := if r.all then [] else if on then (if l.traced.contains r.crew then l.traced else l.traced ++ [r.crew]) else l.traced.filter (fun n => n != r.crew) }) }
/-- TRACE (R407). -/
def execTraceReq (s : State) : Host.Outcome State Fault Refusal := .next (takeReq s (fun op => op == 2) doTrace)

/-- Bytes of a frame of the counter series (R421). -/
def frameSize : Nat := 21504
/-- SERIES: set the counter series, or turn it off. -/
def doSeries (s : State) (r : Req) : Except Nat State :=
  if r.arg0 == 0 then .ok { s with series := {} }
  else if !(within 10 r.arg0 24) || !(within 1 r.arg1 65536) || 2 ^ Nat.log2 r.arg1 != r.arg1 then .error 1
  else if !(place r.addr (frameSize * r.arg1)) || !(place r.p0 4) || !(place r.p1 4) then .error 4
  else
    .ok { s with series := { base := r.addr, frames := r.arg1, k := r.arg0, wAddr := r.p0, rAddr := r.p1, w := BitVec.ofNat 32 (rdN s r.p0 4)
                             last := mget [] s.countAt r.arg0 } }
/-- SERIES (R407). -/
def execSeriesReq (s : State) : Host.Outcome State Fault Refusal := .next (takeReq s (fun op => op == 3) doSeries)

/-- REGION: set a watched region of a partition, for one launch or for all. -/
def doRegion (s : State) (r : Req) : Except Nat State :=
  let part := r.p0 % 256
  if (regionBad r.addr r.arg1 0).isSome then .error 1
  else if r.flags == 1 && !((mfind s.launches r.lid).any (fun l => l.part == part)) then .error 2
  else .ok (setRegion s r.arg0 r.addr r.arg1 part (if r.flags == 1 then some r.lid else none))
/-- REGION (R407, R415). -/
def execRegionReq (s : State) : Host.Outcome State Fault Refusal := .next (takeReq s (fun op => op == 4) doRegion)

/-- BREAK: set or clear a breakpoint. -/
def doBreak (s : State) (r : Req) : Except Nat State :=
  if r.flags % 2 == 0 then .ok { s with brks := merase s.brks r.arg0 }
  else do
    let l ← reqLaunch s r false
    if !r.all && l.desc.kind != 2 && crewTotal l.desc ≤ r.crew then .error 2
    else
      let b : Brk := { lid := r.lid, off := BitVec.ofNat 32 r.arg1, crew := BitVec.ofNat 32 r.crew, isleStop := r.flags == 3 }
      .ok { s with brks := minsert s.brks r.arg0 b }
/-- BREAK (R407). -/
def execBreakReq (s : State) : Host.Outcome State Fault Refusal := .next (takeReq s (fun op => op == 5) doBreak)

/-- ARMBRK: BRK in a launch stops, or traps. -/
def doArmbrk (s : State) (r : Req) : Except Nat State := do
  let _ ← reqLaunch s r false
  .ok { s with armed := if r.flags == 1 then (if isArmed s r.lid then s.armed else s.armed ++ [r.lid]) else s.armed.filter (fun x => x != r.lid) }
/-- ARMBRK (R407). -/
def execArmbrkReq (s : State) : Host.Outcome State Fault Refusal := .next (takeReq s (fun op => op == 6) doArmbrk)

/-- Stop a named crew; one that is saved stops on its restore (R407). -/
def stopNamed (s : State) (p : Nat × Crew) : State :=
  if p.2.halt != .running then s
  else if p.2.saved then updCrew s p.1 (fun c => { c with stepping := 3 })
  else stopCrew s p.1 3 0 0
/-- STOP: stop the named crews, and with FLAGS [1] their isles. -/
def doStop (s : State) (r : Req) : Except Nat State := do
  let _ ← reqLaunch s r false
  let cs ← needCrews s r
  let s := cs.foldl stopNamed s
  .ok (if r.flags == 2 then (cs.filter (fun p => !p.2.saved)).foldl (fun s p => isleStop s p.1) s else s)
/-- STOP (R407, R417); with `arg.b` 1, a stop lands on crew `arg.crew` whose XIR has issued (R239). -/
def execStopReq (s : State) : Host.Outcome State Fault Refusal :=
  if s.arg.b == 1 then
    match (mfind s.crews s.arg.crew).bind stopDue with
    | some p => .next (stopCrew s s.arg.crew p.1 p.2.1 p.2.2)
    | none => .next s
  else .next (takeReq s (fun op => op == 7) doStop)

/-- STEP: the crew issues one instruction. -/
def doStep (s : State) (r : Req) : Except Nat State := do
  let _ ← reqLaunch s r false
  let p ← needOne s r
  if !(isStopped p.2) || p.2.saved then .error 3
  else .ok { updCrew s p.1 (fun c => { c with halt := .running, stepping := 1, readySince := max c.readySince s.clock }) with stepReq := some (p.1, r.res) }

/-- The crew stands in a wait of R41. -/
def inWait (c : Crew) : Bool :=
  c.markerWait ||
  match c.wait with
  | .none => false
  | .yield _ => false
  | .drain => false
  | .atIssue .memory => false
  | .atIssue .issueConflict => false
  | _ => true

/-- The step of a crew is over: its instruction has issued, and its trap, if any, is taken (R418). -/
def stepEnds (c : Crew) : Bool :=
  c.halt == .running && !c.saved && c.stepping == 2 && !(inWait c) && c.wait != .drain && c.trapReq.isNone && c.park.isNone

/-- A STEP under way has its answer: whether the crew parked in a wait. -/
def stepAnswer (s : State) (k : Nat) : Option Nat :=
  match mfind s.crews k with
  | none => some 0
  | some c => if c.halt != .running then some 0 else if c.stepping != 0 && inWait c && !c.saved then some 1 else none

/-- Complete the STEP under way. -/
def answerStep (s : State) : State :=
  match s.stepReq with
  | none => s
  | some (k, res) =>
    match stepAnswer s k with
    | some w => writeResult { s with stepReq := none } res 0 w
    | none => s

/-- STEP (R407, R418): the head request of the ring lets a stopped crew issue one instruction; with `arg.b` 1, crew `arg.crew` has come to the end of its step, or
parked in a wait. -/
def execStepReq (s : State) : Host.Outcome State Fault Refusal :=
  if s.arg.b == 1 then
    let k := s.arg.crew
    .next (answerStep (if (mfind s.crews k).any stepEnds then stopCrew s k 4 0 0 else s))
  else .next (takeReq s (fun op => op == 8) doStep)

/-- RESUME: the named stopped crews go on, and with FLAGS [1] the isle stops that they caused end. -/
def doResume (s : State) (r : Req) : Except Nat State :=
  let mine := if r.flags == 2 then s.isleStops.filter (fun p => r.names p.2.1) else []
  if (mfind s.launches r.lid).isNone && mine.isEmpty then .error 2
  else
    let cs := reqCrews s r
    if cs.isEmpty && !r.all && mine.isEmpty then .error 2
    else if cs.any (fun p => p.2.halt == .double) then .error 3
    else .ok (mine.foldl endIsleStop (cs.foldl (fun s p => resumeCrew s p.1) s))
/-- RESUME (R407, R419). -/
def execResumeReq (s : State) : Host.Outcome State Fault Refusal := .next (takeReq s (fun op => op == 9) doResume)

/-- The pending maps of a dump (R419). -/
def pendingMaps (c : Crew) : List Byte :=
  let bits := fun (file : RegFile) => (List.range 64).foldl (fun n r =>
    if c.pend.any (fun p => p.targets.any (fun t => t.file == file && t.idx == r) || p.regs.contains (file, r)) then n + 2 ^ r else n) 0
  natBytes 8 (bits .vector) ++ natBytes 8 (bits .scalar) ++ natBytes 8 (bits .accum)

/-- DUMP: write the image of a stopped or halted crew. -/
def doDump (s : State) (r : Req) : Except Nat State := do
  let p ← needOne s r
  let _ ← reqLaunch s r (p.2.halt == .double)
  if p.2.halt == .running then .error 3
  else match wwrite s r.addr (imageBytes s p.2 (pendingMaps p.2)) with
    | some s => .ok s
    | none => .error 4
/-- DUMP (R407, R419). -/
def execDumpReq (s : State) : Host.Outcome State Fault Refusal := .next (takeReq s (fun op => op == 10) doDump)

/-- PATCH: load an image into a stopped crew, and into its own image when it is saved. -/
def doPatch (s : State) (r : Req) : Except Nat State := do
  let _ ← reqLaunch s r false
  let p ← needOne s r
  if !(isStopped p.2) || !p.2.pend.isEmpty then .error 3
  else match wread s r.addr (imageSize p.2.nregs p.2.naccs) with
    | (_, .error _) => .error 4
    | (s, .ok bs) =>
      let c := p.2
      let d := loadImage c bs
      let s := updCrew s p.1 (fun _ => reform { d with tdepth := c.tdepth })
      let c := crewAt s p.1
      .ok (if c.saved then (vwriteAll s (whoOf c c.pc) (imageAt s c) (imageBytes s c (List.replicate 24 0))).1 else s)
/-- PATCH (R407, R419). -/
def execPatchReq (s : State) : Host.Outcome State Fault Refusal := .next (takeReq s (fun op => op == 11) doPatch)

/-- Records of a crew that nobody waits for any more. -/
def disown (s : State) (k : Nat) : State :=
  let re := fun (o : RecOwner) => if o == .crew k then .nobody else o
  { s with faultq := { s.faultq with
    waiting := s.faultq.waiting.map (fun p => (p.1, re p.2)), open_ := s.faultq.open_.map (fun p => (p.1, p.2.1, re p.2.2))
    got := s.faultq.got.map (fun p => (p.1, p.2.1, re p.2.2)) } }

/-- End every lane of a crew without issuing anything; what it holds or awaits goes (R249, R420). -/
def killCrew (s : State) (k : Nat) : State :=
  let c := crewAt s k
  let s := (sortBy heldKey c.held).foldl (fun s h => lateRecord s c h) s
  let main := if c.tdepth == 0 then c.fr else c.sh1
  let s := { s with copies := s.copies.filter (fun o => !(o.ended.isSome && o.crew == k)) }
  updCrew (dropTurns (disown s k) k) k (fun c => { c with
    fr := endIn main (lanesIn main .live ||| lanesIn main .held), sh1 := [], sh2 := [], exm := 0, tdepth := 0, bank1 := {}, bank2 := {}, halt := .running
    pend := [], counted := [], held := [], wait := .none, waits := [], markerWait := false, park := none, trapReq := none, stepping := 0, ctxHalt := false
    saving := none, stopNext := none, xir := none })

/-- KILL: end the named stopped or halted crews. -/
def doKill (s : State) (r : Req) : Except Nat State := do
  let cs ← needCrews s r
  let _ ← reqLaunch s r (!cs.isEmpty && cs.all (fun p => p.2.halt == .double))
  if cs.any (fun p => p.2.halt == .running && !p.2.ctxHalt) then .error 3 else .ok (cs.foldl (fun s p => killCrew s p.1) s)
/-- KILL (R407, R420). -/
def execKillReq (s : State) : Host.Outcome State Fault Refusal := .next (takeReq s (fun op => op == 12) doKill)

/-- WAKE: the named crews leave SLEEP (R170). -/
def doWake (s : State) (r : Req) : Except Nat State := do
  let _ ← reqLaunch s r true
  let cs ← needCrews s r
  .ok (cs.foldl (fun s p => updCrew s p.1 (fun c => match c.wait with | .sleep _ => { c with wait := .none, readySince := max c.readySince s.clock } | _ => c)) s)
/-- WAKE (R407). -/
def execWakeReq (s : State) : Host.Outcome State Fault Refusal := .next (takeReq s (fun op => op == 13) doWake)

/-! ## The counter series and the trace pointers (R411, R421) -/

/-- A free count of a frame (log entry 4). -/
def freeCount (s : State) (n : Nat) : List Byte := natBytes 4 (Config.freeWord (s.free + n)).toNat

/-- Words of a frame whose counts the model has: crew-cycles by stall reason (R404), lines of the request engines, CPYC port bytes and channel bytes of each isle, events gathered, spans and
rounds of each shelf, flits sent, received and resent and cycles without credit of each port, chunks, ferry elements, and overflow granted (log entry 10). -/
def isCounted (n : Nat) : Bool := n < 3088 || (4112 ≤ n && n < 5136) || (5136 ≤ n && n < 5264 && n % 8 < 3) || (5264 ≤ n && n < 5365)
/-- Words of a frame that count bytes, in units of 64. -/
def countsBytes (n : Nat) : Bool := 4112 ≤ n && n < 5136 && 2 ≤ n % 4

/-- All counts since reset, by the word of a frame that they go to (R421). -/
def allCounts (s : State) : Map Nat :=
  s.links.foldl (fun m l => l.2.flits.foldl (fun m f => mset 0 m (5264 + 4 * l.1 + f.1) f.2) m) s.counts
/-- The counts once `d` more cycles have passed, each of which counts one in the words `rs`. -/
def countsIn (m : Map Nat) (rs : List Nat) (d : Nat) : Map Nat := rs.foldl (fun m r => mset 0 m r (mget 0 m r + d)) m

/-- Every counter latches at the ticks that fall in the next `n` cycles (R421): the counts at the last multiple of each period, and, while a series is set, those of each of its ticks. -/
def latchCounts (s : State) (rs : List Nat) (n : Nat) : State :=
  let t := s.clock
  if (t + n) / 1024 == t / 1024 then s
  else
    let all := allCounts s
    let ks := ((List.range 15).map (fun i => i + 10)).filter (fun k => (t + n) / 2 ^ k != t / 2 ^ k)
    let k := s.series.k
    let ticks := if k == 0 then [] else (List.range ((t + n) / 2 ^ k - t / 2 ^ k)).map (fun i => (t / 2 ^ k + 1 + i) * 2 ^ k)
    { s with
      countAt := ks.foldl (fun m k => minsert m k (countsIn all rs ((t + n) / 2 ^ k * 2 ^ k - t))) s.countAt
      series := { s.series with due := s.series.due ++ ticks.map (fun b => (b, countsIn all rs (b - t))) } }

/-- Word `n` of a frame: what was counted between two ticks (R421). -/
def frameWord (last now : Map Nat) (n : Nat) : Nat :=
  let f := fun (m : Map Nat) => if countsBytes n then mget 0 m n / 64 else mget 0 m n
  (f now - f last) % 2 ^ 32

/-- The counts of a frame: words 16 to 5366, then nine zero words (R421). -/
def frameCounts (s : State) (last now : Map Nat) : List Byte :=
  (List.range 5351).flatMap (fun i => if isCounted (i + 16) then natBytes 4 (frameWord last now (i + 16)) else freeCount s i) ++ List.replicate 36 0

/-- The head of a frame, 64 bytes. -/
def frameHead (s : State) (tick : Nat) : List Byte :=
  natBytes 8 (tick / 2 ^ s.series.k) ++ natBytes 8 tick ++ natBytes 4 s.series.k ++ natBytes 4 s.series.dropped.toNat ++ List.replicate 40 0

/-- COUNTER_TICK (R421): a tick has come; one frame is written, or dropped when the ring is full. -/
def execCounterTick (s : State) : Host.Outcome State Fault Refusal :=
  let e := s.series
  match e.due with
  | [] => .next s
  | (t, now) :: rest =>
    let e1 := { e with due := rest, last := now }
    if e.frames ≤ (e.w - BitVec.ofNat 32 (rdN s e.rAddr 4)).toNat then .next { s with series := { e1 with dropped := e.dropped + 1 } }
    else
      let s1 := wrB s (e.base + e.w.toNat % e.frames * frameSize) (frameHead s t ++ frameCounts s e.last now)
      .next (wrN { s1 with free := s.free + 5351, series := { e1 with w := e.w + 1, dropped := 0 } } e.wAddr 4 (e.w + 1).toNat)

/-- A shelf's write pointer is to be published, or its LOSS packet to be written (R411, R412). -/
def publishDue (s : State) (b : Nat × TBuf) : Bool := b.2.w != b.2.published || (mget 0 s.lost b.1 != 0 && bufRoom s b.2)

/-- TRACE_POINTER_PUBLISH (R411, R412): the LOSS packet of shelf `arg.a` that is due is written, and its write pointer is published. -/
def execTracePointerPublish (s : State) : Host.Outcome State Fault Refusal :=
  let s := putLoss s s.arg.a
  match mfind s.tbufs s.arg.a with
  | some b => if b.w == b.published then .next s else .next { wrN s b.wAddr 4 b.w.toNat with tbufs := minsert s.tbufs s.arg.a { b with published := b.w } }
  | none => .next s

end Sys2Proof.Machine
end

