-- ==== Sys2Proof/Machine/Xir.lean ====
section
/-! DEFINITION. The issue register: XIR, the words it permits, and what its words come to together (R233 to R242). -/

namespace Sys2Proof.Machine

/-- The instruction of a permitted word (R235). -/
def xirCore : Instr → Option Core
  | .iadd f => some (coreIadd f)
  | .isub f => some (coreIsub f)
  | .imul f => some (coreImul f)
  | .imulh f => some (coreImulh f)
  | .umulh f => some (coreUmulh f)
  | .imad f => some (coreImad f)
  | .imin f => some (coreImin f)
  | .imax f => some (coreImax f)
  | .umin f => some (coreUmin f)
  | .umax f => some (coreUmax f)
  | .iabs f => some (coreIabs f)
  | .idiv f => some (coreIdiv f)
  | .udiv f => some (coreUdiv f)
  | .irem f => some (coreIrem f)
  | .urem f => some (coreUrem f)
  | .iadds f => some (coreIadds f)
  | .and f => some (coreAnd f)
  | .or f => some (coreOr f)
  | .xor f => some (coreXor f)
  | .andn f => some (coreAndn f)
  | .shl f => some (coreShl f)
  | .shr f => some (coreShr f)
  | .sar f => some (coreSar f)
  | .rotl f => some (coreRotl f)
  | .popc f => some (corePopc f)
  | .clz f => some (coreClz f)
  | .brev f => some (coreBrev f)
  | .bfx f => some (coreBfx f)
  | .bfi f => some (coreBfi f)
  | .sel f => some (coreSel f)
  | .mov f => some (coreMov f)
  | .iseteq f => some (coreIseteq f)
  | .isetne f => some (coreIsetne f)
  | .isetlt f => some (coreIsetlt f)
  | .isetle f => some (coreIsetle f)
  | .usetlt f => some (coreUsetlt f)
  | .usetle f => some (coreUsetle f)
  | .iadd64 f => some (coreIadd64 f)
  | .isub64 f => some (coreIsub64 f)
  | .imul64 f => some (coreImul64 f)
  | .lea f => some (coreLea f)
  | .fadd f => some (coreFadd f)
  | .fsub f => some (coreFsub f)
  | .fmul f => some (coreFmul f)
  | .fma f => some (coreFma f)
  | .fmin f => some (coreFmin f)
  | .fmax f => some (coreFmax f)
  | .fabs f => some (coreFabs f)
  | .fneg f => some (coreFneg f)
  | .fdiv f => some (coreFdiv f)
  | .fsqrt f => some (coreFsqrt f)
  | .frcp f => some (coreFrcp f)
  | .frsq f => some (coreFrsq f)
  | .fexp2 f => some (coreFexp2 f)
  | .flog2 f => some (coreFlog2 f)
  | .fsin f => some (coreFsin f)
  | .fcos f => some (coreFcos f)
  | .fseteq f => some (coreFseteq f)
  | .fsetlt f => some (coreFsetlt f)
  | .fsetle f => some (coreFsetle f)
  | .fsetun f => some (coreFsetun f)
  | .fclass f => some (coreFclass f)
  | .frint f => some (coreFrint f)
  | .ffloor f => some (coreFfloor f)
  | .fceil f => some (coreFceil f)
  | .ftrunc f => some (coreFtrunc f)
  | .ferradd f => some (coreFerradd f)
  | .ferrmul f => some (coreFerrmul f)
  | .dadd f => some (coreDadd f)
  | .dsub f => some (coreDsub f)
  | .dmul f => some (coreDmul f)
  | .dfma f => some (coreDfma f)
  | .dmin f => some (coreDmin f)
  | .dmax f => some (coreDmax f)
  | .ddiv f => some (coreDdiv f)
  | .dsqrt f => some (coreDsqrt f)
  | .dsetlt f => some (coreDsetlt f)
  | .dseteq f => some (coreDseteq f)
  | .dsetle f => some (coreDsetle f)
  | .dabs f => some (coreDabs f)
  | .cvt f => some (coreCvt f)
  | .icvtf f => some (coreIcvtf f)
  | .ucvtf f => some (coreUcvtf f)
  | .fcvti f => some (coreFcvti f)
  | .fcvtn f => some (coreFcvtn f)
  | .dcvtf f => some (coreDcvtf f)
  | .fcvtd f => some (coreFcvtd f)
  | .packh f => some (corePackh f)
  | .packb f => some (corePackb f)
  | .unpkh f => some (coreUnpkh f)
  | .unpkb f => some (coreUnpkb f)
  | .bfpdec f => some (coreBfpdec f)
  | .hfma2 f => some (coreHfma2 f)
  | .bfma2 f => some (coreBfma2 f)
  | .hadd2 f => some (coreHadd2 f)
  | .hmul2 f => some (coreHmul2 f)
  | .kMov f => some (coreKMov f)
  | .kIadd f => some (coreKIadd f)
  | .kIsub f => some (coreKIsub f)
  | .kAnd f => some (coreKAnd f)
  | .kOr f => some (coreKOr f)
  | .kXor f => some (coreKXor f)
  | .kShli f => some (coreKShli f)
  | .kShri f => some (coreKShri f)
  | .kIaddi f => some (coreKIaddi f)
  | .kFadd f => some (coreKFadd f)
  | .kFsub f => some (coreKFsub f)
  | .kFmul f => some (coreKFmul f)
  | .kFmax f => some (coreKFmax f)
  | .kFmin f => some (coreKFmin f)
  | .kLdw f => some (coreKLdw f)
  | .kNop => some (coreKNop)
  | .ldbs f => some (coreLdbs f)
  | .ldbz f => some (coreLdbz f)
  | .ldhs f => some (coreLdhs f)
  | .ldhz f => some (coreLdhz f)
  | .ldw f => some (coreLdw f)
  | .ldd f => some (coreLdd f)
  | .ldq f => some (coreLdq f)
  | .ldf f => some (coreLdf f)
  | .stb f => some (coreStb f)
  | .sth f => some (coreSth f)
  | .stw f => some (coreStw f)
  | .std f => some (coreStd f)
  | .stq f => some (coreStq f)
  | .stf f => some (coreStf f)
  | .aadd f => some (coreAadd f)
  | .aaddf f => some (coreAaddf f)
  | .aaddd f => some (coreAaddd f)
  | .amin f => some (coreAmin f)
  | .amax f => some (coreAmax f)
  | .aumin f => some (coreAumin f)
  | .aumax f => some (coreAumax f)
  | .aand f => some (coreAand f)
  | .aor f => some (coreAor f)
  | .axor f => some (coreAxor f)
  | .axchg f => some (coreAxchg f)
  | .acas f => some (coreAcas f)
  | .aincw f => some (coreAincw f)
  | .aaddn f => some (coreAaddn f)
  | .aaddfn f => some (coreAaddfn f)
  | _ => none

/-- What a lane's word comes to: a reason code of R236, or an instruction. -/
def xirWord (c : Crew) (s : State) (w : Word) : Except Nat (Instr × Core) :=
  if w.getLsbD 0 == false && w.toNat ≥ 65536 then .error 2
  else
    let op := (w >>> 2).setWidth 8
    let sentinel := w.getLsbD 0 && isTOp op && 0 < sentinels w
    match decodeWord w 0 with
    | .error .unassignedOpcode => .error 1
    | .error _ => if w.getLsbD 0 && !(xirOp op) then .error 1 else if sentinel then .error 3 else .error 4
    | .ok f =>
      match xirCore f.instr with
      | none => .error 1
      | some o => if sentinel then .error 3 else if illegalFor f.instr o c s then .error 4 else .ok (f.instr, o)
where
  /-- An OP of R235. -/
  xirOp (op : BitVec 8) : Bool :=
    let n := op.toNat
    n ≤ 0x1E || (0x20 ≤ n && n ≤ 0x25) || (0x2C ≤ n && n ≤ 0x2F) || (0x40 ≤ n && n ≤ 0x53) || (0x58 ≤ n && n ≤ 0x5E) || (0x60 ≤ n && n ≤ 0x76) ||
    (0x78 ≤ n && n ≤ 0x7C) || (0x80 ≤ n && n ≤ 0x8D) || (0xA0 ≤ n && n ≤ 0xAE)

/-- A lane's word with bit 1 cleared (R234). -/
def xirLane (c : Crew) (f : TF) (L : Nat) : Word := vget c f.s1.toNat L &&& 0xFFFFFFFD

/-- The groups of equal words, by ascending lowest lane (R234). -/
def xirGroups (c : Crew) (f : TF) (m : Mask) : List (Word × Mask) :=
  (lanes m).foldl (fun acc L =>
    let w := xirLane c f L
    if acc.any (fun g => g.1 == w) then acc.map (fun g => if g.1 == w then (w, g.2 ||| bit L) else g) else acc ++ [(w, bit L)]) []

/-- The wait at issue of a word, as if issued alone (R239). -/
def xirHold (x : Ctx) (s : State) (o : Core) (g : Mask) : Option WaitKind :=
  if o.counts && atLimit x.c then some .memory
  else if o.cbank && x.c.ldcBusy.any (fun b => b.1 == x.c.cbank.toNat) then some .memory
  else o.hold { x with m := g } s

/-- How far an XIR has come: the state, lanes whose words completed, lanes with illegal words, cycles, and a precise trap that ended it. -/
structure XirRun where
  s : State
  done : Mask := 0
  bad : Mask := 0
  cyc : Nat := 0
  trap : Option TrapReq := none

/-- The crew with the results that were outstanding when its XIR issued, for the HAZARD check of its words (R238). -/
def atXirIssue (c : Crew) : Crew := match c.xir with | some st => { c with pend := st.pend } | none => c

/-- Issue the word of one group (R234, R238, R241). -/
def xirStep (x : Ctx) (r : XirRun) (g : Word × Mask) : XirRun :=
  if r.trap.isSome then r
  else
    match xirWord x.c r.s g.1 with
    | .error _ => { r with bad := r.bad ||| g.2 }
    | .ok (_, o) =>
      let y := { x with m := g.2 }
      match (if hazardOn x.c then hazardOf (atXirIssue x.c) x.id o.uses else none) with
      | some v => { r with trap := some { trapAt y 0x04 v with pcm := r.done } }
      | none =>
        match o.run y r.s with
        | .trap s t => { r with s := s, cyc := r.cyc + o.cyc, trap := some { t with pcm := r.done ||| t.pcm } }
        | .done s => { r with s := s, cyc := r.cyc + o.cyc, done := r.done ||| g.2 }
        | .goto s _ => { r with s := s, cyc := r.cyc + o.cyc, done := r.done ||| g.2 }
        | .ended s => { r with s := s, cyc := r.cyc + o.cyc, done := r.done ||| g.2 }
        | .formed s => { r with s := s, cyc := r.cyc + o.cyc, done := r.done ||| g.2 }
        | .moved s => { r with s := s, cyc := r.cyc + o.cyc, done := r.done ||| g.2 }
        | .part s _ => { r with s := s, cyc := r.cyc + o.cyc, done := r.done ||| g.2 }
        | .wait _ => r

/-- Another crew of the issue slot of crew `k` that has not issued for 64 cycles at clock `t`, and so may issue between two words if it is ready (R239, R403). -/
def mateWaits (s : State) (k t : Nat) : Bool :=
  let g := (crewAt s k).gcrew
  s.crews.any (fun p => p.1 != k && !p.2.saved && isleOf p.2.gcrew == isleOf g && slotOf p.2.gcrew == slotOf g && p.2.readySince + 64 ≤ t)

/-- Issue words in their order, up to a precise trap or to a place where another crew may have its turn; answers the groups that are left (R234, R239, R241). After 64 cycles a crew that has
come to the slot meanwhile may be due, so the words go on in another part. A replay issues whole. -/
def xirWords (x : Ctx) : List (Word × Mask) → XirRun → XirRun × List (Word × Mask)
  | [], r => (r, [])
  | g :: gs, r =>
    if r.trap.isSome then (r, [])
    else
      let n := (if lowWater r.s then 2 else 1) * r.cyc
      if !x.again && r.cyc != 0 && (64 ≤ n || mateWaits r.s x.k (r.s.clock + n)) then (r, g :: gs) else xirWords x gs (xirStep x r g)

/-- The held faults of the XIR become one; at the basic level those of missing pages stay apart (R241, R216). `perf` are the lanes of the words that completed, which the PCM of the page
records names but for the lanes that faulted (R257). -/
def xirMerge (c : Crew) (x : Ctx) (perf : Mask) : Crew :=
  let page := fun (h : HeldFault) => !(expertOf c 0) && h.cause == 0x10
  let mine := c.held.filter (fun h => h.seq == x.id)
  let one := fun (ran : Mask) (hs : List HeldFault) =>
    match least (fun h => 64 * causeRank h.cause + heldLane h) hs with
    | none => []
    | some h =>
      let ret := c.pend.any (fun p => p.id == x.id) || hs.any (fun h => h.returning)
      [{ h with tmask := mine.foldl (fun m h => m ||| h.tmask) 0, pcm := ran &&& ~~~(lanesMask (mine.flatMap (fun h => h.lanes))), returning := ret
                due := h.due && !ret, lanes := hs.flatMap (fun h => h.lanes) }]
  { c with held := c.held.filter (fun h => h.seq != x.id) ++ one perf (mine.filter page) ++ one x.m (mine.filter (fun h => !(page h))) }

/-- The lanes of `m` that stay LIVE resume after the XIR in the frontier that the trap saves (R240, R241). -/
def xirMove (c : Crew) (m : Mask) (nx : BitVec 56) : Crew :=
  reform { c with fr := (lanes m).foldl (fun fr L => frSet fr L { frGet fr L with resume := nx }) c.fr }

/-- Where the words of an XIR start: the groups to issue, and what came before them. -/
def xirStart (x : Ctx) (f : TF) (s : State) : List (Word × Mask) × XirRun :=
  match x.c.xir with
  | some st => (st.rest, { s := updCrew s x.k (fun c => { c with xir := none }), done := st.done, bad := st.bad })
  | none => (xirGroups x.c f x.m, { s := s })

/-- XIRWORD, once every legal word has issued (R240). -/
def xirWordTrap (x : Ctx) (f : TF) (s : State) (bad : Mask) : TrapReq :=
  let w := vget x.c f.s1.toNat (lowest bad)
  let why := match xirWord x.c s (w &&& 0xFFFFFFFD) with | .error n => n | .ok _ => 0
  { trapAt x 0x03 (join w (BitVec.ofNat 32 why)) with tmask := bad, pcm := x.m &&& ~~~bad, xirf := bad }

/-- The BRANCH of an XIR that gave its slot to another crew between two words belongs to the cycle in which the XIR issued, `since`: its DT, and a SYNC that is due before it, name that cycle
(R239, R424). DESIGN CHOICE (log entry 51): it is written once the last word has issued, since it shows the frontier after that word. -/
def xirBranch (s : State) (x : Ctx) (since : Nat) : State := { traceFlow { s with clock := since } x.k x.nx x.m with clock := s.clock }

/-- XIR (R234): issues each distinct word once under its group. It holds its slot for its words' cycles, and for one at least; between two words another crew may have its turn (R239). -/
def coreXir (f : TF) : Core := 
  { uses := [useV f.s1 1 false]
    cyc := 0
    hold := fun x s => (xirGroups x.c f x.m).findSome? (fun g =>
      match xirWord x.c s g.1 with
      | .ok (i, o) => if acqHold s x.k && acqStops i then some .memory else xirHold x s o g.2
      | .error _ => none)
    run := fun x s =>
      let st := xirStart x f s
      let q := xirWords x st.1 st.2
      let r := q.1
      if !q.2.isEmpty then
        .part (updCrew r.s x.k (fun c =>
          let since := match x.c.xir with | some st => st.since | none => s.clock
          { c with xir := some { f := f, m := s.ir.m, rest := q.2, done := r.done, bad := r.bad, gap := true, pend := (atXirIssue x.c).pend, since := since } })) r.cyc
      else
        let s := holdSlot (updCrew r.s x.k (fun c => xirMerge c x (r.done ||| (match r.trap with | some t => t.pcm | none => 0)))) x.k (if x.c.xir.isSome then r.cyc else max 1 r.cyc)
        match r.trap with
        | some t => .trap (updCrew s x.k (fun c => xirMove c t.pcm x.nx)) t
        | none =>
          if r.bad == 0 then
            match x.c.xir with
            | some st => .moved (xirBranch (updCrew s x.k (fun c => sendLanes c x.m (fun _ => x.nx))) x st.since)
            | none => .done s
          else .trap (updCrew s x.k (fun c => xirMove c (x.m &&& ~~~r.bad) x.nx)) (xirWordTrap x f s r.bad) }
/-- XIR. -/
def execXir (f : TF) (s : State) : Host.Outcome State Fault Refusal := issue (.xir f) (coreXir f) s

end Sys2Proof.Machine
end

