-- ==== Sys2Proof/Machine/Replay.lean ====
section
/-! DEFINITION. The replay of an instruction (R251, R252, R258), RETT, the delivery of held faults (R248), and the answers to fault records (R252, R253). -/

namespace Sys2Proof.Machine

/-- The instruction that a word stands for, as `Core`; RETT, which replays others, is apart. -/
def coreOf (i : Instr) (aux : BitVec 22) : Option Core :=
  match i with
  | .iadd f => some (coreIadd f)
  | .isub f => some (coreIsub f)
  | .imul f => some (coreImul f)
  | .imulh f => some (coreImulh f)
  | .umulh f => some (coreUmulh f)
  | .imad f => some (coreImad f)
  | .imin f => some (coreImin f)
  | .imax f => some (coreImax f)
  | .umin f => some (coreUmin f)
  | .umax f => some (coreUmax f)
  | .iabs f => some (coreIabs f)
  | .idiv f => some (coreIdiv f)
  | .udiv f => some (coreUdiv f)
  | .irem f => some (coreIrem f)
  | .urem f => some (coreUrem f)
  | .iadds f => some (coreIadds f)
  | .and f => some (coreAnd f)
  | .or f => some (coreOr f)
  | .xor f => some (coreXor f)
  | .andn f => some (coreAndn f)
  | .shl f => some (coreShl f)
  | .shr f => some (coreShr f)
  | .sar f => some (coreSar f)
  | .rotl f => some (coreRotl f)
  | .popc f => some (corePopc f)
  | .clz f => some (coreClz f)
  | .brev f => some (coreBrev f)
  | .bfx f => some (coreBfx f)
  | .bfi f => some (coreBfi f)
  | .sel f => some (coreSel f)
  | .mov f => some (coreMov f)
  | .movs f => some (coreMovs f)
  | .iseteq f => some (coreIseteq f)
  | .isetne f => some (coreIsetne f)
  | .isetlt f => some (coreIsetlt f)
  | .isetle f => some (coreIsetle f)
  | .usetlt f => some (coreUsetlt f)
  | .usetle f => some (coreUsetle f)
  | .mskeq f => some (coreMskeq f)
  | .mskne f => some (coreMskne f)
  | .msklt f => some (coreMsklt f)
  | .mskle f => some (coreMskle f)
  | .umsklt f => some (coreUmsklt f)
  | .ballot f => some (coreBallot f)
  | .iadd64 f => some (coreIadd64 f)
  | .isub64 f => some (coreIsub64 f)
  | .imul64 f => some (coreImul64 f)
  | .lea f => some (coreLea f)
  | .shfl f => some (coreShfl f)
  | .shflx f => some (coreShflx f)
  | .bcast f => some (coreBcast f)
  | .redadd f => some (coreRedadd f)
  | .redmin f => some (coreRedmin f)
  | .redmax f => some (coreRedmax f)
  | .argmin f => some (coreArgmin f)
  | .argmax f => some (coreArgmax f)
  | .scanadd f => some (coreScanadd f)
  | .confl f => some (coreConfl f)
  | .ksumf f => some (coreKsumf f)
  | .ksum f => some (coreKsum f)
  | .ldi f => some (coreLdi f)
  | .ldih f => some (coreLdih f)
  | .rdsr f => some (coreRdsr f)
  | .wrsr f => some (coreWrsr f)
  | .fadd f => some (coreFadd f)
  | .fsub f => some (coreFsub f)
  | .fmul f => some (coreFmul f)
  | .fma f => some (coreFma f)
  | .fmin f => some (coreFmin f)
  | .fmax f => some (coreFmax f)
  | .fabs f => some (coreFabs f)
  | .fneg f => some (coreFneg f)
  | .fdiv f => some (coreFdiv f)
  | .fsqrt f => some (coreFsqrt f)
  | .frcp f => some (coreFrcp f)
  | .frsq f => some (coreFrsq f)
  | .fexp2 f => some (coreFexp2 f)
  | .flog2 f => some (coreFlog2 f)
  | .fsin f => some (coreFsin f)
  | .fcos f => some (coreFcos f)
  | .fseteq f => some (coreFseteq f)
  | .fsetlt f => some (coreFsetlt f)
  | .fsetle f => some (coreFsetle f)
  | .fsetun f => some (coreFsetun f)
  | .fmskeq f => some (coreFmskeq f)
  | .fmsklt f => some (coreFmsklt f)
  | .fmskle f => some (coreFmskle f)
  | .fmskun f => some (coreFmskun f)
  | .fclass f => some (coreFclass f)
  | .frint f => some (coreFrint f)
  | .ffloor f => some (coreFfloor f)
  | .fceil f => some (coreFceil f)
  | .ftrunc f => some (coreFtrunc f)
  | .ferradd f => some (coreFerradd f)
  | .ferrmul f => some (coreFerrmul f)
  | .fredx f => some (coreFredx f)
  | .dadd f => some (coreDadd f)
  | .dsub f => some (coreDsub f)
  | .dmul f => some (coreDmul f)
  | .dfma f => some (coreDfma f)
  | .dmin f => some (coreDmin f)
  | .dmax f => some (coreDmax f)
  | .ddiv f => some (coreDdiv f)
  | .dsqrt f => some (coreDsqrt f)
  | .dsetlt f => some (coreDsetlt f)
  | .dseteq f => some (coreDseteq f)
  | .dsetle f => some (coreDsetle f)
  | .dabs f => some (coreDabs f)
  | .cvt f => some (coreCvt f)
  | .icvtf f => some (coreIcvtf f)
  | .ucvtf f => some (coreUcvtf f)
  | .fcvti f => some (coreFcvti f)
  | .fcvtn f => some (coreFcvtn f)
  | .dcvtf f => some (coreDcvtf f)
  | .fcvtd f => some (coreFcvtd f)
  | .packh f => some (corePackh f)
  | .packb f => some (corePackb f)
  | .unpkh f => some (coreUnpkh f)
  | .unpkb f => some (coreUnpkb f)
  | .bfpenc f => some (coreBfpenc f)
  | .bfpdec f => some (coreBfpdec f)
  | .hfma2 f => some (coreHfma2 f)
  | .bfma2 f => some (coreBfma2 f)
  | .hadd2 f => some (coreHadd2 f)
  | .hmul2 f => some (coreHmul2 f)
  | .kMov f => some (coreKMov f)
  | .kIadd f => some (coreKIadd f)
  | .kIsub f => some (coreKIsub f)
  | .kAnd f => some (coreKAnd f)
  | .kOr f => some (coreKOr f)
  | .kXor f => some (coreKXor f)
  | .kShli f => some (coreKShli f)
  | .kShri f => some (coreKShri f)
  | .kIaddi f => some (coreKIaddi f)
  | .kFadd f => some (coreKFadd f)
  | .kFsub f => some (coreKFsub f)
  | .kFmul f => some (coreKFmul f)
  | .kFmax f => some (coreKFmax f)
  | .kFmin f => some (coreKFmin f)
  | .kLdw f => some (coreKLdw f)
  | .ldbs f => some (coreLdbs f)
  | .ldbz f => some (coreLdbz f)
  | .ldhs f => some (coreLdhs f)
  | .ldhz f => some (coreLdhz f)
  | .ldw f => some (coreLdw f)
  | .ldd f => some (coreLdd f)
  | .ldq f => some (coreLdq f)
  | .ldf f => some (coreLdf f)
  | .stb f => some (coreStb f)
  | .sth f => some (coreSth f)
  | .stw f => some (coreStw f)
  | .std f => some (coreStd f)
  | .stq f => some (coreStq f)
  | .stf f => some (coreStf f)
  | .ldg f => some (coreLdg f)
  | .stg f => some (coreStg f)
  | .ldgf f => some (coreLdgf f)
  | .tlook f => some (coreTlook f)
  | .tset f => some (coreTset f)
  | .tdrop f => some (coreTdrop f)
  | .ldc f => some (coreLdc f)
  | .aadd f => some (coreAadd f)
  | .aaddf f => some (coreAaddf f)
  | .aaddd f => some (coreAaddd f)
  | .amin f => some (coreAmin f)
  | .amax f => some (coreAmax f)
  | .aumin f => some (coreAumin f)
  | .aumax f => some (coreAumax f)
  | .aand f => some (coreAand f)
  | .aor f => some (coreAor f)
  | .axor f => some (coreAxor f)
  | .axchg f => some (coreAxchg f)
  | .acas f => some (coreAcas f)
  | .aincw f => some (coreAincw f)
  | .aaddn f => some (coreAaddn f)
  | .aaddfn f => some (coreAaddfn f)
  | .bra f => some (coreBra f)
  | .brz f => some (coreBrz f)
  | .bru f => some (coreBru f)
  | .brs f => some (coreBrs f)
  | .brx f => some (coreBrx f)
  | .call f => some (coreCall f)
  | .ret f => some (coreRet f)
  | .bar f => some (coreBar f)
  | .bara f => some (coreBara f)
  | .barw f => some (coreBarw f)
  | .barc f => some (coreBarc f)
  | .bari f => some (coreBari f)
  | .sleep f => some (coreSleep f)
  | .sleepClk f => some (coreSleepClk f)
  | .sleepCount f => some (coreSleepCount f)
  | .mma f => some (coreMma f)
  | .mmasp f => some (coreMmasp f)
  | .mzero f => some (coreMzero f)
  | .mlda f => some (coreMlda f)
  | .mwaitc f => some (coreMwaitc f)
  | .mwaitd f => some (coreMwaitd f)
  | .cpy f => some (coreCpy f)
  | .cpyk f => some (coreCpyk f)
  | .cpyt f => some (coreCpyt f)
  | .permit f => some (corePermit f)
  | .permitRel f => some (corePermitRel f)
  | .cpyc f => some (coreCpyc f)
  | .cpycPull f => some (coreCpycPull f)
  | .cpywt f => some (coreCpywt f)
  | .evpost f => some (coreEvpost f)
  | .evpostN f => some (coreEvpostN f)
  | .evcan f => some (coreEvcan f)
  | .evkey f => some (coreEvkey f)
  | .evkeySelf f => some (coreEvkeySelf f)
  | .rsto f => some (coreRsto f)
  | .rload f => some (coreRload f)
  | .ratomAdd f => some (coreRatomAdd f)
  | .ratomAdd64 f => some (coreRatomAdd64 f)
  | .ratomAddf f => some (coreRatomAddf f)
  | .ratomAddd f => some (coreRatomAddd f)
  | .ratomMin f => some (coreRatomMin f)
  | .ratomMax f => some (coreRatomMax f)
  | .ratomUmin f => some (coreRatomUmin f)
  | .ratomUmax f => some (coreRatomUmax f)
  | .ratomAnd f => some (coreRatomAnd f)
  | .ratomOr f => some (coreRatomOr f)
  | .ratomXor f => some (coreRatomXor f)
  | .ratomXchg f => some (coreRatomXchg f)
  | .ratomCas f => some (coreRatomCas f)
  | .ratomIncw f => some (coreRatomIncw f)
  | .rflag f => some (coreRflag f)
  | .rflagAdd f => some (coreRflagAdd f)
  | .rdrainS f => some (coreRdrainS f)
  | .ropen f => some (coreRopen f)
  | .coll f => some (coreColl f)
  | .collDef f => some (coreCollDef f)
  | .collUndef f => some (coreCollUndef f)
  | .rclose f => some (coreRclose f)
  | .qsend f => some (coreQsend f)
  | .qrecv f => some (coreQrecv f)
  | .qtryRecv f => some (coreQtryRecv f)
  | .qtrySend f => some (coreQtrySend f)
  | .tmark f => some (coreTmark f)
  | .pmark f => some (corePmark f)
  | .watchset f => some (coreWatchset f)
  | .trap f => some (coreTrap f)
  | .xir f => some (coreXir f)
  | .svc f => some (coreSvc f)
  | .kNop => some coreKNop
  | .pfetch => some (corePfetch aux)
  | .fence => some (coreFence aux)
  | .tinv => some coreTinv
  | .tokw => some coreTokw
  | .tokp => some coreTokp
  | .exit => some coreExit
  | .yield => some coreYield
  | .evend => some coreEvend
  | .rdrain => some coreRdrain
  | .brk => some coreBrk
  | .nop => some coreNop
  | .ill => some coreIll
  | .ctxsw => some coreCtxsw
  | .ctxswHalt => some coreCtxswHalt
  | _ => none

/-! ## Replays -/

/-- A replayed instruction's context: the lanes replayed are its `exm`. -/
def replayCtx (s : State) (k : Nat) (a : BitVec 56) (n : Nat) (m : Mask) : Ctx :=
  let c := (viewOf s.free (crewAt s k)).1
  { k := k, c := { c with exm := m, pc := a }, m := m, pc := a, nx := a + BitVec.ofNat 56 n, id := c.seq, again := true }

/-- The mask of a replay's precise trap. DESIGN CHOICE (log entry 34): in an XIR it names every lane replayed, so that those of the words not yet issued are replayed again (R241). -/
def replayMask (i : Option Instr) (x : Ctx) (r : TrapReq) : Mask :=
  match i with
  | some (.xir _) => if r.cause == 0x03 then r.tmask else x.m
  | _ => r.tmask

/-- What a replay finds precisely is held, since the frontier has moved on (R251). It stays apart from what the same replay found imprecisely: of an XIR's words each has its own lanes to run
again (R241, R242), and of one instruction's lanes only missing pages are held beside it (R216). -/
def holdReplay (s : State) (x : Ctx) (i : Option Instr) (r : TrapReq) : State :=
  let c := crewAt s x.k
  holdNew s x.k
    { addr := x.pc, next := x.nx, cause := r.cause, tva := r.tva, tmask := replayMask i x r, pcm := r.pcm, seq := x.id, depth := c.tdepth.toNat, returning := true
      due := c.pend.isEmpty, stamps := r.stamps, xirf := r.xirf }

/-- The crew's frontier, which a replay leaves as it was (R251). -/
def keepFrontier (old : Crew) (s : State) (k : Nat) : State := updCrew s k (fun c => { c with fr := old.fr, pc := old.pc, exm := old.exm })

/-- What keeps a replay from issuing (R248, R353). -/
def replayHold (s : State) (k : Nat) (a : BitVec 56) (m : Mask) : Option WaitKind :=
  let c := crewAt s k
  match (fetchAt s c a).2 with
  | .good f =>
    match coreOf f.instr f.aux with
    | some o => blockedBy f.instr o (replayCtx s k a f.len m) c s
    | none => none
  | _ => none

/-- After a replay: it is numbered, and the crew waits as a marker does. -/
def replaySettle (s : State) (k cyc : Nat) : State := holdSlot (updCrew s k (fun c => drained { c with seq := c.seq + 1, markerWait := true })) k cyc

/-- The lanes of a replay that performed: those that no fault or park of it names. -/
def replayed (c : Crew) (x : Ctx) : Mask :=
  let bad := (c.held.filter (fun h => h.seq == x.id && h.addr == x.pc)).foldl (fun m h => m ||| (h.tmask &&& ~~~h.pcm)) 0
  let away := match c.park with | some p => p.replay | none => 0
  x.m &&& ~~~bad &&& ~~~away

/-- Issue the instruction at `a` once for the lanes `m`: the frontier stays, but for lanes that it ends. A RETT among them, which only a changed `tpc` can name, returns once
more; `fuel` bounds the depth. Answers the lanes that performed. -/
def replayAt : Nat → State → Nat → BitVec 56 → Mask → State × Mask
  | 0, s, _, _, _ => (s, 0)
  | fuel + 1, s, k, a, m =>
    let c := crewAt s k
    match fetchAt s c a with
    | (s, .fault cause at_) =>
      let x := replayCtx s k a 0 m
      if cause == 0x10 && !(expertOf c 0) then
        (parkPgnp s k [(at_ / 65536, at_, m)] 2
          { left := 1, cause := 0x10, tva := BitVec.ofNat 64 at_, tmask := m, pcm := 0, impr := true, precise := false, addr := a, next := a, seq := x.id, stamps := x.c.stamp }, 0)
      else (replaySettle (holdReplay s x none (trapAt x cause (BitVec.ofNat 64 at_))) k 1, 0)
    | (s, .bad bs) =>
      let x := replayCtx s k a bs.length m
      (replaySettle (holdReplay s x none (trapAt x 0x01 (join (leWord bs) (leWord (bs.drop 4))))) k 1, 0)
    | (s, .good f) =>
      let x := replayCtx s k a f.len m
      let stop := fun (cause : Byte) (tva : Dword) => (replaySettle (holdReplay s x none (trapAt x cause tva)) k 1, (0 : Mask))
      let back := fun (skip : Bool) =>
        if c.tdepth == 0 then stop 0x02 0
        else
          let b := bankOf c
          let again := rettReplay b (if c.tdepth == 1 then c.sh1 else c.sh2) skip
          let s := replaySettle (doRett s k skip m) k 1
          (if again == 0 then s else (replayAt fuel s k (BitVec.ofInt 56 (c.text.toInt + b.tpc.toInt)) again).1, m)
      match f.instr with
      | .rett => back false
      | .rettSkip => back true
      | i =>
        match coreOf i f.aux with
        | none => (s, 0)
        | some o =>
          if illegalFor i o c s then stop 0x01 (illWord i { m := f.m, aux := f.aux, ext := f.ext })
          else if (o.priv && c.tdepth == 0) || o.privIf c s then stop 0x02 0
          else
            match (if hazardOn c then hazardOf c x.id o.uses else none) with
            | some v => stop 0x04 v
            | none =>
              let s := { s with free := s.free + (viewOf s.free c).2, ir := { m := f.m, aux := f.aux, ext := f.ext } }
              let t := match o.run x s with
                | .done s => s
                | .goto s _ => s
                | .formed s => s
                | .moved s => s
                | .ended s => lateFaults (handlerEnd (updCrew s k (fun c => endLanes c m)) k m) k
                | .trap s r => holdReplay (keepFrontier c s k) x (some i) r
                | .part s _ => s
                | .wait _ => s
              (replaySettle t k o.cyc, replayed (crewAt t k) x)

/-! ## RETT (R251) -/

/-- The lanes and the instruction that a RETT of the crew replays. -/
def rettAgain (c : Crew) (skip : Bool) : Mask × BitVec 56 :=
  let b := bankOf c
  (rettReplay b (if c.tdepth == 1 then c.sh1 else c.sh2) skip, BitVec.ofInt 56 (c.text.toInt + b.tpc.toInt))

/-- After a RETT has replayed lanes `again` of the instruction of bank `b`, another held fault of that instruction names them no more: they have performed, or have faulted anew (R252). One that
names no lane any longer is gone; a precise one has left its lanes at the instruction, and they go on after it. -/
def clearReplayed (b : TrapBank) (again : Mask) (c : Crew) : Crew :=
  let mine := fun (h : HeldFault) => h.seq == b.seq && h.addr == b.pcAt && h.depth == c.tdepth.toNat
  let spent := fun (h : HeldFault) => mine h && (h.tmask &&& ~~~h.pcm &&& ~~~again) == 0
  let past := (c.held.filter (fun h => spent h && h.precise)).foldl (fun m h => m ||| (h.tmask &&& ~~~(lanesIn c.fr .ended))) 0
  let c := { c with held := (c.held.filter (fun h => !(spent h))).map (fun h => if mine h then { h with pcm := h.pcm ||| (again &&& h.tmask) } else h) }
  if past == 0 then c else sendLanes c past (fun _ => b.pcNext)

/-- RETT: the saved frontier comes back, and an imprecise fault's unfinished lanes are replayed. -/
def rettCore (skip : Bool) : Core :=
  { priv := true
    hold := fun x s => let r := rettAgain x.c skip; if r.1 == 0 then none else replayHold s x.k r.2 r.1
    run := fun x s =>
      let r := rettAgain x.c skip
      let ir := s.ir
      let s := doRett s x.k skip x.m
      let b := bankOf x.c
      .moved (if r.1 == 0 then s else
        let s := { (replayAt 3 s x.k r.2 r.1).1 with ir := ir }
        if r.2 == b.pcAt then updCrew s x.k (clearReplayed b r.1) else s) }
/-- RETT with re-execution. -/
def coreRett : Core := rettCore false
/-- RETT with skip. -/
def coreRettSkip : Core := rettCore true
/-- RETT. -/
def execRett (s : State) : Host.Outcome State Fault Refusal := issue .rett coreRett s
/-- RETT_SKIP. -/
def execRettSkip (s : State) : Host.Outcome State Fault Refusal := issue .rettSkip coreRettSkip s

/-! ## Delivery of held faults (R248, R252) -/

/-- The held fault that is delivered before the crew's next issue: the least key of its depth, with what parks the crew first among the faults of one instruction (R252), or pages that a
waiting trap's instruction misses. None is delivered between the words of an XIR (R239). -/
def deliverNow (c : Crew) : Option HeldFault :=
  if !(mayTrap c) || c.xir.isSome then none
  else
    match c.trapReq with
    | some r => if c.pend.isEmpty then (pagesFirst c r).filter (fun h => h.due) else none
    | none => least (fun h => 2 * heldKey h + (if parksOn c h then 0 else 1)) (c.held.filter (fun h => h.due && h.depth == c.tdepth.toNat))

/-- The trap that a held fault becomes. -/
def heldTrap (h : HeldFault) : TrapReq :=
  { cause := h.cause, tva := h.tva, tmask := h.tmask, pcm := h.pcm, xirf := h.xirf, impr := !h.precise, pcAt := h.addr, pcNext := h.next, stamps := h.stamps, seq := h.seq }

/-- The park of a held fault's lanes. -/
def heldPark (h : HeldFault) : Park :=
  { left := 1, cause := h.cause, tva := h.tva, tmask := h.tmask, pcm := h.pcm, impr := true, precise := false, addr := h.addr, next := h.next
    replay := lanesMask h.lanes, seq := h.seq, stamps := h.stamps }

/-- The pages that a held fault's lanes miss. -/
def heldPages (h : HeldFault) : List (Nat × Nat × Mask) :=
  if h.lanes.isEmpty then [(h.tva.toNat / 65536, h.tva.toNat, h.tmask &&& ~~~h.pcm)] else faultPages h.lanes

/-- Deliver a held fault. -/
def deliver (s : State) (k : Nat) (h : HeldFault) : State :=
  let c := crewAt s k
  let s := updCrew s k (fun c => { c with held := c.held.erase h })
  if !(parksOn c h) then takeTrap s k (heldTrap h)
  else if h.cause == 0x10 then parkPgnp s k (heldPages h) (if h.wr then 1 else 0) (heldPark h)
  else
    let t := match least (fun p => p.1) h.lanes with | some p => p.2 | none => 0
    evcapRecord (updCrew s k (fun c => { c with park := some (heldPark h) })) c h.addr h.tva.toNat t (lanesMask h.lanes) h.pcm h.stamps (.crew k)

/-- FAULT_DELIVERY (R248): before the next issue of crew `arg.crew`, a held fault is delivered. -/
def execFaultDelivery (s : State) : Host.Outcome State Fault Refusal :=
  match mfind s.crews s.arg.crew with
  | none => .next s
  | some c =>
    match deliverNow c with
    | some h => .next (deliver s s.arg.crew h)
    | none => .next s

/-! ## Answers to fault records (R252, R253) -/

/-- An answered record takes effect on its owner. -/
def applyAnswer (s : State) (a : Nat × FRec × RecOwner) : State :=
  let r := a.2.1
  let no := a.1 == 3
  match a.2.2 with
  | .nobody => s
  | .page _ => s -- the page is retired: the record is open no more, and with that its page may be mapped (R27, `retiring`)
  | .crew k =>
    if r.typ == 0x60 then s
    else updCrew s k (fun c => { c with park := c.park.map (fun (p : Park) => { p with left := p.left - 1, refused := p.refused || no }) })
  | .copy i =>
    let pg := r.addr.toNat / 65536
    match copyAt s i with
    | some o => putCopy s { o with parked := o.parked.filter (fun p => p != pg), refused := if no then o.refused ++ [pg] else o.refused }
    | none => s
  | .cmd q n => answerCmd s q n (!no)
  | .coll n seq =>
    if no then collFound s n seq 4
    else advance (updOp s n seq (fun (o : CollOp) => { o with parked := o.parked.filter (fun p => p != r.addr.toNat / 65536) })) n
  | .comm n => if no then s else resetComm s n

/-- Written records whose STATE is no longer POSTED. -/
def answeredRecs (s : State) : List (Nat × FRec × RecOwner) :=
  (s.faultq.open_.map (fun p => (rdN s (recAddr s.faultq p.1 + 60) 4, p.2.1, p.2.2))).filter (fun p => p.1 != 1)

/-- Acquire every answer, let each take effect, and write what waited for a slot. -/
def acquireAnswers (s : State) : State :=
  let q := s.faultq
  let as := q.got ++ answeredRecs s
  let s := { s with faultq := { q with got := [], open_ := q.open_.filter (fun p => rdN s (recAddr q p.1 + 60) 4 == 1) } }
  let s := as.foldl applyAnswer s
  flushRecs (s.faultq.waiting.length + 2) s

/-- Answers, or records that wait for a slot that is free now. -/
def answersDue (s : State) : Bool :=
  !s.faultq.got.isEmpty || !(answeredRecs s).isEmpty || ((!s.faultq.waiting.isEmpty || s.faultq.dropped != 0) && slotFree s)

/-- The park of a crew has ended, and what it goes on with may issue (R252). -/
def parkOver (s : State) (k : Nat) (c : Crew) : Option Park :=
  match c.park with
  | none => none
  | some p =>
    if c.halt != .running || c.saved || c.ctxHalt || c.saving.isSome || !(p.left == 0 || p.refused) then none
    else if p.refused || p.precise || (replayHold s k p.addr p.replay).isNone then some p else none

/-- The lanes that a replay finished are done in the other fault of their instruction. -/
def creditLanes (p : Park) (m : Mask) (c : Crew) : Crew :=
  match c.trapReq with
  | some r => if !r.impr && r.pcAt == p.addr && r.seq == p.seq then { c with trapReq := some { r with pcm := r.pcm ||| m } } else c
  | none => { c with held := c.held.map (fun h => if h.seq == p.seq && h.addr == p.addr then { h with pcm := h.pcm ||| m } else h) }

/-- The other cause of the instruction whose missing pages were refused: it is delivered after their trap. A precise one waits among the held faults (R216, R252). -/
def afterRefusal (p : Park) (c : Crew) : Crew :=
  let c := holdTrap c
  { c with held := c.held.map (fun h => if h.seq == p.seq && h.addr == p.addr then { h with due := true } else h) }

/-- The lanes of a parked instruction that another cause of it names: they did not perform either (R215). -/
def otherLanes (p : Park) (c : Crew) : Mask :=
  ((holdTrap c).held.filter (fun h => h.seq == p.seq && h.addr == p.addr)).foldl (fun m h => m ||| (h.tmask &&& ~~~h.pcm)) 0

/-- A crew goes on after its park: the fault is delivered when a page was refused, else the lanes are replayed, or the instruction is issued again. After a refused EVCAP, another cause of
the same EVPOST stands for all its lanes (R320). -/
def endPark (s : State) (k : Nat) (p : Park) : State :=
  let s := updCrew s k (fun c => { c with park := none })
  if p.refused then
    let s := disown s k
    let other := otherLanes p (crewAt s k)
    if p.cause == 0x21 && other != 0 then updCrew s k (fun c => { c with held := c.held.map (fun h => if h.seq == p.seq && h.addr == p.addr then { h with due := true } else h) })
    else
      let pcm := if p.precise then p.pcm else p.tmask &&& ~~~p.replay &&& ~~~other
      takeTrap (updCrew s k (afterRefusal p)) k
        { cause := p.cause, tva := p.tva, tmask := p.tmask, pcm := pcm, impr := p.impr, pcAt := p.addr, pcNext := p.next, stamps := p.stamps, seq := p.seq }
  else if p.precise then s
  else
    let ir := s.ir
    let r := replayAt 3 s k p.addr p.replay
    { updCrew r.1 k (creditLanes p r.2) with ir := ir }

/-- FAULT_RECORD_ANSWER (R252, R253): answers are acquired and take effect on the owners of their records; with `arg.b` 1, crew `arg.crew` leaves its park. -/
def execFaultRecordAnswer (s : State) : Host.Outcome State Fault Refusal :=
  if s.arg.b == 1 then
    match mfind s.crews s.arg.crew with
    | none => .next s
    | some c =>
      match parkOver s s.arg.crew c with
      | some p => .next (endPark s s.arg.crew p)
      | none => .next s
  else .next (acquireAnswers s)

end Sys2Proof.Machine
end

