-- ==== Sys2Proof/Machine/Dispatch.lean ====
section
/-! DEFINITION. The meaning of every instruction and engine step: one arm per constructor. -/

namespace Sys2Proof.Machine

/-- Run one instruction or engine step. -/
def exec (i : Instr) (s : State) : Host.Outcome State Fault Refusal :=
  match i with
  | .iadd f => Sys2Proof.Machine.execIadd f s
  | .isub f => Sys2Proof.Machine.execIsub f s
  | .imul f => Sys2Proof.Machine.execImul f s
  | .imulh f => Sys2Proof.Machine.execImulh f s
  | .umulh f => Sys2Proof.Machine.execUmulh f s
  | .imad f => Sys2Proof.Machine.execImad f s
  | .imin f => Sys2Proof.Machine.execImin f s
  | .imax f => Sys2Proof.Machine.execImax f s
  | .umin f => Sys2Proof.Machine.execUmin f s
  | .umax f => Sys2Proof.Machine.execUmax f s
  | .iabs f => Sys2Proof.Machine.execIabs f s
  | .idiv f => Sys2Proof.Machine.execIdiv f s
  | .udiv f => Sys2Proof.Machine.execUdiv f s
  | .irem f => Sys2Proof.Machine.execIrem f s
  | .urem f => Sys2Proof.Machine.execUrem f s
  | .iadds f => Sys2Proof.Machine.execIadds f s
  | .and f => Sys2Proof.Machine.execAnd f s
  | .or f => Sys2Proof.Machine.execOr f s
  | .xor f => Sys2Proof.Machine.execXor f s
  | .andn f => Sys2Proof.Machine.execAndn f s
  | .shl f => Sys2Proof.Machine.execShl f s
  | .shr f => Sys2Proof.Machine.execShr f s
  | .sar f => Sys2Proof.Machine.execSar f s
  | .rotl f => Sys2Proof.Machine.execRotl f s
  | .popc f => Sys2Proof.Machine.execPopc f s
  | .clz f => Sys2Proof.Machine.execClz f s
  | .brev f => Sys2Proof.Machine.execBrev f s
  | .bfx f => Sys2Proof.Machine.execBfx f s
  | .bfi f => Sys2Proof.Machine.execBfi f s
  | .sel f => Sys2Proof.Machine.execSel f s
  | .mov f => Sys2Proof.Machine.execMov f s
  | .movs f => Sys2Proof.Machine.execMovs f s
  | .iseteq f => Sys2Proof.Machine.execIseteq f s
  | .isetne f => Sys2Proof.Machine.execIsetne f s
  | .isetlt f => Sys2Proof.Machine.execIsetlt f s
  | .isetle f => Sys2Proof.Machine.execIsetle f s
  | .usetlt f => Sys2Proof.Machine.execUsetlt f s
  | .usetle f => Sys2Proof.Machine.execUsetle f s
  | .mskeq f => Sys2Proof.Machine.execMskeq f s
  | .mskne f => Sys2Proof.Machine.execMskne f s
  | .msklt f => Sys2Proof.Machine.execMsklt f s
  | .mskle f => Sys2Proof.Machine.execMskle f s
  | .umsklt f => Sys2Proof.Machine.execUmsklt f s
  | .ballot f => Sys2Proof.Machine.execBallot f s
  | .iadd64 f => Sys2Proof.Machine.execIadd64 f s
  | .isub64 f => Sys2Proof.Machine.execIsub64 f s
  | .imul64 f => Sys2Proof.Machine.execImul64 f s
  | .lea f => Sys2Proof.Machine.execLea f s
  | .shfl f => Sys2Proof.Machine.execShfl f s
  | .shflx f => Sys2Proof.Machine.execShflx f s
  | .bcast f => Sys2Proof.Machine.execBcast f s
  | .redadd f => Sys2Proof.Machine.execRedadd f s
  | .redmin f => Sys2Proof.Machine.execRedmin f s
  | .redmax f => Sys2Proof.Machine.execRedmax f s
  | .argmin f => Sys2Proof.Machine.execArgmin f s
  | .argmax f => Sys2Proof.Machine.execArgmax f s
  | .scanadd f => Sys2Proof.Machine.execScanadd f s
  | .confl f => Sys2Proof.Machine.execConfl f s
  | .ksumf f => Sys2Proof.Machine.execKsumf f s
  | .ksum f => Sys2Proof.Machine.execKsum f s
  | .ldi f => Sys2Proof.Machine.execLdi f s
  | .ldih f => Sys2Proof.Machine.execLdih f s
  | .rdsr f => Sys2Proof.Machine.execRdsr f s
  | .wrsr f => Sys2Proof.Machine.execWrsr f s
  | .fadd f => Sys2Proof.Machine.execFadd f s
  | .fsub f => Sys2Proof.Machine.execFsub f s
  | .fmul f => Sys2Proof.Machine.execFmul f s
  | .fma f => Sys2Proof.Machine.execFma f s
  | .fmin f => Sys2Proof.Machine.execFmin f s
  | .fmax f => Sys2Proof.Machine.execFmax f s
  | .fabs f => Sys2Proof.Machine.execFabs f s
  | .fneg f => Sys2Proof.Machine.execFneg f s
  | .fdiv f => Sys2Proof.Machine.execFdiv f s
  | .fsqrt f => Sys2Proof.Machine.execFsqrt f s
  | .frcp f => Sys2Proof.Machine.execFrcp f s
  | .frsq f => Sys2Proof.Machine.execFrsq f s
  | .fexp2 f => Sys2Proof.Machine.execFexp2 f s
  | .flog2 f => Sys2Proof.Machine.execFlog2 f s
  | .fsin f => Sys2Proof.Machine.execFsin f s
  | .fcos f => Sys2Proof.Machine.execFcos f s
  | .fseteq f => Sys2Proof.Machine.execFseteq f s
  | .fsetlt f => Sys2Proof.Machine.execFsetlt f s
  | .fsetle f => Sys2Proof.Machine.execFsetle f s
  | .fsetun f => Sys2Proof.Machine.execFsetun f s
  | .fmskeq f => Sys2Proof.Machine.execFmskeq f s
  | .fmsklt f => Sys2Proof.Machine.execFmsklt f s
  | .fmskle f => Sys2Proof.Machine.execFmskle f s
  | .fmskun f => Sys2Proof.Machine.execFmskun f s
  | .fclass f => Sys2Proof.Machine.execFclass f s
  | .frint f => Sys2Proof.Machine.execFrint f s
  | .ffloor f => Sys2Proof.Machine.execFfloor f s
  | .fceil f => Sys2Proof.Machine.execFceil f s
  | .ftrunc f => Sys2Proof.Machine.execFtrunc f s
  | .ferradd f => Sys2Proof.Machine.execFerradd f s
  | .ferrmul f => Sys2Proof.Machine.execFerrmul f s
  | .fredx f => Sys2Proof.Machine.execFredx f s
  | .dadd f => Sys2Proof.Machine.execDadd f s
  | .dsub f => Sys2Proof.Machine.execDsub f s
  | .dmul f => Sys2Proof.Machine.execDmul f s
  | .dfma f => Sys2Proof.Machine.execDfma f s
  | .dmin f => Sys2Proof.Machine.execDmin f s
  | .dmax f => Sys2Proof.Machine.execDmax f s
  | .ddiv f => Sys2Proof.Machine.execDdiv f s
  | .dsqrt f => Sys2Proof.Machine.execDsqrt f s
  | .dsetlt f => Sys2Proof.Machine.execDsetlt f s
  | .dseteq f => Sys2Proof.Machine.execDseteq f s
  | .dsetle f => Sys2Proof.Machine.execDsetle f s
  | .dabs f => Sys2Proof.Machine.execDabs f s
  | .cvt f => Sys2Proof.Machine.execCvt f s
  | .icvtf f => Sys2Proof.Machine.execIcvtf f s
  | .ucvtf f => Sys2Proof.Machine.execUcvtf f s
  | .fcvti f => Sys2Proof.Machine.execFcvti f s
  | .fcvtn f => Sys2Proof.Machine.execFcvtn f s
  | .dcvtf f => Sys2Proof.Machine.execDcvtf f s
  | .fcvtd f => Sys2Proof.Machine.execFcvtd f s
  | .packh f => Sys2Proof.Machine.execPackh f s
  | .packb f => Sys2Proof.Machine.execPackb f s
  | .unpkh f => Sys2Proof.Machine.execUnpkh f s
  | .unpkb f => Sys2Proof.Machine.execUnpkb f s
  | .bfpenc f => Sys2Proof.Machine.execBfpenc f s
  | .bfpdec f => Sys2Proof.Machine.execBfpdec f s
  | .hfma2 f => Sys2Proof.Machine.execHfma2 f s
  | .bfma2 f => Sys2Proof.Machine.execBfma2 f s
  | .hadd2 f => Sys2Proof.Machine.execHadd2 f s
  | .hmul2 f => Sys2Proof.Machine.execHmul2 f s
  | .kMov f => Sys2Proof.Machine.execKMov f s
  | .kIadd f => Sys2Proof.Machine.execKIadd f s
  | .kIsub f => Sys2Proof.Machine.execKIsub f s
  | .kAnd f => Sys2Proof.Machine.execKAnd f s
  | .kOr f => Sys2Proof.Machine.execKOr f s
  | .kXor f => Sys2Proof.Machine.execKXor f s
  | .kShli f => Sys2Proof.Machine.execKShli f s
  | .kShri f => Sys2Proof.Machine.execKShri f s
  | .kIaddi f => Sys2Proof.Machine.execKIaddi f s
  | .kFadd f => Sys2Proof.Machine.execKFadd f s
  | .kFsub f => Sys2Proof.Machine.execKFsub f s
  | .kFmul f => Sys2Proof.Machine.execKFmul f s
  | .kFmax f => Sys2Proof.Machine.execKFmax f s
  | .kFmin f => Sys2Proof.Machine.execKFmin f s
  | .kLdw f => Sys2Proof.Machine.execKLdw f s
  | .ldbs f => Sys2Proof.Machine.execLdbs f s
  | .ldbz f => Sys2Proof.Machine.execLdbz f s
  | .ldhs f => Sys2Proof.Machine.execLdhs f s
  | .ldhz f => Sys2Proof.Machine.execLdhz f s
  | .ldw f => Sys2Proof.Machine.execLdw f s
  | .ldd f => Sys2Proof.Machine.execLdd f s
  | .ldq f => Sys2Proof.Machine.execLdq f s
  | .ldf f => Sys2Proof.Machine.execLdf f s
  | .stb f => Sys2Proof.Machine.execStb f s
  | .sth f => Sys2Proof.Machine.execSth f s
  | .stw f => Sys2Proof.Machine.execStw f s
  | .std f => Sys2Proof.Machine.execStd f s
  | .stq f => Sys2Proof.Machine.execStq f s
  | .stf f => Sys2Proof.Machine.execStf f s
  | .ldg f => Sys2Proof.Machine.execLdg f s
  | .stg f => Sys2Proof.Machine.execStg f s
  | .ldgf f => Sys2Proof.Machine.execLdgf f s
  | .tlook f => Sys2Proof.Machine.execTlook f s
  | .tset f => Sys2Proof.Machine.execTset f s
  | .tdrop f => Sys2Proof.Machine.execTdrop f s
  | .ldc f => Sys2Proof.Machine.execLdc f s
  | .aadd f => Sys2Proof.Machine.execAadd f s
  | .aaddf f => Sys2Proof.Machine.execAaddf f s
  | .aaddd f => Sys2Proof.Machine.execAaddd f s
  | .amin f => Sys2Proof.Machine.execAmin f s
  | .amax f => Sys2Proof.Machine.execAmax f s
  | .aumin f => Sys2Proof.Machine.execAumin f s
  | .aumax f => Sys2Proof.Machine.execAumax f s
  | .aand f => Sys2Proof.Machine.execAand f s
  | .aor f => Sys2Proof.Machine.execAor f s
  | .axor f => Sys2Proof.Machine.execAxor f s
  | .axchg f => Sys2Proof.Machine.execAxchg f s
  | .acas f => Sys2Proof.Machine.execAcas f s
  | .aincw f => Sys2Proof.Machine.execAincw f s
  | .aaddn f => Sys2Proof.Machine.execAaddn f s
  | .aaddfn f => Sys2Proof.Machine.execAaddfn f s
  | .bra f => Sys2Proof.Machine.execBra f s
  | .brz f => Sys2Proof.Machine.execBrz f s
  | .bru f => Sys2Proof.Machine.execBru f s
  | .brs f => Sys2Proof.Machine.execBrs f s
  | .brx f => Sys2Proof.Machine.execBrx f s
  | .call f => Sys2Proof.Machine.execCall f s
  | .ret f => Sys2Proof.Machine.execRet f s
  | .bar f => Sys2Proof.Machine.execBar f s
  | .bara f => Sys2Proof.Machine.execBara f s
  | .barw f => Sys2Proof.Machine.execBarw f s
  | .barc f => Sys2Proof.Machine.execBarc f s
  | .bari f => Sys2Proof.Machine.execBari f s
  | .sleep f => Sys2Proof.Machine.execSleep f s
  | .sleepClk f => Sys2Proof.Machine.execSleepClk f s
  | .sleepCount f => Sys2Proof.Machine.execSleepCount f s
  | .mma f => Sys2Proof.Machine.execMma f s
  | .mmasp f => Sys2Proof.Machine.execMmasp f s
  | .mzero f => Sys2Proof.Machine.execMzero f s
  | .mlda f => Sys2Proof.Machine.execMlda f s
  | .mwaitc f => Sys2Proof.Machine.execMwaitc f s
  | .mwaitd f => Sys2Proof.Machine.execMwaitd f s
  | .cpy f => Sys2Proof.Machine.execCpy f s
  | .cpyk f => Sys2Proof.Machine.execCpyk f s
  | .cpyt f => Sys2Proof.Machine.execCpyt f s
  | .permit f => Sys2Proof.Machine.execPermit f s
  | .permitRel f => Sys2Proof.Machine.execPermitRel f s
  | .cpyc f => Sys2Proof.Machine.execCpyc f s
  | .cpycPull f => Sys2Proof.Machine.execCpycPull f s
  | .cpywt f => Sys2Proof.Machine.execCpywt f s
  | .evpost f => Sys2Proof.Machine.execEvpost f s
  | .evpostN f => Sys2Proof.Machine.execEvpostN f s
  | .evcan f => Sys2Proof.Machine.execEvcan f s
  | .evkey f => Sys2Proof.Machine.execEvkey f s
  | .evkeySelf f => Sys2Proof.Machine.execEvkeySelf f s
  | .rsto f => Sys2Proof.Machine.execRsto f s
  | .rload f => Sys2Proof.Machine.execRload f s
  | .ratomAdd f => Sys2Proof.Machine.execRatomAdd f s
  | .ratomAdd64 f => Sys2Proof.Machine.execRatomAdd64 f s
  | .ratomAddf f => Sys2Proof.Machine.execRatomAddf f s
  | .ratomAddd f => Sys2Proof.Machine.execRatomAddd f s
  | .ratomMin f => Sys2Proof.Machine.execRatomMin f s
  | .ratomMax f => Sys2Proof.Machine.execRatomMax f s
  | .ratomUmin f => Sys2Proof.Machine.execRatomUmin f s
  | .ratomUmax f => Sys2Proof.Machine.execRatomUmax f s
  | .ratomAnd f => Sys2Proof.Machine.execRatomAnd f s
  | .ratomOr f => Sys2Proof.Machine.execRatomOr f s
  | .ratomXor f => Sys2Proof.Machine.execRatomXor f s
  | .ratomXchg f => Sys2Proof.Machine.execRatomXchg f s
  | .ratomCas f => Sys2Proof.Machine.execRatomCas f s
  | .ratomIncw f => Sys2Proof.Machine.execRatomIncw f s
  | .rflag f => Sys2Proof.Machine.execRflag f s
  | .rflagAdd f => Sys2Proof.Machine.execRflagAdd f s
  | .rdrainS f => Sys2Proof.Machine.execRdrainS f s
  | .ropen f => Sys2Proof.Machine.execRopen f s
  | .coll f => Sys2Proof.Machine.execColl f s
  | .collDef f => Sys2Proof.Machine.execCollDef f s
  | .collUndef f => Sys2Proof.Machine.execCollUndef f s
  | .rclose f => Sys2Proof.Machine.execRclose f s
  | .qsend f => Sys2Proof.Machine.execQsend f s
  | .qrecv f => Sys2Proof.Machine.execQrecv f s
  | .qtryRecv f => Sys2Proof.Machine.execQtryRecv f s
  | .qtrySend f => Sys2Proof.Machine.execQtrySend f s
  | .tmark f => Sys2Proof.Machine.execTmark f s
  | .pmark f => Sys2Proof.Machine.execPmark f s
  | .watchset f => Sys2Proof.Machine.execWatchset f s
  | .trap f => Sys2Proof.Machine.execTrap f s
  | .xir f => Sys2Proof.Machine.execXir f s
  | .svc f => Sys2Proof.Machine.execSvc f s
  | .exmWrite => Sys2Proof.Machine.execExmWrite s
  | .clockReadLatch => Sys2Proof.Machine.execClockReadLatch s
  | .kNop => Sys2Proof.Machine.execKNop s
  | .pfetch => Sys2Proof.Machine.execPfetch s
  | .fence => Sys2Proof.Machine.execFence s
  | .tinv => Sys2Proof.Machine.execTinv s
  | .tokw => Sys2Proof.Machine.execTokw s
  | .tokp => Sys2Proof.Machine.execTokp s
  | .ldcBankLoaded => Sys2Proof.Machine.execLdcBankLoaded s
  | .exit => Sys2Proof.Machine.execExit s
  | .yield => Sys2Proof.Machine.execYield s
  | .yieldExpiry => Sys2Proof.Machine.execYieldExpiry s
  | .sleepWake => Sys2Proof.Machine.execSleepWake s
  | .matrixGroupExecute => Sys2Proof.Machine.execMatrixGroupExecute s
  | .matrixTileUpdate => Sys2Proof.Machine.execMatrixTileUpdate s
  | .cpyComplete => Sys2Proof.Machine.execCpyComplete s
  | .cpykDescriptorEnd => Sys2Proof.Machine.execCpykDescriptorEnd s
  | .cpytLand => Sys2Proof.Machine.execCpytLand s
  | .cpycAccept => Sys2Proof.Machine.execCpycAccept s
  | .cpycTransferEnd => Sys2Proof.Machine.execCpycTransferEnd s
  | .evend => Sys2Proof.Machine.execEvend s
  | .rdrain => Sys2Proof.Machine.execRdrain s
  | .drainComplete => Sys2Proof.Machine.execDrainComplete s
  | .brk => Sys2Proof.Machine.execBrk s
  | .nop => Sys2Proof.Machine.execNop s
  | .rett => Sys2Proof.Machine.execRett s
  | .rettSkip => Sys2Proof.Machine.execRettSkip s
  | .ill => Sys2Proof.Machine.execIll s
  | .ctxsw => Sys2Proof.Machine.execCtxsw s
  | .ctxswHalt => Sys2Proof.Machine.execCtxswHalt s
  | .registerResultReturn => Sys2Proof.Machine.execRegisterResultReturn s
  | .faultDelivery => Sys2Proof.Machine.execFaultDelivery s
  | .trapEntry => Sys2Proof.Machine.execTrapEntry s
  | .faultRecordAnswer => Sys2Proof.Machine.execFaultRecordAnswer s
  | .firmwareRecordFree => Sys2Proof.Machine.execFirmwareRecordFree s
  | .firmwarePageMap => Sys2Proof.Machine.execFirmwarePageMap s
  | .crewRetire => Sys2Proof.Machine.execCrewRetire s
  | .launchComplete => Sys2Proof.Machine.execLaunchComplete s
  | .unitDispatch => Sys2Proof.Machine.execUnitDispatch s
  | .placementWaitExpiry => Sys2Proof.Machine.execPlacementWaitExpiry s
  | .preempt => Sys2Proof.Machine.execPreempt s
  | .saveDrainExpiry => Sys2Proof.Machine.execSaveDrainExpiry s
  | .cohortRestore => Sys2Proof.Machine.execCohortRestore s
  | .issueAgeExpiry => Sys2Proof.Machine.execIssueAgeExpiry s
  | .breakpointStop => Sys2Proof.Machine.execBreakpointStop s
  | .launch => Sys2Proof.Machine.execLaunch s
  | .timeline => Sys2Proof.Machine.execTimeline s
  | .post => Sys2Proof.Machine.execPost s
  | .postStoreDelayed => Sys2Proof.Machine.execPostStoreDelayed s
  | .waitflag => Sys2Proof.Machine.execWaitflag s
  | .waitflagPoll => Sys2Proof.Machine.execWaitflagPoll s
  | .signal => Sys2Proof.Machine.execSignal s
  | .copy => Sys2Proof.Machine.execCopy s
  | .partitionSet => Sys2Proof.Machine.execPartitionSet s
  | .partitionResize => Sys2Proof.Machine.execPartitionResize s
  | .partitionFerry => Sys2Proof.Machine.execPartitionFerry s
  | .partitionQueue => Sys2Proof.Machine.execPartitionQueue s
  | .partitionClear => Sys2Proof.Machine.execPartitionClear s
  | .partitionInval => Sys2Proof.Machine.execPartitionInval s
  | .partitionAttest => Sys2Proof.Machine.execPartitionAttest s
  | .checkpoint => Sys2Proof.Machine.execCheckpoint s
  | .checkpointRestore => Sys2Proof.Machine.execCheckpointRestore s
  | .spanStart => Sys2Proof.Machine.execSpanStart s
  | .roundEnd => Sys2Proof.Machine.execRoundEnd s
  | .wcLineAgeDrain => Sys2Proof.Machine.execWcLineAgeDrain s
  | .writePacket => Sys2Proof.Machine.execWritePacket s
  | .flagPacket => Sys2Proof.Machine.execFlagPacket s
  | .closePacket => Sys2Proof.Machine.execClosePacket s
  | .loadPacket => Sys2Proof.Machine.execLoadPacket s
  | .atomicPacket => Sys2Proof.Machine.execAtomicPacket s
  | .evpostPacket => Sys2Proof.Machine.execEvpostPacket s
  | .evcanPacket => Sys2Proof.Machine.execEvcanPacket s
  | .loadrep => Sys2Proof.Machine.execLoadrep s
  | .atomrep => Sys2Proof.Machine.execAtomrep s
  | .evrep => Sys2Proof.Machine.execEvrep s
  | .openrep => Sys2Proof.Machine.execOpenrep s
  | .canrep => Sys2Proof.Machine.execCanrep s
  | .queryrep => Sys2Proof.Machine.execQueryrep s
  | .openPacket => Sys2Proof.Machine.execOpenPacket s
  | .lossPacket => Sys2Proof.Machine.execLossPacket s
  | .resync => Sys2Proof.Machine.execResync s
  | .query => Sys2Proof.Machine.execQuery s
  | .route => Sys2Proof.Machine.execRoute s
  | .flagTimeout => Sys2Proof.Machine.execFlagTimeout s
  | .firmwareFlagRecovery => Sys2Proof.Machine.execFirmwareFlagRecovery s
  | .remoteReplyTimeout => Sys2Proof.Machine.execRemoteReplyTimeout s
  | .combiningWindowClose => Sys2Proof.Machine.execCombiningWindowClose s
  | .flitReceive => Sys2Proof.Machine.execFlitReceive s
  | .nakReceive => Sys2Proof.Machine.execNakReceive s
  | .creditRefresh => Sys2Proof.Machine.execCreditRefresh s
  | .linkLaneRepair => Sys2Proof.Machine.execLinkLaneRepair s
  | .linkRetrainTimeout => Sys2Proof.Machine.execLinkRetrainTimeout s
  | .flitResendLimit => Sys2Proof.Machine.execFlitResendLimit s
  | .collDefinePacket => Sys2Proof.Machine.execCollDefinePacket s
  | .collChunk => Sys2Proof.Machine.execCollChunk s
  | .collCredit => Sys2Proof.Machine.execCollCredit s
  | .collReport => Sys2Proof.Machine.execCollReport s
  | .collRelease => Sys2Proof.Machine.execCollRelease s
  | .collAbort => Sys2Proof.Machine.execCollAbort s
  | .collChunkSend => Sys2Proof.Machine.execCollChunkSend s
  | .collTimeout => Sys2Proof.Machine.execCollTimeout s
  | .collDefTimeout => Sys2Proof.Machine.execCollDefTimeout s
  | .firmwareCollReset => Sys2Proof.Machine.execFirmwareCollReset s
  | .collBreakTimeout => Sys2Proof.Machine.execCollBreakTimeout s
  | .ferryOverflowGrow => Sys2Proof.Machine.execFerryOverflowGrow s
  | .chancycleDetect => Sys2Proof.Machine.execChancycleDetect s
  | .bufferReq => Sys2Proof.Machine.execBufferReq s
  | .traceReq => Sys2Proof.Machine.execTraceReq s
  | .seriesReq => Sys2Proof.Machine.execSeriesReq s
  | .regionReq => Sys2Proof.Machine.execRegionReq s
  | .breakReq => Sys2Proof.Machine.execBreakReq s
  | .armbrkReq => Sys2Proof.Machine.execArmbrkReq s
  | .stopReq => Sys2Proof.Machine.execStopReq s
  | .stepReq => Sys2Proof.Machine.execStepReq s
  | .resumeReq => Sys2Proof.Machine.execResumeReq s
  | .dumpReq => Sys2Proof.Machine.execDumpReq s
  | .patchReq => Sys2Proof.Machine.execPatchReq s
  | .killReq => Sys2Proof.Machine.execKillReq s
  | .wakeReq => Sys2Proof.Machine.execWakeReq s
  | .counterTick => Sys2Proof.Machine.execCounterTick s
  | .tracePointerPublish => Sys2Proof.Machine.execTracePointerPublish s
  | .pageWalk => Sys2Proof.Machine.execPageWalk s
  | .mainPowerGood => Sys2Proof.Machine.execMainPowerGood s
  | .coldReset => Sys2Proof.Machine.execColdReset s
  | .stagedImageFlag => Sys2Proof.Machine.execStagedImageFlag s
  | .trainingComplete => Sys2Proof.Machine.execTrainingComplete s
  | .fullServiceChangeover => Sys2Proof.Machine.execFullServiceChangeover s
  | .powerCapThrottle => Sys2Proof.Machine.execPowerCapThrottle s
  | .thermalThrottle => Sys2Proof.Machine.execThermalThrottle s
  | .thermalTrip => Sys2Proof.Machine.execThermalTrip s
  | .standbyPowerLoss => Sys2Proof.Machine.execStandbyPowerLoss s
  | .sidebandPowerCap => Sys2Proof.Machine.execSidebandPowerCap s
  | .unassignedOpcode => Sys2Proof.Machine.execUnassignedOpcode s
  | .fetchFault => Sys2Proof.Machine.execFetchFault s
  | .copyByteCountdown => Sys2Proof.Machine.execCopyByteCountdown s
  | .countedAccessComplete => Sys2Proof.Machine.execCountedAccessComplete s
  | .queueEntryBadentry => Sys2Proof.Machine.execQueueEntryBadentry s
  | .ctxswCrewReturn => Sys2Proof.Machine.execCtxswCrewReturn s
  | .queueCopyComplete => Sys2Proof.Machine.execQueueCopyComplete s
  | .checkpointTransferEnd => Sys2Proof.Machine.execCheckpointTransferEnd s
  | .standbyPowerGood => Sys2Proof.Machine.execStandbyPowerGood s
  | .mainPowerLoss => Sys2Proof.Machine.execMainPowerLoss s

end Sys2Proof.Machine
end

