-- ==== Sys2Proof/Machine/Sched.lean ====
section
/-! DEFINITION. What the device does next: the head of the agenda, the engine work that is due, or the crew that issues (R40 to R42, R403, log entries 2 and 3). -/

namespace Sys2Proof.Machine

/-! ## Crews (R40, R41, R403) -/

/-- A held fault that may be delivered now (R248). -/
def deliverable (c : Crew) : Bool := c.held.any (fun h => h.due && h.depth == c.tdepth.toNat)

/-- Nothing but a wait keeps the crew from issuing (R40). Between the words of an XIR neither a save nor a held fault does (R239). -/
def upright (c : Crew) : Bool :=
  c.halt == .running && !c.saved && !c.ctxHalt && !c.markerWait && c.park.isNone && c.trapReq.isNone && c.exm != 0 && c.stepping != 2 &&
  (c.xir.isSome || c.stopNext.isNone) &&
  (c.xir.isSome || (c.saving.isNone && !(deliverable c)))

/-- The instruction that a word stands for, RETT among them. -/
def coreFor (i : Instr) (aux : BitVec 22) : Option Core :=
  match i with
  | .rett => some coreRett
  | .rettSkip => some coreRettSkip
  | i => coreOf i aux

/-- What keeps the next instruction of crew `k` at issue (R41). -/
def heldBy (s : State) (k : Nat) (c : Crew) : Option WaitKind :=
  match (fetchAt s c c.pc).2 with
  | .good f =>
    let s := { s with cur := k, ir := { m := f.m, aux := f.aux, ext := f.ext } }
    match coreFor f.instr f.aux with
    | some o => blockedBy f.instr o (ctxOf s c f.instr) c s
    | none => none
  | _ => none

/-- The crew is ready, but for a YIELD (R40, R41): one that waits at issue is ready once nothing keeps its instruction there (R42). -/
def readyNow (s : State) (k : Nat) (c : Crew) : Bool :=
  upright c && (match c.wait with
    | .none => true
    | .atIssue _ => (heldBy s k c).isNone
    | _ => false)

/-- Two crews of one issue slot (R36, R403). -/
def sameSlot (c d : Crew) : Bool := isleOf c.gcrew == isleOf d.gcrew && slotOf c.gcrew == slotOf d.gcrew

/-- Other ready crews of the crew's issue slot that have not issued since clock `t` (R169). DESIGN CHOICE (log entry 47): "every other ready crew" are those that were ready at the YIELD,
not those that become ready afterwards. -/
def slotBehind (s : State) (k t : Nat) (c : Crew) : Bool :=
  s.crews.any (fun p => p.1 != k && readyNow s p.1 p.2 && sameSlot p.2 c && p.2.readySince ≤ t)

/-- A crew after a YIELD may go on: every other ready crew of its slot has issued, or 64 cycles have passed (R169). -/
def yieldDone (s : State) (k : Nat) (c : Crew) : Bool :=
  match c.wait with
  | .yield t => upright c && (t + 64 ≤ s.clock || !(slotBehind s k t c))
  | _ => false

/-- The crew is ready (R40, R41, R169). -/
def ready (s : State) (k : Nat) (c : Crew) : Bool := readyNow s k c || yieldDone s k c

/-- An instruction holds the crew's issue slot (R182, R239), be it the last one of a crew that has left. -/
def slotHeld (s : State) (c : Crew) : Bool :=
  s.crews.any (fun p => !p.2.saved && sameSlot p.2 c && s.clock < p.2.readySince) || s.clock < mget 0 s.slotBusy (4 * isleOf c.gcrew + slotOf c.gcrew)

/-- Another crew's instruction has held the issue slot since an earlier cycle (R404, code 10); in the cycle in which it issues, the crews passed over were not selected (code 11). -/
def slotKept (s : State) (k : Nat) (c : Crew) : Bool :=
  s.crews.any (fun p => p.1 != k && !p.2.saved && sameSlot p.2 c && s.clock < p.2.readySince && p.2.issuedAt < s.clock)

/-- A throttle withholds this cycle from the issue slots and the matrix units (R448): which cycles, the spec leaves open (log entry 44). -/
def withheld (s : State) : Bool := (s.capThrottle || s.thermThrottle) && Config.withheld s.clock

/-- The crew may issue in this cycle. -/
def mayIssue (s : State) (k : Nat) (c : Crew) : Bool := ready s k c && !(slotHeld s c) && !(withheld s)

/-- Rank of a crew among ready crews: priority, acceptance, position (R403). -/
def rankKey (s : State) (p : Nat × Crew) : Nat :=
  let l := launchOf s p.2
  ((7 - l.prio) * 2 ^ 64 + l.accept) * 2 ^ 26 + p.2.lcid

/-- A crew has been ready for 64 cycles without issuing (R403). -/
def isAged (s : State) (c : Crew) : Bool := c.readySince + 64 ≤ s.clock

/-- Of the crews of a slot that may issue, the one that has been ready for 64 cycles or more and longest, the lowest RES among equals (R42, R403). -/
def agedCrew (s : State) (l : List (Nat × Crew)) : Option (Nat × Crew) :=
  least (fun (p : Nat × Crew) => p.2.readySince * 2 ^ 32 + p.2.gcrew.toNat) (l.filter (fun p => isAged s p.2))

/-- The crew that issues among those of one slot that may: the XIR under way, but for one instruction of an aged crew between two words (R239); an aged crew; or the crew of least rank
(R403). -/
def slotPick (s : State) (l : List (Nat × Crew)) : Option (Nat × Crew) :=
  match l.find? (fun p => p.2.xir.isSome) with
  | some p => if p.2.xir.any (fun x => x.gap) then (agedCrew s (l.filter (fun q => q.1 != p.1))).orElse (fun _ => some p) else some p
  | none => (agedCrew s l).orElse (fun _ => least (rankKey s) l)

/-- The crews that issue in this cycle and have not issued yet, one for each slot, in the order of `gcrew` (R403, R425). -/
def cyclePicks (s : State) : List (Nat × Crew) :=
  let l := s.crews.filter (fun p => mayIssue s p.1 p.2)
  sortBy (fun p => p.2.gcrew.toNat) (l.filter (fun p => (slotPick s (l.filter (fun q => sameSlot q.2 p.2))).any (fun q => q.1 == p.1)))

/-- Some crew is ready. -/
def crewReady (s : State) : Bool := s.crews.any (fun p => ready s p.1 p.2)

/-- The XIR under way in the slot of crew `c` has given its gap between two words to crew `k` (R239). -/
def takeGap (s : State) (k : Nat) (c : Crew) : State :=
  { s with crews := s.crews.map (fun p => if p.1 != k && sameSlot p.2 c then (p.1, { p.2 with xir := p.2.xir.map (fun x => { x with gap := false }) }) else p) }

/-- The next issue of crew `k`: the XIR under way, what stands at its PC, or the breakpoint that stops it there (R108, R134, R239, R417). -/
def issueNext (s : State) (k : Nat) : State × Option Instr :=
  match mfind s.crews k with
  | none => (s, none)
  | some c =>
    let ev := { s with arg := { crew := k } }
    match c.xir with
    | some x => ({ s with cur := k, ir := { m := x.m } }, some (.xir x.f))
    | none =>
      if (brkHit s c).isSome && c.stepping != 1 then (ev, some .breakpointStop)
      else
        match fetchAt s c c.pc with
        | (_, .fault _ _) => (ev, some .fetchFault)
        | (_, .bad _) => (ev, some .unassignedOpcode)
        | (s, .good f) => ({ takeGap s k c with cur := k, ir := { m := f.m, aux := f.aux, ext := f.ext } }, some f.instr)

/-! ## Stall reasons and the passing of a cycle (R404) -/

/-- The stall reason of what keeps an instruction at issue (R404). -/
def holdReason (w : WaitKind) : Nat :=
  match w with
  | .token => 4
  | .ferry => 5
  | .matrix => 6
  | .memory => 7
  | .copyLimit => 8
  | .copyEntries => 8
  | .copyStatus => 9
  | .issueConflict => 10

/-- The stall reasons of the wait that a crew stands in beside the marker wait (R404). -/
def waitReason (s : State) (k : Nat) (c : Crew) : List Nat :=
  match c.wait with
  | .none => []
  | .barrier _ _ conv => [if conv then 2 else 3]
  | .arrive _ conv _ => [if conv then 2 else 3]
  | .sleep _ => [3]
  | .drain => [7]
  | .yield _ => []
  | .atIssue _ => match heldBy s k c with | some w => [holdReason w] | none => []

/-- What keeps a crew from issuing for a trap or a pre-emption (R404, code 1). -/
def trapStalls (c : Crew) : Bool :=
  c.halt != .running || c.ctxHalt || c.park.isSome || c.trapReq.isSome || (c.xir.isNone && (c.saving.isSome || deliverable c))

/-- The stall reasons that apply to a resident crew which does not issue (R404). -/
def stallReasons (s : State) (k : Nat) (c : Crew) : List Nat :=
  (if trapStalls c then [1] else []) ++ waitReason s k c ++
  (if c.markerWait then [if c.pend.any (fun p => p.kind == .matrix) then 6 else 7] else []) ++ (if slotKept s k c then [10] else []) ++ [11]

/-- The stall reason of a crew in this cycle: the lowest code that applies; 0 in the cycles of an instruction of its own, none for a crew that is not resident (R404). -/
def stallReason (s : State) (k : Nat) (c : Crew) : Option Nat :=
  if c.saved then none else if s.clock < c.readySince then some 0 else least id (stallReasons s k c)

/-- A crew that waits at issue for something else than before stands in that wait from now on (R41). -/
def rehold (s : State) (k : Nat) (c : Crew) : Crew :=
  match c.wait with
  | .atIssue w =>
    match heldBy s k c with
    | some v => if v == w then c else { c with wait := .atIssue v, parkedAt := s.clock }
    | none => c
  | _ => c

/-- `n` cycles pass: the packets of the cycle are taken (R425), each resident crew's stall reason is counted on its isle (R404), and the age count of a crew that is not ready starts again
(R403). -/
def tick (s : State) (n : Nat) : State :=
  if n == 0 then s
  else
    let s := flushTrace s
    let s := { s with crews := s.crews.map (fun p => (p.1, rehold s p.1 p.2)) }
    let rs := s.crews.filterMap (fun p => (stallReason s p.1 p.2).map (fun r => 16 + 12 * isleOf p.2.gcrew + r)) ++
      (s.links.filter (fun l => creditless l.2)).map (fun l => 5267 + 4 * l.1)
    let s := latchCounts s rs n
    { s with
      clock := s.clock + n
      counts := countsIn s.counts rs n
      crews := s.crews.map (fun p => if ready s p.1 p.2 then p else (p.1, { p.2 with readySince := max p.2.readySince (s.clock + n) })) }

/-! ## Engine work that is due -/

/-- An engine step with its operands. -/
abbrev Work := Instr × EvArg

/-- The step that a packet of the fabric comes to (R333, R365). -/
def packetStep (k : Packet) : Option Instr :=
  match k.typ.toNat with
  | 0x01 => some .writePacket
  | 0x02 => some .flagPacket
  | 0x03 => some .closePacket
  | 0x04 => some .loadPacket
  | 0x05 => some .atomicPacket
  | 0x06 => some .evpostPacket
  | 0x07 => some .evcanPacket
  | 0x11 => some .loadrep
  | 0x12 => some .atomrep
  | 0x13 => some .evrep
  | 0x14 => some .openrep
  | 0x15 => some .canrep
  | 0x16 => some .queryrep
  | 0x21 => some .openPacket
  | 0x22 => some .lossPacket
  | 0x23 => some .resync
  | 0x24 => some .query
  | 0x25 => some .route
  | 0x30 => some .collDefinePacket
  | 0x31 => some .collChunk
  | 0x32 => some .collCredit
  | 0x33 => some .collReport
  | 0x34 => some .collRelease
  | 0x35 => some .collAbort
  | _ => none

/-- The packet that came in first; one of an unknown type is discarded and counted (R333). -/
def packetNext (s : State) : Option (State × Option Instr) :=
  match s.netIn with
  | [] => none
  | k :: r =>
    match packetStep k with
    | some i => some ({ s with netIn := r, arg := { pkt := k } }, some i)
    | none => some ({ s with netIn := r, discards := s.discards + 1 }, none)

/-- The wait of a crew has ended by the clock (R169, R170), or its drain has (R346). -/
def waitOver (s : State) (k : Nat) (c : Crew) : Option Work :=
  match c.wait with
  | .yield t => if t + 64 ≤ s.clock then some (.yieldExpiry, { crew := k }) else none
  | .sleep w => if w ≤ s.clock then some (.sleepWake, { crew := k }) else none
  | .drain => some (.drainComplete, { crew := k })
  | _ => none

/-- A result of the crew that returns, or a constant bank that is loaded. -/
def resultWork (k : Nat) (c : Crew) : Option Work :=
  if let some p := c.pend.find? (fun p => p.ready) then some (.registerResultReturn, { crew := k, a := p.id })
  else c.ldcBusy.head?.map (fun b => (.ldcBankLoaded, { crew := k, a := b.1 }))

/-- Work for one crew that comes before its next issue. -/
def crewWork (s : State) (k : Nat) (c : Crew) : Option Work :=
  if let some n := c.counted.find? (fun n => !(stillOut s k c n)) then some (.countedAccessComplete, { crew := k, a := n })
  else if saveDue s c then some (.saveDrainExpiry, { crew := k })
  else if (stopDue c).isSome then some (.stopReq, { crew := k, b := 1 })
  else if stepEnds c then some (.stepReq, { crew := k, b := 1 })
  else if (deliverNow c).isSome then some (.faultDelivery, { crew := k })
  else if (trapDue c).isSome then some (.trapEntry, { crew := k })
  else if (parkOver s k c).isSome then some (.faultRecordAnswer, { crew := k, b := 1 })
  else if mayRetire c then some (.crewRetire, { crew := k })
  else if mayReturn s k then some (.ctxswCrewReturn, { crew := k })
  else waitOver s k c

/-- Results of the crews, and the retirement of teams that waited for copies. -/
def resultsNext (s : State) : Option Work :=
  (s.crews.findSome? (fun p => resultWork p.1 p.2)).orElse fun _ =>
    ((s.teams.find? (fun p => teamRetires s p.1)).map (fun p => (Instr.crewRetire, { a := p.1, b := 1 }))).orElse fun _ =>
      match s.stepReq with
      | some (k, _) => if (stepAnswer s k).isSome then some (.stepReq, { crew := k, b := 1 }) else none
      | none => none

/-- Matrix work (R270, R272); a withheld cycle takes none (R448). -/
def matrixNext (s : State) : Option Work :=
  if withheld s then none
  else (s.matq.findSome? (fun o => (o.executed.find? (fun p => !(o.updated.contains p.1))).map (fun p => (Instr.matrixTileUpdate, { a := p.2 })))).orElse fun _ =>
    (s.matq.find? (fun o => !(matGroup s o.isle o.slot).isEmpty)).map (fun o => (Instr.matrixGroupExecute, { a := o.isle, b := o.slot }))

/-- Work of a copy (R288, R291, R292, R298). -/
def copyWork (s : State) (o : CopyOp) : Option Work :=
  if !o.parked.isEmpty || o.ended.isSome then none
  else
    match o.kind with
    | .cpy => some (.cpyComplete, { a := o.id })
    | .cpyk => if copyOver o then some (.cpykDescriptorEnd, { a := o.id }) else some (.copyByteCountdown, { a := o.id })
    | .cpyt => if ((chanQueue s o.isle o.chan).head?).any (fun h => h.id == o.id) then some (.cpytLand, { a := o.isle, b := o.chan }) else none
    | .cpyc =>
      if !o.accepted then some (.cpycAccept, { a := o.id })
      else if o.moved + copyPiece o < copyTotal o then some (.copyByteCountdown, { a := o.id }) else some (.cpycTransferEnd, { a := o.id })

/-- A slot at the source that the firmware recovers now (R349, R351). -/
def recoverDue (s : State) (k : Nat) (t : TxSlot) : Bool :=
  slotHw s t.hw && (t.st == .damaged || t.starved) && lossOver s t && !(s.reqs.any (fun r => r.kind == .query && txKey r.dst (BitVec.ofNat 16 r.addr) == k))

/-- Work of the strait engine (R336, R339, R344, R349, R355). -/
def straitNext (s : State) : Option Work :=
  if s.wcb.any (fun l => l.born + ageOf s l ≤ s.clock) then some (.wcLineAgeDrain, {})
  else if let some e := s.comb.find? (fun e => !e.closed && e.since + 64 ≤ s.clock) then some (.combiningWindowClose, { a := e.id })
  else if let some r := s.reqs.find? (fun r => r.since + us 1000 ≤ s.clock) then some (.remoteReplyTimeout, { a := r.tag })
  else if let some f := s.pflags.find? (fun f => f.pkt.typ == 2 && !f.starved && (mfind s.rxSlots f.slot).any (fun r => f.since + us r.timeout ≤ s.clock)) then
    some (.flagTimeout, { a := f.slot })
  else if let some t := s.txSlots.find? (fun t => recoverDue s t.1 t.2) then some (.firmwareFlagRecovery, { a := t.1 / 65536, b := t.1 % 65536 })
  else if let some l := s.links.find? (fun l => l.2.up && l.2.retraining && l.2.retrainAt + us 2 < s.clock) then some (.linkRetrainTimeout, { a := l.1 })
  else if let some l := s.links.find? (fun l => l.2.up && resentOut l.2) then some (.flitResendLimit, { a := l.1 })
  else if let some l := s.links.find? (fun l => repairReady s l.2) then some (.linkLaneRepair, { a := l.1 })
  else if let some p := (List.range 24).find? (fun p => portOn s p && refreshDue s (linkAt s p)) then some (.creditRefresh, { a := p })
  else none

/-- Timeouts of a communicator (R371, R375). -/
def commWork (s : State) (n : Nat) (c : Comm) : Option Work :=
  if let some o := c.ops.find? (fun o => o.born + us c.timeout ≤ s.clock) then
    (if c.st == .ready || c.st == .closing || c.st == .broken then some (.collTimeout, { a := n, b := o.seq }) else none)
  else if c.st == .defining && c.defWait.isSome && c.defBorn + us c.timeout ≤ s.clock then some (.collDefTimeout, { a := n })
  else if tideLate s c then some (.collTimeout, { a := n, b := 256 })
  else none

/-- Recovery of a communicator that failed (R372). -/
def breakWork (s : State) (n : Nat) : Option Work :=
  match firmwareResets s n with
  | some (b, _) => if breakLate s b then some (.collBreakTimeout, { a := n }) else if !b.sent then some (.firmwareCollReset, { a := n }) else none
  | none => none

/-- Work of the collective and ferry engines (R367, R381, R385). -/
def collNext (s : State) : Option Work :=
  if (chunkNext s).isSome then some (.collChunkSend, {})
  else if let some w := s.comms.findSome? (fun p => commWork s p.1 p.2) then some w
  else if let some w := s.breaks.findSome? (fun p => breakWork s p.1) then some w
  else if let some q := s.ferries.find? (fun q => growDue s q.1) then some (.ferryOverflowGrow, { a := q.1 })
  else if !s.ferries.isEmpty && ferryCycles s != s.cycleRec then some (.chancycleDetect, {})
  else none

/-- The step that takes a timeline on, when it can go on by itself: the end of its round, or a span start, 40 cycles after the last span's end (R313, R315). -/
def tideReady (s : State) (lid : Nat) (t : Timeline) : Bool := if t.open_ then roundOver s lid else spanWaits s lid t && t.endedAt + 40 ≤ s.clock

/-- A timeline starts a span or ends a round. In a group it first gives its value to the reduction, and goes on once it holds those of all members (R313, R315, R373). -/
def tideNext (s : State) : Option Work :=
  s.timelines.findSome? (fun p =>
    let t := p.2
    let c := commAt s (tideSlot s p.1)
    let due := if t.n ≤ 1 then tideReady s p.1 t
      else c.st == .ready && ((tideResult c (tideKey t)).isSome || (!(tideGave c (tideKey t)) && tideReady s p.1 t))
    if due && !(mget {} s.launches p.1).restored then some (if t.open_ then .roundEnd else .spanStart, { a := p.1 }) else none)

/-- A unit that can be placed now (R38, R399). -/
def unitWork (s : State) : Option Work :=
  (nextUnit s).map (fun r => (if r.1.back then .cohortRestore else if r.2.2.2 then .placementWaitExpiry else .unitDispatch, {}))

/-- Dispatch, restoration, pre-emption and the ends of launches (R98, R399, R402). -/
def placeNext (s : State) : Option Work :=
  if let some l := s.launches.find? (fun l => launchOver s l.1) then some (.launchComplete, { a := l.1 })
  else if let some w := unitWork s then some w
  else if (preemptNext s).isSome then some (.preempt, {})
  else none

/-- Answers to fault records, and the firmware's own answers (R253, R449). -/
def recordNext (s : State) : Option Work :=
  if answersDue s then some (.faultRecordAnswer, {})
  else if let some r := s.faultq.open_.find? (fun r => mapsRec s r.1 r.2.1 r.2.2) then some (.firmwarePageMap, { a := r.1 })
  else if let some r := s.faultq.open_.find? (fun r => freesRec s r.1 r.2.1 r.2.2) then some (.firmwareRecordFree, { a := r.1 })
  else none

/-- The step that a queue entry comes to (R390, R392). -/
def entryStep (bs : List Byte) : Instr :=
  match at_ bs 0 1 with
  | 1 => .launch
  | 2 => .timeline
  | 3 => .post
  | 4 => .waitflag
  | 5 => .signal
  | 6 => .copy
  | 7 =>
    match at_ bs 24 1 with
    | 0 => .partitionSet
    | 1 => .partitionResize
    | 2 => .partitionFerry
    | 3 => .partitionQueue
    | 4 => .partitionClear
    | 5 => .partitionInval
    | 6 => .partitionAttest
    | _ => .queueEntryBadentry
  | 8 => if at_ bs 40 1 == 1 then .checkpointRestore else .checkpoint
  | _ => .queueEntryBadentry

/-- The head of queue `n` can be taken (R391). -/
def queueWork (s : State) (n : Nat) : Option Work :=
  match (queueHead s n).2 with
  | .idle => none
  | .stop _ => some (.queueEntryBadentry, { a := n })
  | .entry bs => if mayStart s n bs then some (entryStep bs, { a := n }) else none

/-- A command under way can go on (R312, R391, R392, R401). -/
def cmdWork (s : State) (c : Cmd) : Option Work :=
  if c.kind == 3 then (if postReady s c then some (.postStoreDelayed, { a := c.queue, b := c.n }) else none)
  else if pollDue s c then some (.waitflagPoll, { a := c.queue, b := c.n })
  else if signalReady s c then some (.signal, { a := c.queue, b := c.n, c := 1 })
  else if c.kind == 6 && c.fin.isNone && !c.parked then some (.queueCopyComplete, { a := c.queue, b := c.n })
  else if partReady s c then some (if c.f 24 1 == 0 then .partitionSet else if c.f 24 1 == 1 then .partitionResize else .partitionInval, { a := c.queue, b := 1, c := c.n })
  else none

/-- Work of the queue unit (R387 to R392, R439). -/
def queueNext (s : State) : Option Work :=
  (s.cmds.findSome? (cmdWork s)).orElse fun _ => (s.queues.findSome? (fun q => queueWork s q.1)).orElse fun _ =>
    match s.ckpt with
    | some (_, _, _, none) => if quiesced s then some (.checkpoint, { b := 1 }) else none
    | some _ => some (.checkpointTransferEnd, {})
    | none => none

/-- The step that a watch request comes to (R407). -/
def requestStep (op : Nat) : Instr :=
  match op with
  | 2 => .traceReq
  | 3 => .seriesReq
  | 4 => .regionReq
  | 5 => .breakReq
  | 6 => .armbrkReq
  | 7 => .stopReq
  | 8 => .stepReq
  | 9 => .resumeReq
  | 10 => .dumpReq
  | 11 => .patchReq
  | 12 => .killReq
  | 13 => .wakeReq
  | _ => .bufferReq

/-- A watch request is at the head of the ring (R406); none is taken between the words of an XIR (R239). -/
def requestNext (s : State) : Option Work :=
  if s.crews.any (fun p => p.2.xir.isSome) then none
  else
    match (watchHead s).2 with
    | .entry bs => some (requestStep (at_ bs 0 1), {})
    | .stop _ => some (.bufferReq, {})
    | .idle => none

/-- Other work of the watch engine (R411, R421). -/
def watchNext (s : State) : Option Work :=
    if !s.series.due.isEmpty then some (.counterTick, {})
    else (s.tbufs.find? (publishDue s)).map (fun b => (Instr.tracePointerPublish, { a := b.1 }))

/-- Bring-up goes on by itself: the image is verified, a staged one is taken, training ends within its time, and the changeover follows (R441, R443, R445). -/
def bringNext (s : State) : Option Work :=
  if s.stage == 0x02 then some (.mainPowerGood, {})
  else if stagedFlag s then some (.stagedImageFlag, {})
  else if s.stage == 0x04 && s.began + us 2000000 ≤ s.clock then some (.trainingComplete, {})
  else if changeDue s then some (.fullServiceChangeover, {})
  else none

/-- The device serves work: low-water service, changeover or full service (R441). -/
def serves (s : State) : Bool := s.stage == 0x04 || s.stage == 0x05 || s.stage == 0x06
/-- Its clocks run (R441, R448). -/
def clocked (s : State) : Bool := s.stage == 0x02 || s.stage == 0x03 || serves s

/-- Engine work that is due, the first found. -/
def workNext (s : State) : Option Work :=
  (bringNext s).orElse fun _ =>
    if !(serves s) then none
    else (resultsNext s).orElse fun _ => (matrixNext s).orElse fun _ => (s.copies.findSome? (copyWork s)).orElse fun _ => (straitNext s).orElse fun _ =>
      (collNext s).orElse fun _ => (tideNext s).orElse fun _ => (placeNext s).orElse fun _ => (recordNext s).orElse fun _ => (queueNext s).orElse fun _ => watchNext s

/-- Work that is done now: what comes before the next issue of a crew, a watch request, or other work that is due. The engines take their turn when no crew is ready, and otherwise
64 cycles after they last had nothing to do, so that a result stays outstanding while its crew runs on (R126, log entry 2); units are placed in every cycle (R38). -/
def dueNext (s : State) : Option Work :=
  (if serves s then (s.crews.findSome? (fun p => crewWork s p.1 p.2)).orElse fun _ => requestNext s else none).orElse fun _ =>
    if s.clock < s.polled + 64 && serves s && crewReady s then unitWork s else workNext s

/-- Engine work that is done now, in the state in which it runs: a packet that has come in, or work that is due. -/
def engineNext (s : State) : Option (State × Option Instr) :=
  (packetNext s).orElse fun _ => (dueNext s).map (fun w => ({ s with arg := w.2 }, some w.1))

/-! ## The next step -/

/-- What the outside world does (log entry 3): a window's limits are those of R338, a line that is not poisoned gets a latent error (R435), and a record area keeps the limits of R304. -/
def outside (s : State) (o : Outside) : State :=
  match o with
  | .window n w =>
    if n < 15 then
      let w' : Window := { w with base := w.base % 2 ^ 56 / 65536 * 65536, size := w.size % 2 ^ 48 / 65536 * 65536, part := w.part % 16, phys := false }
      { s with windows := minsert s.windows n w' }
    else s
  | .managers ids => { s with managers := ids }
  | .flaw line hard => if inMem (128 * line) 128 && !(isPoison s line) then { s with ecc := minsert s.ecc line hard } else s
  | .records lid sh n => updShoal s lid sh (fun h => { h with recs := max h.recs (min n (2 ^ 30)) })

/-- The crew that issues next, or the passing of a cycle. An aged crew's turn is a step of its own (R403). -/
def crewNext (s : State) : State × Option Instr :=
  match cyclePicks s with
  | [] => (tick s 1, none)
  | p :: _ => if isAged s p.2 && p.2.xir.isNone && p.1 != s.cur then ({ s with arg := { crew := p.1 } }, some .issueAgeExpiry) else issueNext s p.1

/-- What the device does next: the state in which an instruction or engine step runs, and which; or nothing but the passing of a cycle. -/
def plan (s : State) : State × Option Instr :=
  match s.agenda with
  | a :: rest =>
    let s := { s with agenda := rest }
    let s := { (if clocked s then tick s a.delay else s) with arg := a.arg }
    let s := a.out.elim s (outside s)
    match a.instr with
    | some i => (s, some i)
    | none => if a.out.isSome then (s, none) else if serves s && (cyclePicks s).any (fun p => p.1 == a.arg.crew) then issueNext s a.arg.crew else (s, none)
  | [] =>
    if !(clocked s) then (s, none)
    else
      match engineNext s with
      | some w => w
      | none =>
        let s := if s.clock < s.polled + 64 && serves s && crewReady s then noteRoom (noteReady s) else { noteRoom (noteReady s) with polled := s.clock }
        if serves s then crewNext s else (tick s 1, none)

end Sys2Proof.Machine
end

