-- ==== Sys2Proof/Machine/Step.lean ====
section
/-! DEFINITION. One step of the device, and the state in which a given instruction is the next one fetched. -/

namespace Sys2Proof.Machine

/-- One step: what `plan` finds is run; with nothing to run only `clock` may have moved. -/
def step (s : State) : Host.Outcome State Fault Refusal :=
  match plan s with
  | (s, some i) => exec i s
  | (s, none) => .next s

/-- The state with an instruction stored where the next step fetches it, and a crew to issue it (log entry 9). -/
def State.withFetchWord (s : State) (nbits w : Nat) : State := placeProgram s (tableBytes nbits w)

end Sys2Proof.Machine
end

