-- ==== Sys2Proof/Safety.lean ====
section
/-! DEFINITION. What counts as a safe run: a step that ends in a next state; and when nothing turns an instruction away at issue. -/

namespace Sys2Proof

/-- The step ends in a next state. -/
def Safe (s : Machine.State) : Prop := ∃ t, Machine.step s = .next t

namespace Machine

/-- Nothing turns instruction `i`, which names the registers `us`, away at its issue by the crew in turn, `c`: the crew is there, is not between the words of an XIR (R239), is not saved (R50),
and has an active lane; the word
keeps every encoding rule (R122) and its registers their limits (R123); low-water service has it (R442); no trace is being written (R408); the HAZARD check, where it is in
force, finds nothing outstanding (R128); and no remote load with ACQ holds it (R353). -/
structure Clear (s : State) (c : Crew) (i : Instr) (us : List Use) : Prop where
  here : mfind s.crews s.cur = some c
  whole : c.xir = none
  resident : c.saved = false
  active : c.exm ≠ 0
  wf : i.wf = true
  fits : us.any (useBad c) = false
  served : lowWater s = false ∨ lowStops i = false
  untraced : c.trace.traced = false
  hazard : hazardOn c = true → hazardOf c c.seq us = none
  acq : acqHold s s.cur = false ∨ acqStops i = false

/-- What an instruction that touches its own crew alone leaves: every other crew, and all of the state but the crews and the count of free values;
no byte of memory reads differently. `c'` is the crew afterwards. -/
structure OnlyCrew (s t : State) (c' : Crew) : Prop where
  crew : mfind t.crews s.cur = some c'
  others : ∀ k, k ≠ s.cur → mfind t.crews k = mfind s.crews k
  rest : t = { s with crews := t.crews, free := t.free }
  mem : ∀ a, Memory.read t.mem a = Memory.read s.mem a

/-- The address of the instruction after `i`, which stands at the crew's PC (R107). -/
def nextPc (s : State) (c : Crew) (i : Instr) : BitVec 56 :=
  c.pc + BitVec.ofNat 56 (Fetched.len { instr := i, m := s.ir.m, aux := s.ir.aux, ext := s.ir.ext })

/-- The crew as the reads of its next instruction see it: as it is, but for registers with an outstanding producer (R127). -/
def seen (s : State) (c : Crew) : Crew := (viewOf s.free c).1

/-- Lane `L` of the crew is LIVE, to go on at `a` (R161). -/
def LiveAt (c : Crew) (L : Nat) (a : BitVec 56) : Prop := L < 32 ∧ frGet c.fr L = { st := .live, resume := a }

/-- The crew stands at the split that its frontier forms: its PC is the least resume address of its LIVE lanes, and `exm` holds the lanes that go on there (R162). -/
def AtSplit (c : Crew) : Prop :=
  (∃ L, LiveAt c L c.pc) ∧ (∀ L a, LiveAt c L a → c.pc.toNat ≤ a.toNat) ∧ ∀ L < 32, c.exm.getLsbD L = true ↔ LiveAt c L c.pc

/-- Each active lane of the crew has gone to its address `go L`, the other lanes are as they were, and the crew stands at the split they form (R162). -/
def LanesGo (c c' : Crew) (go : Nat → BitVec 56) : Prop :=
  (∀ L, L < 32 → frGet c'.fr L = if c.exm.getLsbD L then { st := .live, resume := go L } else frGet c.fr L) ∧ AtSplit c'

/-- The crew stands where the frontier with entries `e` puts it (R162): with no LIVE lane its HELD lanes become LIVE first; with no lane left, no lane is active. -/
def FormsSplit (c : Crew) (e : Nat → LaneEntry) : Prop :=
  (∀ L, L < 32 → frGet c.fr L = if (List.range 32).all (fun K => (e K).st != .live) && (e L).st == .held then { e L with st := .live } else e L) ∧
  ((∃ L < 32, (e L).st = .live ∨ (e L).st = .held) → AtSplit c) ∧ ((∀ L < 32, (e L).st ≠ .live ∧ (e L).st ≠ .held) → c.exm = 0)

/-- Each active lane of the crew has gone to `nx`. -/
def LanesGoTo (c c' : Crew) (nx : BitVec 56) : Prop := LanesGo c c' (fun _ => nx)

/-- The parts of a crew that every instruction which issues may change: the frontier and its split (R162), the state of its outstanding results and held faults
(R125, R127, R248), the marker wait, the clock of its next issue, and a step under way. -/
structure Moved where
  fr : Map LaneEntry
  pc : BitVec 56
  exm : Mask
  pend : List Pend
  held : List HeldFault
  markerWait : Bool
  readySince : Nat
  issuedAt : Nat
  stepping : Nat

/-- The crew after an instruction that issued and changed nothing else of it: the next instruction number, and no wait. -/
def after (c : Crew) (w : Moved) : Crew :=
  { c with fr := w.fr, pc := w.pc, exm := w.exm, pend := w.pend, held := w.held, markerWait := w.markerWait, readySince := w.readySince, issuedAt := w.issuedAt,
           stepping := w.stepping, seq := c.seq + 1, wait := .none }

/-- A crew that waits no longer. -/
def unwait (c : Crew) : Crew := { c with wait := .none }

/-- The state in which an instruction's own effect runs: the crew no longer waits at issue, and the free values of its reads are used (R127). -/
def started (s : State) (c : Crew) : State := { updCrew s s.cur unwait with free := s.free + (viewOf s.free c).2 }

/-- The state after instruction `i` of the crew in turn, which takes `cyc` cycles (R182), has raised a precise trap in state `s` for all its active lanes (R247): the trap is taken at the
instruction, and the instruction counts as issued. -/
def trapped (s : State) (c : Crew) (i : Instr) (cause : Byte) (tva : Dword) (cyc : Nat := 1) : State :=
  takeTrap (updCrew s s.cur (numbered s cyc)) s.cur
    { cause := cause, tva := tva, tmask := c.exm, pcAt := c.pc, pcNext := nextPc s c i, stamps := c.stamp, seq := c.seq }

/-- No constant bank that a source of the word reads is being loaded (R223). -/
def BankIdle (c : Crew) (f : TF) : Prop := f.k1 = 2 ∨ f.k2 = 2 → c.ldcBusy.any (fun b => b.1 == c.cbank.toNat) = false

/-- The registers that a T word names: sources of `n1` and `n2` registers (0 for an unused source), a vector destination of `nd`, read too when `d3` (R112, R179). -/
def tUses (f : TF) (n1 n2 nd : Nat) (d3 : Bool) : List Use :=
  (if d3 then [useV f.d nd false] else []) ++ srcUses f.k1 f.s1 n1 ++ srcUses f.k2 f.s2 n2 ++ [useV f.d nd true]

/-- The registers that a T word with a scalar destination names. -/
def tUsesS (f : TF) (n2 : Nat) : List Use := srcUses f.k1 f.s1 1 ++ srcUses f.k2 f.s2 n2 ++ [useS f.d 1 true]

/-- After a per-lane or cross-lane instruction (R180): each active lane `L` holds the words `(g L).1` in the vector registers from `d` on and has raised the flags
`(g L).2`; every other vector register, lane, flag, scalar and special register of the crew is unchanged, and so is everything else. -/
def VectorResult (s t : State) (c : Crew) (nx : BitVec 56) (d : Nat) (g : Nat → List Word × Word) : Prop :=
  ∃ (w : Moved) (v ff : Map Word), let c' := { after c w with v := v, fflags := ff }
    OnlyCrew s t c' ∧ LanesGoTo c c' nx ∧ ∀ L, L < 32 →
    (∀ r, vget c' r L = if c.exm.getLsbD L ∧ d ≤ r ∧ r < d + (g L).1.length then (g L).1.getD (r - d) 0 else vget c r L) ∧
    flagsOf c' L = if c.exm.getLsbD L then flagsOf c L ||| ((g L).2 &&& 0x1F) else flagsOf c L

/-- After an instruction with a scalar destination (R180): scalar `d` holds `w`, each active lane `L` has raised the flags `fl L`, and everything else is
unchanged. -/
def ScalarResult (s t : State) (c : Crew) (nx : BitVec 56) (d : Nat) (w : Word) (fl : Nat → Word) : Prop :=
  ∃ (m : Moved) (sr ff : Map Word), let c' := { after c m with sreg := sr, fflags := ff }
    OnlyCrew s t c' ∧ LanesGoTo c c' nx ∧
    (∀ r, sget c' r = if r = d then w else sget c r) ∧
    ∀ L, L < 32 → flagsOf c' L = if c.exm.getLsbD L then flagsOf c L ||| (fl L &&& 0x1F) else flagsOf c L

/-- After an instruction of the crew in turn, `c`: the machine is `S` but for that crew (and the count of free values); its active lanes have gone to
`nx`, its outstanding results are `pd`, and `g` says what else has changed of it. -/
def GoesOn (S t : State) (c : Crew) (nx : BitVec 56) (pd : List Pend) (g : Crew → Crew) : Prop :=
  ∃ w : Moved, w.pend = pd ∧ OnlyCrew S t (g (after c w)) ∧ LanesGoTo c (g (after c w)) nx

/-- After a branch of the crew in turn, `c`: as in `GoesOn`, with each active lane gone to its own address. -/
def Branches (s t : State) (c : Crew) (go : Nat → BitVec 56) (g : Crew → Crew) : Prop :=
  ∃ w : Moved, OnlyCrew s t (g (after c w)) ∧ LanesGo c (g (after c w)) go

/-- No line of memory is poisoned or in error, so that reads find its bytes (R435). -/
def Intact (s : State) : Prop := s.poison = [] ∧ s.ecc = []

/-- An access of `w` bytes at `a` in space `sp` by crew `c`, with permission `q`, is aligned and in range and, in the global space, lies in the page `p` (R211, R215). -/
def Reaches (s : State) (c : Crew) (sp a w : Nat) (q : Acc) (p : Pg) : Prop :=
  addrFault s c sp a w = none ∧ (sp = 0 → (xlate s (whoOf c c.pc) a q).2 = .ok p)

/-- Each active lane `L` of crew `c` reaches, at `ad L` in the global space, `w` bytes of its page `pg L` with permission `q`, whatever its lanes store to those bytes: no page table
lies among them. -/
def LanesReach (s : State) (c : Crew) (ad : Nat → Nat) (w : Nat) (q : Acc) (pg : Nat → Pg) : Prop :=
  ∀ L ∈ lanes c.exm, ∀ m : Map Byte, (∀ a, (∀ K ∈ lanes c.exm, a < (pg K).pa (ad K) ∨ (pg K).pa (ad K) + w ≤ a) → Memory.read m a = Memory.read s.mem a) →
    Reaches { s with mem := m } c 0 (ad L) w q (pg L)

/-- The `w` bytes at `a` in space `sp`: of physical memory through page `p`, of the team's scratchpad, or of the constant banks, 256 bytes each (R211). -/
def spaceBytes (s : State) (c : Crew) (sp a w : Nat) (p : Pg) : List Byte :=
  if sp = 0 then Memory.bytes s.mem (p.pa a) w
  else if sp = 1 then Memory.bytes (teamAt s c.teamKey).scratch a w
  else (List.range w).map (fun k => ((mget 0 c.banks ((a + k) / 256 * 64 + (a + k) % 256 / 4)) >>> (8 * ((a + k) % 4))).setWidth 8)

/-- The crew's outstanding results once the access numbered `c.seq` has the words `g L` for vector registers from `d` on in each listed lane (R126). -/
def withResult (c : Crew) (d : Nat) (ls : List (Nat × List Word)) : List Pend :=
  (addPend c { id := c.seq, kind := .memory, ready := true, drains := true, targets := ls.flatMap (fun p => p.2.zipIdx.map (fun w =>
    { file := .vector, idx := d + w.2, lane := p.1, val := w.1 })) }).pend

/-- The crew's outstanding results once command `c.seq` has its status word outstanding in scalar `d`, with its value where that is known already (R126); a save waits for the word where
it is known or `dr` (R255). -/
def withStatus (c : Crew) (d : Nat) (val : Option Word) (dr : Bool := false) : List Pend :=
  (addPend c { id := c.seq, kind := .status, ready := val.isSome, drains := dr || val.isSome, targets := [{ file := .scalar, idx := d, lane := 0, val := val.getD 0 }] }).pend

/-- The state once the crew in turn, `c`, has started a copy with the parts that `o` gives (R283). -/
def newCopy (s : State) (c : Crew) (o : CopyOp) : State :=
  { s with nextCopy := s.nextCopy + 1, copies := s.copies ++ [{ o with
      id := s.nextCopy, crew := s.cur, team := c.teamKey, isle := isleOf c.gcrew, part := c.part, gcrew := c.gcrew, lid := c.lid, strict := c.strict, pcAt := c.pc, pendId := c.seq }] }

/-- Nothing keeps the crew in turn, `c`, from `n` more in-flight entries of its isle: they are free, and no crew of the isle waits for entries (R283). -/
def EntriesFree (s : State) (c : Crew) (n : Nat) : Prop :=
  (s.copies.filter (fun o => o.isle == isleOf c.gcrew)).length + n ≤ 256 ∧ ∀ p ∈ s.crews, p.1 ≠ s.cur → p.2.wait ≠ .atIssue .copyEntries

/-- The instruction counts towards the limit of accesses in flight until each of its lanes has performed or faulted (R248). -/
def countedIn (c : Crew) : Crew := { c with counted := if c.counted.contains (c.seq - 1) then c.counted else c.counted ++ [c.seq - 1] }

end Machine

end Sys2Proof
end

