-- ==== Sys2Proof/Certificates/Slice0/Obligations.lean ====
section
/-! DEFINITION. The statements for the provers. Words used: `Clear s c i us` says that nothing turns instruction `i` of the crew in turn `c` away at issue; `seen s c` is the crew as its
reads see it; `VectorResult`, `ScalarResult` and `OnlyCrew` say what the machine is afterwards, all of it (Safety.lean). -/

open Sys2Proof Sys2Proof.Machine

/-! ## Crew arithmetic (08_crew_arithmetic.md) -/

/-- R183: every integer instruction writes its row's result to vD in each active lane, from the 32-bit operands `a` (S1), `b` (S2) and, for IMAD, the old vD `d`; it leaves
every other register, lane and flag and all else as it was, and its lanes go to the next instruction. -/
def Obligations.IntegerArithmeticWritesItsRow : Prop :=
  (∀ p ∈ ([(.iadd, fun a b => a + b), (.isub, fun a b => a - b), (.imul, fun a b => a * b),
      (.imulh, fun a b => BitVec.ofInt 32 (a.toInt * b.toInt / 2 ^ 32)), (.umulh, fun a b => BitVec.ofNat 32 (a.toNat * b.toNat / 2 ^ 32)),
      (.imin, fun a b => if b.toInt < a.toInt then b else a), (.imax, fun a b => if a.toInt < b.toInt then b else a),
      (.umin, fun a b => if b.toNat < a.toNat then b else a), (.umax, fun a b => if a.toNat < b.toNat then b else a),
      (.idiv, fun a b => if b = 0 then 0 else BitVec.ofInt 32 (a.toInt.tdiv b.toInt)), (.udiv, fun a b => if b = 0 then 0 else BitVec.ofNat 32 (a.toNat / b.toNat)),
      (.irem, fun a b => if b = 0 then 0 else BitVec.ofInt 32 (a.toInt.tmod b.toInt)), (.urem, fun a b => if b = 0 then 0 else BitVec.ofNat 32 (a.toNat % b.toNat)),
      (.iadds, fun a b => BitVec.ofInt 32 (max (-(2 ^ 31)) (min (2 ^ 31 - 1) (a.toInt + b.toInt))))] : List ((TF → Instr) × (Word → Word → Word))),
    ∀ f s c, Clear s c (p.1 f) (tUses f 1 1 1 false) → BankIdle c f → ∃ t, exec (p.1 f) s = .next t ∧
      VectorResult s t c (nextPc s c (p.1 f)) f.d.toNat (fun L => ([p.2 (opA (seen s c) .i32 f L) (opB (seen s c) .i32 f L)], 0))) ∧
  (∀ f s c, Clear s c (.imad f) (tUses f 1 1 1 true) → BankIdle c f → ∃ t, exec (.imad f) s = .next t ∧
    VectorResult s t c (nextPc s c (.imad f)) f.d.toNat (fun L =>
      ([opA (seen s c) .i32 f L * opB (seen s c) .i32 f L + vget (seen s c) f.d.toNat L], 0))) ∧
  (∀ f s c, Clear s c (.iabs f) (tUses f 1 0 1 false) → BankIdle c f → ∃ t, exec (.iabs f) s = .next t ∧
    VectorResult s t c (nextPc s c (.iabs f)) f.d.toNat (fun L =>
      ([if (opA (seen s c) .i32 f L).toInt < 0 then - opA (seen s c) .i32 f L else opA (seen s c) .i32 f L], 0)))

/-- R184: the logic, shift, count and move instructions write their row's result to vD in each active lane and leave everything else. -/
def Obligations.LogicShiftsAndMovesWriteTheirRow : Prop :=
  (∀ p ∈ ([(.and, fun a b => a &&& b), (.or, fun a b => a ||| b), (.xor, fun a b => a ^^^ b), (.andn, fun a b => a &&& ~~~b),
      (.shl, fun a b => if b.toNat < 32 then a <<< b.toNat else 0), (.shr, fun a b => if b.toNat < 32 then a >>> b.toNat else 0),
      (.sar, fun a b => if b.toNat < 32 then a.sshiftRight b.toNat else if a.msb then BitVec.allOnes 32 else 0),
      (.rotl, fun a b => a.rotateLeft (b.toNat % 32))] : List ((TF → Instr) × (Word → Word → Word))),
    ∀ f s c, Clear s c (p.1 f) (tUses f 1 1 1 false) → BankIdle c f → ∃ t, exec (p.1 f) s = .next t ∧
      VectorResult s t c (nextPc s c (p.1 f)) f.d.toNat (fun L => ([p.2 (opA (seen s c) .i32 f L) (opB (seen s c) .i32 f L)], 0))) ∧
  (∀ p ∈ ([(.popc, fun a => BitVec.ofNat 32 ((List.range 32).countP (fun i => a.getLsbD i))), (.clz, fun a => BitVec.clz a), (.brev, fun a => a.reverse),
      (.mov, fun a => a)] : List ((TF → Instr) × (Word → Word))),
    ∀ f s c, Clear s c (p.1 f) (tUses f 1 0 1 false) → BankIdle c f → ∃ t, exec (p.1 f) s = .next t ∧
      VectorResult s t c (nextPc s c (p.1 f)) f.d.toNat (fun L => ([p.2 (opA (seen s c) .i32 f L)], 0)))

/-- R185, R186: BFX, BFI and SEL in each active lane, and MOVS into a scalar from the lowest active lane. Bit `i` of BFX's result is bit POS + i of `a` below LEN and, above, the
field's top bit when SX asks for it; bit `i` of BFI's is bit i − POS of `a` inside the field and of the old vD outside. -/
def Obligations.BitFieldsSelectAndMovs : Prop :=
  (∀ f s c, Clear s c (.bfx f) (tUses f 1 1 1 false) → BankIdle c f → ∃ t, exec (.bfx f) s = .next t ∧ ∃ g : Nat → Word,
    VectorResult s t c (nextPc s c (.bfx f)) f.d.toNat (fun L => ([g L], 0)) ∧ ∀ L, ∀ i < 32,
      let a := opA (seen s c) .i32 f L
      let b := opB (seen s c) .i32 f L
      let len := min (b.extractLsb' 8 6).toNat 32
      let pos := (b.extractLsb' 0 5).toNat
      (g L).getLsbD i = if i < len then a.getLsbD (pos + i) else b.getLsbD 16 && decide (0 < len) && a.getLsbD (pos + len - 1)) ∧
  (∀ f s c, Clear s c (.bfi f) (tUses f 1 1 1 true) → BankIdle c f → ∃ t, exec (.bfi f) s = .next t ∧ ∃ g : Nat → Word,
    VectorResult s t c (nextPc s c (.bfi f)) f.d.toNat (fun L => ([g L], 0)) ∧ ∀ L, ∀ i < 32,
      let b := opB (seen s c) .i32 f L
      let len := min (b.extractLsb' 8 6).toNat 32
      let pos := (b.extractLsb' 0 5).toNat
      (g L).getLsbD i = if pos ≤ i ∧ i < pos + len then (opA (seen s c) .i32 f L).getLsbD (i - pos) else (vget (seen s c) f.d.toNat L).getLsbD i) ∧
  (∀ f s c, Clear s c (.sel f) (tUses f 1 1 1 true) → BankIdle c f → ∃ t, exec (.sel f) s = .next t ∧
    VectorResult s t c (nextPc s c (.sel f)) f.d.toNat (fun L =>
      ([if vget (seen s c) f.d.toNat L ≠ 0 then opA (seen s c) .i32 f L else opB (seen s c) .i32 f L], 0))) ∧
  (∀ f s c, Clear s c (.movs f) (tUsesS f 0) → BankIdle c f → ∃ t, exec (.movs f) s = .next t ∧
    ScalarResult s t c (nextPc s c (.movs f)) f.d.toNat (opA (seen s c) .i32 f (lowest c.exm)) (fun _ => 0))

/-- R187: the ISET and USET forms write 1 or 0 to vD in each active lane; the MSK forms and BALLOT write the scalar whose bit L is 1 exactly when L is active and the condition
holds there. -/
def Obligations.ComparisonsAndLaneMasks : Prop :=
  (∀ p ∈ ([(.iseteq, fun a b => a = b), (.isetne, fun a b => a ≠ b), (.isetlt, fun a b => a.toInt < b.toInt), (.isetle, fun a b => a.toInt ≤ b.toInt),
      (.usetlt, fun a b => a.toNat < b.toNat), (.usetle, fun a b => a.toNat ≤ b.toNat)] : List ((TF → Instr) × (Word → Word → Prop))),
    ∀ f s c, Clear s c (p.1 f) (tUses f 1 1 1 false) → BankIdle c f → ∃ t, exec (p.1 f) s = .next t ∧ ∃ g : Nat → Word,
      VectorResult s t c (nextPc s c (p.1 f)) f.d.toNat (fun L => ([g L], 0)) ∧
      ∀ L, (p.2 (opA (seen s c) .i32 f L) (opB (seen s c) .i32 f L) ∧ g L = 1) ∨ (¬ p.2 (opA (seen s c) .i32 f L) (opB (seen s c) .i32 f L) ∧ g L = 0)) ∧
  (∀ p ∈ ([(.mskeq, 1, fun a b => a = b), (.mskne, 1, fun a b => a ≠ b), (.msklt, 1, fun a b => a.toInt < b.toInt), (.mskle, 1, fun a b => a.toInt ≤ b.toInt),
      (.umsklt, 1, fun a b => a.toNat < b.toNat), (.ballot, 0, fun a _ => a ≠ 0)] : List ((TF → Instr) × Nat × (Word → Word → Prop))),
    ∀ f s c, Clear s c (p.1 f) (tUsesS f p.2.1) → BankIdle c f → ∃ t, exec (p.1 f) s = .next t ∧ ∃ w : Mask,
      ScalarResult s t c (nextPc s c (p.1 f)) f.d.toNat w (fun _ => 0) ∧
      ∀ L < 32, w.getLsbD L = true ↔ c.exm.getLsbD L = true ∧ p.2.2 (opA (seen s c) .i32 f L) (opB (seen s c) .i32 f L))

/-- R188: the 64-bit instructions write their row's result to the pair vD:vD+1 in each active lane; an odd constant pair has no meaning (R113). -/
def Obligations.WideIntegerArithmetic : Prop :=
  (∀ p ∈ ([(.iadd64, fun a b => a + b), (.isub64, fun a b => a - b), (.imul64, fun a b => a * b)] : List ((TF → Instr) × (Dword → Dword → Dword))),
    ∀ f s c, Clear s c (p.1 f) (tUses f 2 2 2 false) → BankIdle c f → oddConst f.k1 f.s1 2 = false → oddConst f.k2 f.s2 2 = false →
      ∃ t, exec (p.1 f) s = .next t ∧ VectorResult s t c (nextPc s c (p.1 f)) f.d.toNat (fun L =>
        let r := p.2 (opA2 (seen s c) .i64 f L).1 (opB2 (seen s c) .i64 f L).1
        ([loWord r, hiWord r], 0))) ∧
  (∀ f s c, Clear s c (.lea f) (tUses f 2 1 2 false) → BankIdle c f → oddConst f.k1 f.s1 2 = false → ∃ t, exec (.lea f) s = .next t ∧
    VectorResult s t c (nextPc s c (.lea f)) f.d.toNat (fun L =>
      let r := (opA2 (seen s c) .i64 f L).1 + (opB (seen s c) .i32 f L).signExtend 64
      ([loWord r, hiWord r], 0)))

/-- R189, R190: a shuffle gives each active lane the source register of the lane its selector names, active or not; a reduction or scan counts the active lanes alone.
R191, R192, R202: ARGMIN and ARGMAX give every active lane the winning value and lane (R69); CONFL, KSUMF and KSUM work on the groups of active lanes with equal keys;
FREDX gives every active lane the F64 sum over the active lanes (R72). -/
def Obligations.ShufflesReductionsScansAndGroups : Prop :=
  (
  (∀ p ∈ ([(.shfl, fun _ b => b % 32), (.shflx, fun L b => L ^^^ b % 32)] : List ((TF → Instr) × (Nat → Nat → Nat))),
    ∀ f s c, Clear s c (p.1 f) (tUses f 1 1 1 false) → BankIdle c f → f.k1 = 0 → ∃ t, exec (p.1 f) s = .next t ∧
      VectorResult s t c (nextPc s c (p.1 f)) f.d.toNat (fun L => ([vget (seen s c) f.s1.toNat (p.2 L (opB (seen s c) .i32 f L).toNat)], 0))) ∧
  (∀ f s c, Clear s c (.bcast f) (tUses f 1 1 1 false) → BankIdle c f → f.k1 = 0 → f.k2 ≠ 0 → ∃ t, exec (.bcast f) s = .next t ∧
    VectorResult s t c (nextPc s c (.bcast f)) f.d.toNat (fun L => ([vget (seen s c) f.s1.toNat ((opB (seen s c) .i32 f L).toNat % 32)], 0))) ∧
  (∀ f s c, Clear s c (.redadd f) (tUses f 1 0 1 false) → BankIdle c f → ∃ t, exec (.redadd f) s = .next t ∧
    VectorResult s t c (nextPc s c (.redadd f)) f.d.toNat (fun _ => ([((lanes c.exm).map (opA (seen s c) .i32 f)).sum], 0))) ∧
  (∀ f s c, Clear s c (.scanadd f) (tUses f 1 0 1 false) → BankIdle c f → ∃ t, exec (.scanadd f) s = .next t ∧
    VectorResult s t c (nextPc s c (.scanadd f)) f.d.toNat (fun L => ([(((lanes c.exm).filter (fun j => j ≤ L)).map (opA (seen s c) .i32 f)).sum], 0))) ∧
  (∀ p ∈ ([(.redmin, fun a b => a.toInt ≤ b.toInt), (.redmax, fun a b => b.toInt ≤ a.toInt)] : List ((TF → Instr) × (Word → Word → Prop))),
    ∀ f s c, Clear s c (p.1 f) (tUses f 1 0 1 false) → BankIdle c f → ∃ t, exec (p.1 f) s = .next t ∧ ∃ w : Word,
      VectorResult s t c (nextPc s c (p.1 f)) f.d.toNat (fun _ => ([w], 0)) ∧
      (∃ j ∈ lanes c.exm, w = opA (seen s c) .i32 f j) ∧ ∀ j ∈ lanes c.exm, p.2 w (opA (seen s c) .i32 f j))) ∧
  (
  (∀ p ∈ ([(.argmin, false), (.argmax, true)] : List ((TF → Instr) × Bool)), ∀ f s c, Clear s c (p.1 f) (tUses f 1 0 2 false) → BankIdle c f →
    ∃ t, exec (p.1 f) s = .next t ∧ VectorResult s t c (nextPc s c (p.1 f)) f.d.toNat (argRes p.2 f (seen s c) c.exm)) ∧
  (∀ f s c, Clear s c (.confl f) (tUses f 1 0 1 false) → BankIdle c f → ∃ t, exec (.confl f) s = .next t ∧ ∃ g : Nat → Word,
    VectorResult s t c (nextPc s c (.confl f)) f.d.toNat (fun L => ([g L], 0)) ∧
    ∀ L, ∀ j < 32, (g L).getLsbD j = true ↔ j < L ∧ c.exm.getLsbD j = true ∧ opA (seen s c) .i32 f j = opA (seen s c) .i32 f L) ∧
  (∀ f s c, Clear s c (.ksum f) (tUses f 1 1 1 false) → BankIdle c f → ∃ t, exec (.ksum f) s = .next t ∧
    VectorResult s t c (nextPc s c (.ksum f)) f.d.toNat (fun L =>
      let group := (lanes c.exm).filter (fun j => opA (seen s c) .i32 f j == opA (seen s c) .i32 f L)
      ([if group.head? = some L then (group.map (opB (seen s c) .i32 f)).sum else 0], 0))) ∧
  (∀ f s c, Clear s c (.ksumf f) (tUses f 1 1 1 false) → BankIdle c f → ∃ t, exec (.ksumf f) s = .next t ∧
    VectorResult s t c (nextPc s c (.ksumf f)) f.d.toNat (fun L =>
      let group := (lanes c.exm).filter (fun j => opA (seen s c) .i32 f j == opA (seen s c) .i32 f L)
      let sum := ksumf (seen s c).rnd (opB (seen s c) .f32 f) group
      ([if group.head? = some L then sum.1 else 0], sum.2))) ∧
  (∀ f s c, Clear s c (.fredx f) (tUses f 1 0 2 false) → BankIdle c f → ∃ t, exec (.fredx f) s = .next t ∧
    VectorResult s t c (nextPc s c (.fredx f)) f.d.toNat (fredxRes f (seen s c) c.exm)))

/-- R196: the F32 arithmetic instructions write the once-rounded result of their row in each active lane and raise its flags there, with the rounding mode in force. -/
def Obligations.F32ArithmeticRoundsOnce : Prop :=
  (∀ p ∈ ([(.fadd, fun m a b => fadd F32 m (fdec F32 a) (fdec F32 b)), (.fsub, fun m a b => fadd F32 m (fdec F32 a) (fneg (fdec F32 b))),
      (.fmul, fun m a b => fmul F32 m (fdec F32 a) (fdec F32 b)), (.fdiv, fun m a b => fdiv F32 m (fdec F32 a) (fdec F32 b)),
      (.fmin, fun _ a b => fminmax F32 false a b), (.fmax, fun _ a b => fminmax F32 true a b)] : List ((TF → Instr) × (BitVec 2 → Nat → Nat → FRes))),
    ∀ f s c, Clear s c (p.1 f) (tUses f 1 1 1 false) → BankIdle c f → ∃ t, exec (p.1 f) s = .next t ∧
      VectorResult s t c (nextPc s c (p.1 f)) f.d.toNat (fun L =>
        let r := p.2 (seen s c).rnd (opA (seen s c) .f32 f L).toNat (opB (seen s c) .f32 f L).toNat
        ([BitVec.ofNat 32 r.1], r.2))) ∧
  (∀ p ∈ ([(.fabs, fun _ a => (a % 2 ^ 31, 0)), (.fneg, fun _ a => (a ^^^ 2 ^ 31, 0)), (.fsqrt, fun m a => fsqrt F32 m (fdec F32 a)),
      (.frcp, fun m a => fdiv F32 m (fdec F32 0x3F800000) (fdec F32 a)), (.frsq, fun m a => frsq F32 m (fdec F32 a))] : List ((TF → Instr) × (BitVec 2 → Nat → FRes))),
    ∀ f s c, Clear s c (p.1 f) (tUses f 1 0 1 false) → BankIdle c f → ∃ t, exec (p.1 f) s = .next t ∧
      VectorResult s t c (nextPc s c (p.1 f)) f.d.toNat (fun L =>
        let r := p.2 (seen s c).rnd (opA (seen s c) .f32 f L).toNat
        ([BitVec.ofNat 32 r.1], r.2))) ∧
  (∀ f s c, Clear s c (.fma f) (tUses f 1 1 1 true) → BankIdle c f → ∃ t, exec (.fma f) s = .next t ∧
    VectorResult s t c (nextPc s c (.fma f)) f.d.toNat (fun L =>
      let r := ffma F32 (seen s c).rnd (fdec F32 (opA (seen s c) .f32 f L).toNat) (fdec F32 (opB (seen s c) .f32 f L).toNat)
        (fdec F32 (vget (seen s c) f.d.toNat L).toNat)
      ([BitVec.ofNat 32 r.1], r.2)))

/-- R197, R199, R200, R201: the elementary functions, FCLASS, the four roundings to an integral value with their modes, and the sum and product with their exact errors.
R198: an F32 comparison is false of a NaN, except for the unordered test, and raises NV in each active lane with an sNaN operand, or with any NaN operand where the row says so;
the FSET forms write 1 or 0 to vD, the FMSK forms a lane mask to sD. -/
def Obligations.F32FunctionsComparisonsAndErrors : Prop :=
  (
  (∀ p ∈ ([(.fexp2, fun m a => fexp2 m (fdec F32 a)), (.flog2, fun m a => flog2 m (fdec F32 a)), (.fsin, fun m a => fsin m (fdec F32 a)),
      (.fcos, fun m a => fcos m (fdec F32 a)), (.fclass, fun _ a => (2 ^ fclassBit a, 0)), (.frint, fun m a => frint F32 m true a),
      (.ffloor, fun _ a => frint F32 3 false a), (.fceil, fun _ a => frint F32 2 false a), (.ftrunc, fun _ a => frint F32 1 false a)] :
      List ((TF → Instr) × (BitVec 2 → Nat → FRes))),
    ∀ f s c, Clear s c (p.1 f) (tUses f 1 0 1 false) → BankIdle c f → ∃ t, exec (p.1 f) s = .next t ∧
      VectorResult s t c (nextPc s c (p.1 f)) f.d.toNat (fun L =>
        let r := p.2 (seen s c).rnd (opA (seen s c) .f32 f L).toNat
        ([BitVec.ofNat 32 r.1], r.2))) ∧
  (∀ f s c, Clear s c (.ferradd f) (tUses f 1 1 2 false) → BankIdle c f → ∃ t, exec (.ferradd f) s = .next t ∧
    VectorResult s t c (nextPc s c (.ferradd f)) f.d.toNat (fun L =>
      let a := fdec F32 (opA (seen s c) .f32 f L).toNat
      let b := fdec F32 (opB (seen s c) .f32 f L).toNat
      let r := fadd F32 0 a b
      ([BitVec.ofNat 32 r.1, BitVec.ofNat 32 (errOf F32 (dyAdd (dyOf a) (dyOf b)) r.1)], r.2))) ∧
  (∀ f s c, Clear s c (.ferrmul f) (tUses f 1 1 4 false) → BankIdle c f → ∃ t, exec (.ferrmul f) s = .next t ∧
    VectorResult s t c (nextPc s c (.ferrmul f)) f.d.toNat (fun L =>
      let a := fdec F32 (opA (seen s c) .f32 f L).toNat
      let b := fdec F32 (opB (seen s c) .f32 f L).toNat
      let r := fmul F32 0 a b
      let e := errOf F64 (dyMul (dyOf a) (dyOf b)) r.1
      ([BitVec.ofNat 32 r.1, 0, BitVec.ofNat 32 e, BitVec.ofNat 32 (e / 2 ^ 32)], r.2)))) ∧
  (
  ∀ p ∈ ([(.fseteq, .fmskeq, false, feqv), (.fsetlt, .fmsklt, true, fltv), (.fsetle, .fmskle, true, fun a b => fltv a b || feqv a b),
      (.fsetun, .fmskun, false, fun a b => isNan a || isNan b)] : List ((TF → Instr) × (TF → Instr) × Bool × (FVal → FVal → Bool))),
    ∀ f s c, BankIdle c f →
      let a := fun L => fdec F32 (opA (seen s c) .f32 f L).toNat
      let b := fun L => fdec F32 (opB (seen s c) .f32 f L).toNat
      let nv := fun L => if (if p.2.2.1 then isNan (a L) || isNan (b L) else isSnan (a L) || isSnan (b L)) then fNV else 0
      (Clear s c (p.1 f) (tUses f 1 1 1 false) → ∃ t, exec (p.1 f) s = .next t ∧
        VectorResult s t c (nextPc s c (p.1 f)) f.d.toNat (fun L => ([if p.2.2.2 (a L) (b L) then 1 else 0], nv L))) ∧
      (Clear s c (p.2.1 f) (tUsesS f 1) → ∃ t, exec (p.2.1 f) s = .next t ∧ ∃ w : Mask,
        ScalarResult s t c (nextPc s c (p.2.1 f)) f.d.toNat w nv ∧
        ∀ L < 32, w.getLsbD L = (c.exm.getLsbD L && p.2.2.2 (a L) (b L))))

/-- R203: the F64 instructions write the F64 result of the F32 row of the same operation to the pair vD:vD+1, the DSET forms 1 or 0 to vD, and raise its flags and those of
widening an operand (R114). -/
def Obligations.F64Arithmetic : Prop :=
  (∀ p ∈ ([(.dadd, fun m a b => fadd F64 m (fdec F64 a) (fdec F64 b)), (.dsub, fun m a b => fadd F64 m (fdec F64 a) (fneg (fdec F64 b))),
      (.dmul, fun m a b => fmul F64 m (fdec F64 a) (fdec F64 b)), (.ddiv, fun m a b => fdiv F64 m (fdec F64 a) (fdec F64 b)),
      (.dmin, fun _ a b => fminmax F64 false a b), (.dmax, fun _ a b => fminmax F64 true a b)] : List ((TF → Instr) × (BitVec 2 → Nat → Nat → FRes))),
    ∀ f s c, Clear s c (p.1 f) (tUses f 2 2 2 false) → BankIdle c f → oddConst f.k1 f.s1 2 = false → oddConst f.k2 f.s2 2 = false →
      ∃ t, exec (p.1 f) s = .next t ∧ VectorResult s t c (nextPc s c (p.1 f)) f.d.toNat (fun L =>
        let a := opA2 (seen s c) .f64 f L
        let b := opB2 (seen s c) .f64 f L
        let r := p.2 (seen s c).rnd a.1.toNat b.1.toNat
        ([BitVec.ofNat 32 r.1, BitVec.ofNat 32 (r.1 / 2 ^ 32)], r.2 ||| a.2 ||| b.2))) ∧
  (∀ p ∈ ([(.dsqrt, fun m a => fsqrt F64 m (fdec F64 a)), (.dabs, fun _ a => (a % 2 ^ 63, 0))] : List ((TF → Instr) × (BitVec 2 → Nat → FRes))),
    ∀ f s c, Clear s c (p.1 f) (tUses f 2 0 2 false) → BankIdle c f → oddConst f.k1 f.s1 2 = false →
      ∃ t, exec (p.1 f) s = .next t ∧ VectorResult s t c (nextPc s c (p.1 f)) f.d.toNat (fun L =>
        let a := opA2 (seen s c) .f64 f L
        let r := p.2 (seen s c).rnd a.1.toNat
        ([BitVec.ofNat 32 r.1, BitVec.ofNat 32 (r.1 / 2 ^ 32)], r.2 ||| a.2))) ∧
  (∀ f s c, Clear s c (.dfma f) (tUses f 2 2 2 true) → BankIdle c f → oddConst f.k1 f.s1 2 = false → oddConst f.k2 f.s2 2 = false →
    ∃ t, exec (.dfma f) s = .next t ∧ VectorResult s t c (nextPc s c (.dfma f)) f.d.toNat (fun L =>
      let a := opA2 (seen s c) .f64 f L
      let b := opB2 (seen s c) .f64 f L
      let r := ffma F64 (seen s c).rnd (fdec F64 a.1.toNat) (fdec F64 b.1.toNat) (fdec F64 (vget2 (seen s c) f.d.toNat L).toNat)
      ([BitVec.ofNat 32 r.1, BitVec.ofNat 32 (r.1 / 2 ^ 32)], r.2 ||| a.2 ||| b.2))) ∧
  (∀ p ∈ ([(.dseteq, false, feqv), (.dsetlt, true, fltv), (.dsetle, true, fun a b => fltv a b || feqv a b)] : List ((TF → Instr) × Bool × (FVal → FVal → Bool))),
    ∀ f s c, Clear s c (p.1 f) (tUses f 2 2 1 false) → BankIdle c f → oddConst f.k1 f.s1 2 = false → oddConst f.k2 f.s2 2 = false →
      ∃ t, exec (p.1 f) s = .next t ∧ VectorResult s t c (nextPc s c (p.1 f)) f.d.toNat (fun L =>
        let a := opA2 (seen s c) .f64 f L
        let b := opB2 (seen s c) .f64 f L
        let x := fdec F64 a.1.toNat
        let y := fdec F64 b.1.toNat
        ([if p.2.2 x y then 1 else 0], (if (if p.2.1 then isNan x || isNan y else isSnan x || isSnan y) then fNV else 0) ||| a.2 ||| b.2)))

/-- R204, R205: CVT applies the conversion its literal names (R71), to a single or a pair as the code says, and the short forms apply theirs; a CVT of another kind or code, or of a half format in
low-water service (R442), raises ILLOP. -/
def Obligations.ConversionsApplyTheirCode : Prop :=
  ∀ f s c,
    let run := fun (i : Instr) (code : Nat) =>
      let n1 := if code ∈ [4, 6, 7, 16, 17, 18, 19, 20, 27, 29] then 2 else 1
      let nd := if code ∈ [5, 8, 9, 16, 17, 18, 19, 21, 28] then 2 else 1
      Clear s c i (tUses f n1 0 nd false) → BankIdle c f → oddConst f.k1 f.s1 n1 = false → ∃ t, exec i s = .next t ∧
        VectorResult s t c (nextPc s c i) f.d.toNat (fun L =>
          let a := if n1 = 2 then opA2 (seen s c) (cvtSrc code) f L else ((opA (seen s c) (cvtSrc code) f L).setWidth 64, 0)
          let r := cvt code (seen s c).rnd a.1.toNat
          ([BitVec.ofNat 32 r.1, BitVec.ofNat 32 (r.1 / 2 ^ 32)].take nd, r.2 ||| a.2))
    (f.k2 = 3 → f.s2.toNat ≤ 29 → (lowWater s = true → ¬ ((f.s2.toNat ≤ 3 ∨ 6 ≤ f.s2.toNat) ∧ f.s2.toNat ≤ 11)) → run (.cvt f) f.s2.toNat) ∧
    (mfind s.crews s.cur = some c → c.xir = none → c.trace.traced = false → f.k2 ≠ 3 ∨ 29 < f.s2.toNat ∨ (lowWater s = true ∧ (f.s2.toNat ≤ 3 ∨ 6 ≤ f.s2.toNat) ∧ f.s2.toNat ≤ 11) →
      exec (.cvt f) s = .next (trapped s c (.cvt f) 0x01 (illWord (.cvt f) s.ir))) ∧
    run (.icvtf f) 14 ∧ run (.ucvtf f) 15 ∧ run (.fcvti f) 12 ∧ run (.dcvtf f) 4 ∧ run (.fcvtd f) 5 ∧
    (Clear s c (.fcvtn f) (tUses f 1 0 1 false) → BankIdle c f → ∃ t, exec (.fcvtn f) s = .next t ∧
      VectorResult s t c (nextPc s c (.fcvtn f)) f.d.toNat (fun L =>
        let r := cvtFI F32 32 true 0 (opA (seen s c) .f32 f L).toNat
        ([BitVec.ofNat 32 r.1], r.2)))

/-- R206, R209: packing rounds `a` into element 0 and `b` into element 1, unpacking converts the elements of `a` to F32, and the packed forms round each element once; the lane's
flags are those of both elements. None of them runs in low-water service (R442). -/
def Obligations.PackedHalves : Prop :=
  (∀ p ∈ ([(.packh, H16), (.packb, B16)] : List ((TF → Instr) × Fmt)),
    ∀ f s c, Clear s c (p.1 f) (tUses f 1 1 1 false) → BankIdle c f → lowWater s = false → ∃ t, exec (p.1 f) s = .next t ∧
      VectorResult s t c (nextPc s c (p.1 f)) f.d.toNat (fun L =>
        let a := cvtFF F32 p.2 (seen s c).rnd (opA (seen s c) .f32 f L).toNat
        let b := cvtFF F32 p.2 (seen s c).rnd (opB (seen s c) .f32 f L).toNat
        ([BitVec.ofNat 32 (a.1 + 65536 * b.1)], a.2 ||| b.2))) ∧
  (∀ p ∈ ([(.unpkh, .hpair, H16), (.unpkb, .bpair, B16)] : List ((TF → Instr) × OTy × Fmt)),
    ∀ f s c, Clear s c (p.1 f) (tUses f 1 0 2 false) → BankIdle c f → lowWater s = false → ∃ t, exec (p.1 f) s = .next t ∧
      VectorResult s t c (nextPc s c (p.1 f)) f.d.toNat (fun L =>
        let x := (opA (seen s c) p.2.1 f L).toNat
        let a := cvtFF p.2.2 F32 0 (x % 65536)
        let b := cvtFF p.2.2 F32 0 (x / 65536)
        ([BitVec.ofNat 32 a.1, BitVec.ofNat 32 b.1], a.2 ||| b.2))) ∧
  (∀ p ∈ ([(.hfma2, true, .hpair, H16, fun m a b d => ffma H16 m a b d), (.bfma2, true, .bpair, B16, fun m a b d => ffma B16 m a b d),
      (.hadd2, false, .hpair, H16, fun m a b _ => fadd H16 m a b), (.hmul2, false, .hpair, H16, fun m a b _ => fmul H16 m a b)] :
      List ((TF → Instr) × Bool × OTy × Fmt × (BitVec 2 → FVal → FVal → FVal → FRes))),
    ∀ f s c, Clear s c (p.1 f) (tUses f 1 1 1 p.2.1) → BankIdle c f → lowWater s = false → ∃ t, exec (p.1 f) s = .next t ∧
      VectorResult s t c (nextPc s c (p.1 f)) f.d.toNat (fun L =>
        let half := fun (h : Nat → Nat) => p.2.2.2.2 (seen s c).rnd (fdec p.2.2.2.1 (h (opA (seen s c) p.2.2.1 f L).toNat))
          (fdec p.2.2.2.1 (h (opB (seen s c) p.2.2.1 f L).toNat)) (fdec p.2.2.2.1 (h (vget (seen s c) f.d.toNat L).toNat))
        let lo := half (fun x => x % 65536)
        let hi := half (fun x => x / 65536)
        ([BitVec.ofNat 32 (lo.1 + 65536 * hi.1)], lo.2 ||| hi.2)))

/-- R65 (with R53, R54, R55, R64): rounding the exact value m × 2^e, m > 0, to a binary format never gives a NaN and keeps the sign. A finite result is, to nearest, as near as any finite value of the format, with
the even one of two equally near; rounding down in magnitude, the greatest value not above it; rounding up in magnitude, the least value not below it; NX says that it is another value. An infinite result raises OF and
NX, and the exact value lies above every finite value of the format. -/
def Obligations.RoundingChoosesTheNeighbour : Prop :=
  ∀ f ∈ [F64, F32, H16, B16, A80], ∀ (mode : BitVec 2) (neg : Bool) (m : Nat) (e : Int), 0 < m →
    let value := fun (q : Nat) (g : Int) => (q : ℚ) * 2 ^ g
    let v := value m e
    let r := fround f mode neg m e
    let down := mode = 1 ∨ (mode = 2 ∧ neg = true) ∨ (mode = 3 ∧ neg = false)
    let up := (mode = 2 ∧ neg = false) ∨ (mode = 3 ∧ neg = true)
    (∀ sig, fdec f r.1 ≠ .nan sig) ∧
    (∀ s, fdec f r.1 = .inf s → s = neg ∧ r.2 = fOF ||| fNX ∧ ∀ x t q g, fdec f x = .fin t q g → value q g < v) ∧
    (∀ s q g, fdec f r.1 = .fin s q g → s = neg ∧ (r.2.getLsbD 0 = true ↔ value q g ≠ v) ∧ ∀ x t q' g', fdec f x = .fin t q' g' →
      let y := value q' g'
      (mode = 0 → |value q g - v| ≤ |y - v| ∧ (|value q g - v| = |y - v| → y ≠ value q g → r.1 % 2 = 0)) ∧
      (down → value q g ≤ v ∧ (y ≤ v → y ≤ value q g)) ∧ (up → v ≤ value q g ∧ (v ≤ y → value q g ≤ y)))

/-- R207, R208: BFPENC encodes each block of lanes and BFPDEC decodes each lane; a control word or a width outside the limits traps RANGE (0x13) precisely with the offending word in
`tva`, and no lane is written. -/
def Obligations.BlockFloatingPoint : Prop :=
  (∀ f s c, Clear s c (.bfpenc f) (tUses f 1 1 2 false) → (f.k2 = 2 → BankIdle c f) → lowWater s = false → f.k1 = 0 → f.k2 ≠ 0 →
    let ctl := (opB (seen s c) .i32 f 0).toNat
    let bad := ctl / 2 ^ 14 ≠ 0 ∨ ctl / 2 ^ 6 % 4 ≠ 0 ∨ ctl % 16 < 2 ∨ 8 < ctl % 16
    (¬ bad → ∃ t, exec (.bfpenc f) s = .next t ∧ VectorResult s t c (nextPc s c (.bfpenc f)) f.d.toNat (bfpencLane f ctl (seen s c) c.exm)) ∧
    (bad → exec (.bfpenc f) s = .next (trapped (started s c) c (.bfpenc f) 0x13 (BitVec.ofNat 64 ctl) 4))) ∧
  (∀ f s c, Clear s c (.bfpdec f) (tUses f 1 1 1 false) → BankIdle c f → lowWater s = false →
    let b := fun L => (opB (seen s c) .i32 f L).toNat / 256 % 16
    ((∀ L ∈ lanes c.exm, 2 ≤ b L ∧ b L ≤ 8) → ∃ t, exec (.bfpdec f) s = .next t ∧
      VectorResult s t c (nextPc s c (.bfpdec f)) f.d.toNat (fun L => ([bfpdecLane f (seen s c) L], 0))) ∧
    (∀ L ∈ lanes c.exm, (b L < 2 ∨ 8 < b L) → (∀ j ∈ lanes c.exm, j < L → 2 ≤ b j ∧ b j ≤ 8) →
      exec (.bfpdec f) s = .next (trapped (started s c) c (.bfpdec f) 0x13 ((opB (seen s c) .i32 f L).setWidth 64))))

/-- R111: each K word of the arithmetic chapters has the effect of its T word: on vD and vS, on vS alone, or on vD and a 5-bit literal, zero-extended for the shifts and sign-extended
for the sum. -/
def Obligations.KWordsAreTheirTWords : Prop :=
  ∀ (f : KF) (s : State) (c : Crew),
    let d := f.d.toNat
    let imm := fun (k : KF → Instr) (g : Word → Word) => Clear s c (k f) [useV (f.d.setWidth 6) 1 false, useV (f.d.setWidth 6) 1 true] →
      ∃ t, exec (k f) s = .next t ∧ VectorResult s t c (c.pc + 2) d (fun L => ([g (vget (seen s c) d L)], 0))
    let two := fun (k : KF → Instr) (g : Word → Word → Word × Word) =>
      Clear s c (k f) [useV (f.d.setWidth 6) 1 false, useV (f.s.setWidth 6) 1 false, useV (f.d.setWidth 6) 1 true] →
      ∃ t, exec (k f) s = .next t ∧ VectorResult s t c (c.pc + 2) d (fun L =>
        let r := g (vget (seen s c) d L) (vget (seen s c) f.s.toNat L)
        ([r.1], r.2))
    let fp := fun (op : Nat → Nat → FRes) (a b : Word) => let r := op a.toNat b.toNat; (BitVec.ofNat 32 r.1, r.2)
    let m := (seen s c).rnd
    (Clear s c (.kMov f) [useV (f.s.setWidth 6) 1 false, useV (f.d.setWidth 6) 1 true] → ∃ t, exec (.kMov f) s = .next t ∧
      VectorResult s t c (c.pc + 2) d (fun L => ([vget (seen s c) f.s.toNat L], 0))) ∧
    two .kIadd (fun a b => (a + b, 0)) ∧ two .kIsub (fun a b => (a - b, 0)) ∧ two .kAnd (fun a b => (a &&& b, 0)) ∧ two .kOr (fun a b => (a ||| b, 0)) ∧
    two .kXor (fun a b => (a ^^^ b, 0)) ∧ imm .kShli (fun a => a <<< f.s.toNat) ∧ imm .kShri (fun a => a >>> f.s.toNat) ∧
    imm .kIaddi (fun a => a + f.s.signExtend 32) ∧
    two .kFadd (fp (fun a b => fadd F32 m (fdec F32 a) (fdec F32 b))) ∧ two .kFsub (fp (fun a b => fadd F32 m (fdec F32 a) (fneg (fdec F32 b)))) ∧
    two .kFmul (fp (fun a b => fmul F32 m (fdec F32 a) (fdec F32 b))) ∧ two .kFmax (fp (fminmax F32 true)) ∧ two .kFmin (fp (fminmax F32 false))

/-- R193, R194: LDI and LDIH write their immediate; RDSR writes each active lane the value of the register that its index names (R195), and latches or uses up the upper half of `clock`; an index
that is assigned to no register reads 0 at depth 0 and traps PRIV (0x02) in a handler. -/
def Obligations.ImmediatesAndSpecialRegisterReads : Prop :=
  (∀ f s c, Clear s c (.ldi f) [useV f.d 1 true] → ∃ t, exec (.ldi f) s = .next t ∧
    VectorResult s t c (c.pc + 4) f.d.toNat (fun _ => ([f.imm.setWidth 32], 0))) ∧
  (∀ f s c, Clear s c (.ldih f) [useV f.d 1 false, useV f.d 1 true] → ∃ t, exec (.ldih f) s = .next t ∧
    VectorResult s t c (c.pc + 4) f.d.toNat (fun L => ([f.imm ++ (vget (seen s c) f.d.toNat L).extractLsb' 0 16], 0))) ∧
  (∀ f s c, Clear s c (.rdsr f) [useV f.d 1 true] →
    let i := f.imm.toNat % 4096
    let val := fun L => srRead (started s c) s.cur (seen s c) L i
    (srRead s s.cur c 0 i ≠ none ∨ c.tdepth = 0 → ∃ t, exec (.rdsr f) s = .next t ∧ ∃ (w : Moved) (v : Map Word), let c' := { after c w with
        v := v, clockLatch := if i = 0x10 then some (BitVec.ofNat 32 (s.clock / 2 ^ 32)) else if i = 0x11 then none else c.clockLatch }
      OnlyCrew s t c' ∧ LanesGoTo c c' (c.pc + 4) ∧
      ∀ L < 32, ∀ r, vget c' r L = if c.exm.getLsbD L ∧ r = f.d.toNat then (val L).getD 0 else vget c r L) ∧
    (srRead s s.cur c 0 i = none → c.tdepth ≠ 0 → exec (.rdsr f) s = .next (trapped s c (.rdsr f) 0x02 0)))

/-! ## Memory (09_crew_memory_and_atomics.md) -/

/-- R213 (with R211, R214, R221): a plain load gives each active lane the bytes at its address, sign- or zero-extended or as one, two or four words; they are the instruction's outstanding
result for the registers from vD on, and nothing else changes.
R215, R216 (with R5): where an active lane's address is no multiple of the access's width, a load or store traps MISALIGN (0x05) precisely with the address of the lowest such lane in
`tva`; here in a load whose other lanes complete or fail an early check too. -/
def Obligations.LoadsReadTheirBytes : Prop :=
  (
  let gives := fun (i : Instr) (f : MF) (w nd : Nat) (g : List Byte → List Word) => ∀ (s : State) (c : Crew) (pg : Nat → Pg),
    Clear s c i (addrUses f ++ [useV f.d nd true]) → f.sp ≠ 3 → f.os.toNat ≤ 4 → (f.sp = 2 → f.os = 0) → (countedIds c).length < 16 → Intact s →
    (∀ L ∈ lanes c.exm, Reaches s c f.sp.toNat (addrOf (seen s c) f L) w .rd (pg L) ∧
      (f.sp = 2 → c.ldcBusy.any (fun b => b.1 == addrOf (seen s c) f L / 256) = false)) →
    ∃ t, exec i s = .next t ∧ GoesOn s t c (nextPc s c i) (withResult c f.d.toNat ((lanes c.exm).map (fun L =>
      (L, g (spaceBytes s c f.sp.toNat (addrOf (seen s c) f L) w (pg L)))))) id
  let words := fun (n : Nat) (bs : List Byte) => (List.range n).map (fun k => BitVec.ofNat 32 (bytesNat ((bs.drop (4 * k)).take 4)))
  (∀ f, gives (.ldbs f) f 1 1 (fun bs => [(BitVec.ofNat 8 (bytesNat bs)).signExtend 32])) ∧ (∀ f, gives (.ldbz f) f 1 1 (words 1)) ∧
  (∀ f, gives (.ldhs f) f 2 1 (fun bs => [(BitVec.ofNat 16 (bytesNat bs)).signExtend 32])) ∧ (∀ f, gives (.ldhz f) f 2 1 (words 1)) ∧
  (∀ f, gives (.ldw f) f 4 1 (words 1)) ∧ (∀ f, gives (.ldd f) f 8 2 (words 2)) ∧ (∀ f, gives (.ldq f) f 16 4 (words 4)) ∧
  (∀ f, f.sp = 0 → f.b ≠ 31 → f.a ≠ 0 → gives (.ldg f) f 4 1 (words 1)) ∧
  (∀ f : KF, gives (.kLdw f) { os := 0, sp := 0, b := 31, a := f.s.setWidth 6, d := f.d.setWidth 6 } 4 1 (words 1))) ∧
  (
  ∀ p ∈ ([(.ldhs, 2, 1), (.ldhz, 2, 1), (.ldw, 4, 1), (.ldd, 8, 2), (.ldq, 16, 4)] : List ((MF → Instr) × Nat × Nat)), ∀ (f : MF) (s : State) (c : Crew) (pg : Nat → Pg) (L : Nat),
    Clear s c (p.1 f) (addrUses f ++ [useV f.d p.2.2 true]) → f.sp ≠ 3 → f.os.toNat ≤ 4 → (f.sp = 2 → f.os = 0) → (countedIds c).length < 16 → Intact s →
    let ad := addrOf (seen s c) f
    (f.sp = 2 → ∀ K ∈ lanes c.exm, c.ldcBusy.any (fun b => b.1 == ad K / 256) = false) →
    L ∈ lanes c.exm → ad L % p.2.1 ≠ 0 → (∀ K ∈ lanes c.exm, K < L → ad K % p.2.1 = 0) →
    (∀ K ∈ lanes c.exm, addrFault s c f.sp.toNat (ad K) p.2.1 ≠ none ∨ Reaches s c f.sp.toNat (ad K) p.2.1 .rd (pg K)) →
    ∃ t, exec (p.1 f) s = .next t ∧ ∃ pd, t = takeTrap (updCrew (started s c) s.cur (fun c => { numbered (started s c) 1 c with pend := pd })) s.cur
      { cause := 0x05, tva := BitVec.ofNat 64 (ad L), tmask := c.exm, pcm := maskOf (fun K => c.exm.getLsbD K && (addrFault s c f.sp.toNat (ad K) p.2.1).isNone)
        pcAt := c.pc, pcNext := nextPc s c (p.1 f), stamps := c.stamp, seq := c.seq })

/-- R213 (with R211, R221): a plain store writes the low bytes of its registers at each active lane's address, lane by lane in ascending order (R7), and no other byte of any memory changes;
in the scratchpad it updates each barrier object that it overlaps once more (R173).
That only named objects are updated is the model's choice (log entry 8). -/
def Obligations.StoresWriteTheirBytes : Prop :=
  let stores := fun (i : Instr) (f : MF) (w nd : Nat) => ∀ (s : State) (c : Crew) (pg : Nat → Pg),
    Clear s c i ([useV f.d nd false] ++ addrUses f) → f.os.toNat ≤ 4 →
    let ad := addrOf (seen s c) f
    let bytes := fun (L : Nat) => ((List.range nd).flatMap (fun k => natBytes 4 (vget (seen s c) (f.d.toNat + k) L).toNat)).take w
    (f.sp = 0 → (countedIds c).length < 16 → Intact s → s.regions = [] → (c.strict = true → holdsToken s c = false → ∀ L ∈ lanes c.exm, (pg L).ord = false) →
      LanesReach s c ad w .wr pg →
      ∃ t, exec i s = .next t ∧ GoesOn { s with mem := (lanes c.exm).foldl (fun m L => Memory.writes m ((pg L).pa (ad L)) (bytes L)) s.mem } t c (nextPc s c i) c.pend countedIn) ∧
    (f.sp = 1 → (∀ L ∈ lanes c.exm, Reaches s c 1 (ad L) w .wr (pg L)) →
      let T := barTouch ((lanes c.exm).foldl (fun s L => scW s c.teamKey (ad L) (bytes L)) (started s c)) c.teamKey ((lanes c.exm).map (fun L => (ad L, w)))
      ∃ t, exec i s = .next t ∧ GoesOn T t (crewAt T s.cur) (nextPc s c i) (crewAt T s.cur).pend id)
  (∀ f, stores (.stb f) f 1 1) ∧ (∀ f, stores (.sth f) f 2 1) ∧ (∀ f, stores (.stw f) f 4 1) ∧ (∀ f, stores (.std f) f 8 2) ∧ (∀ f, stores (.stq f) f 16 4) ∧
  (∀ f, f.sp = 0 → f.b ≠ 31 → f.a ≠ 0 → stores (.stg f) f 4 1)

/-- R229 (with R228, R230): an atomic replaces the value at each active lane's address by its row's function of the old value and the operand registers, lane by lane, and a returning one gives
each lane the old value; a strict crew needs the token for the floating additions (R230). The predictor's step is R230's.
In the scratchpad only named objects are updated, which is the model's choice (log entry 8). -/
def Obligations.AtomicsReadModifyWrite : Prop :=
  let w1 := fun (g : Word → Word → Word) (old : Nat) (ws : List Word) => (g (BitVec.ofNat 32 old) (ws.getD 0 0)).toNat
  let fl := fun (F : Fmt) (old x : Nat) => (fadd F 0 (fdec F old) (fdec F x)).1
  ∀ p ∈ ([(.aadd, 4, 1, true, false, w1 (fun o d => o + d)), (.aaddf, 4, 1, true, true, fun o ws => fl F32 o (ws.getD 0 0).toNat),
      (.aaddd, 8, 2, true, true, fun o ws => fl F64 o (ws.getD 1 0 ++ ws.getD 0 0 : BitVec 64).toNat),
      (.amin, 4, 1, true, false, w1 (fun o d => if d.toInt < o.toInt then d else o)), (.amax, 4, 1, true, false, w1 (fun o d => if o.toInt < d.toInt then d else o)),
      (.aumin, 4, 1, true, false, w1 (fun o d => if d.toNat < o.toNat then d else o)), (.aumax, 4, 1, true, false, w1 (fun o d => if o.toNat < d.toNat then d else o)),
      (.aand, 4, 1, true, false, w1 (fun o d => o &&& d)), (.aor, 4, 1, true, false, w1 (fun o d => o ||| d)), (.axor, 4, 1, true, false, w1 (fun o d => o ^^^ d)),
      (.axchg, 4, 1, true, false, w1 (fun _ d => d)), (.acas, 4, 2, true, false, fun o ws => if BitVec.ofNat 32 o = ws.getD 0 0 then (ws.getD 1 0).toNat else o),
      (.aincw, 4, 1, true, false, w1 (fun o d => if d.toNat ≤ o.toNat then 0 else o + 1)), (.aaddn, 4, 1, false, false, w1 (fun o d => o + d)),
      (.aaddfn, 4, 1, false, true, fun o ws => fl F32 o (ws.getD 0 0).toNat)] : List ((MF → Instr) × Nat × Nat × Bool × Bool × (Nat → List Word → Nat))),
    ∀ (f : MF) (s : State) (c : Crew) (pg : Nat → Pg),
    let i := p.1 f
    let w := p.2.1
    let ret := p.2.2.2.1
    let ad := addrOf (seen s c) f
    let new := fun (L old : Nat) => p.2.2.2.2.2 old ((List.range p.2.2.1).map (fun k => vget (seen s c) (f.d.toNat + k) L))
    let pend := fun (ls : List (Nat × List Word)) => if ret then withResult c f.d.toNat ls else c.pend
    Clear s c i ([useV f.d p.2.2.1 false] ++ addrUses f ++ (if ret then [{ file := .vector, idx := f.d.toNat, n := w / 4, al := 1, wr := true }] else [])) →
    f.os.toNat ≤ 4 → (p.2.2.2.2.1 = true → c.strict = true → holdsToken s c = true) →
    (f.sp = 0 → (countedIds c).length < 16 → Intact s → s.regions = [] → (c.strict = true → holdsToken s c = false → ∀ L ∈ lanes c.exm, (pg L).ord = false) →
      LanesReach s c ad w .rw pg →
      let r := (lanes c.exm).foldl (fun (r : State × List (Nat × List Word)) L =>
        let pa := (pg L).pa (ad L)
        (wrN (predict r.1 c (ad L) pa) pa w (new L (rdN r.1 pa w)), r.2 ++ [(L, wordsOf (rdB r.1 pa w))])) (s, [])
      ∃ t, exec i s = .next t ∧ GoesOn r.1 t c (nextPc s c i) (pend r.2) (if ret then id else countedIn)) ∧
    (f.sp = 1 → (ret = true → (countedIds c).length < 16) → (∀ L ∈ lanes c.exm, Reaches s c 1 (ad L) w .rw (pg L)) →
      let r := (lanes c.exm).foldl (fun (r : State × List (Nat × List Word)) L =>
        let old := (teamAt r.1 c.teamKey).scratch
        (barTouch (scW r.1 c.teamKey (ad L) (natBytes w (new L (bytesNat (Memory.bytes old (ad L) w))))) c.teamKey [(ad L, w)],
          r.2 ++ [(L, wordsOf (Memory.bytes old (ad L) w))])) (started s c, [])
      let d := crewAt r.1 s.cur
      ∃ t, exec i s = .next t ∧ GoesOn r.1 t d (nextPc s c i) (if ret then withResult d f.d.toNat r.2 else d.pend) id)

/-- R219, R220, R222: LDF and LDGF give each active lane its element of a formatted page, widened exactly; STF writes each lane's value rounded to the page's format, or re-encodes the block
that its lanes name. Here every lane can complete.
That an LDF of N 64 on a sparse page writes a pair (log entry 48), and the order of the lanes and blocks of an STF (log entry 37), are the model's choices. -/
def Obligations.FormattedPagesDecodeAndEncode : Prop :=
  let lead := fun (i : Instr) (f : MF) (us : List Use) (s : State) (c : Crew) => Clear s c i us ∧ f.sp = 0 ∧ f.os.toNat ≤ 4 ∧ (countedIds c).length < 16 ∧ Intact s
  (∀ (f : MF) (s : State) (c : Crew) (pg : Nat → Pg) (ws : Nat → List Word), lead (.ldf f) f (addrUses f ++ [useV f.d 1 true]) s c →
    (∀ L ∈ lanes c.exm,
      let a := addrOf (seen s c) f L
      let p := pg L
      let n := (geomN p.geom).getD 16
      a < 2 ^ 56 ∧ (xlate s (whoOf c c.pc) a .rd).2 = .ok p ∧ noFormat p = false ∧
      (if isBfp p.fmt ∨ p.sparse then (n = 64 → f.d.toNat % 2 = 0 ∧ (hazardOn c = true → hazardOf c c.seq [useV (f.d + 1) 1 true] = none)) ∧ (blockElems s (whoOf c c.pc) p n (if p.sparse then frameBytes p n else blockBytes (p.fmt - 6) n) a
          (if n = 64 then [L, L + 32] else [L % n])).2 = .ok (ws L)
        else a % fmtWidth p.fmt = 0 ∧ ws L = [widen p.fmt (rdN s (p.pa a) (fmtWidth p.fmt))])) →
    ∃ t, exec (.ldf f) s = .next t ∧ GoesOn s t c (nextPc s c (.ldf f)) (withResult c f.d.toNat ((lanes c.exm).map (fun L => (L, ws L)))) id) ∧
  (∀ (f : MF) (s : State) (c : Crew) (bp pg : Nat → Pg) (ws : Nat → List Word), lead (.ldgf f) f (addrUses f ++ [useV f.d 1 true]) s c → f.b ≠ 31 → f.a ≠ 0 →
    (∀ L ∈ lanes c.exm,
      let base := (sgetL2 (seen s c) (2 * f.b.toNat) L).toNat
      let p := bp L
      base < 2 ^ 56 ∧ (xlate s (whoOf c c.pc) base .rd).2 = .ok p ∧ noFormat p = false ∧ p.sparse = false ∧
      let i := (vget (seen s c) f.a.toNat L).toInt
      let n := (geomN p.geom).getD 16
      let k := blockBytes (p.fmt - 6) n
      let bo : Int := base - p.va0 + i / n * k
      let a := (BitVec.ofInt 64 (base + i * fmtWidth p.fmt)).toNat
      (if isBfp p.fmt then (base - p.va0) % k = 0 ∧ 0 ≤ bo ∧ bo + k ≤ p.size ∧
        (blockElems s (whoOf c c.pc) p n k (p.va0 + bo.toNat) [(i % n).toNat]).2 = .ok (ws L)
      else base % fmtWidth p.fmt = 0 ∧ a < 2 ^ 56 ∧ (xlate s (whoOf c c.pc) a .rd).2 = .ok (pg L) ∧ (pg L).fmt = p.fmt ∧ (pg L).sparse = false ∧ noFormat (pg L) = false ∧
        ws L = [widen p.fmt (rdN s ((pg L).pa a) (fmtWidth p.fmt))])) →
    ∃ t, exec (.ldgf f) s = .next t ∧ GoesOn s t c (nextPc s c (.ldgf f)) (withResult c f.d.toNat ((lanes c.exm).map (fun L => (L, ws L)))) id) ∧
  (∀ (f : MF) (s : State) (c : Crew), lead (.stf f) f ([useV f.d 1 false] ++ addrUses f) s c → s.regions = [] →
    let x := ctxOf s c (.stf f)
    let s0 := started s c
    pairHazard s0 x f false = none →
    (c.strict = true → holdsToken s c = false → ∀ L ∈ lanes c.exm, ∀ p, (xlate s (whoOf c c.pc) (addrOf (seen s c) f L) .wr).2 = .ok p → p.ord = false) →
    (∀ L ∈ lanes c.exm, ∀ e, (stfJudge s0 x f L).2 ≠ .fault e) →
    (∃ t, exec (.stf f) s = .next t ∧ GoesOn (stfRun x f s0).s t c (nextPc s c (.stf f)) c.pend countedIn) ∧
    (∀ pg : Nat → Pg, (∀ L ∈ lanes c.exm, (stfJudge s0 x f L).2 = .elem (pg L) (addrOf (seen s c) f L)) →
      (stfRun x f s0).s.mem = (lanes c.exm).foldl (fun m L =>
        let v := (vget (seen s c) f.d.toNat L).toNat
        let w := fmtWidth (pg L).fmt
        Memory.writes m ((pg L).pa (addrOf (seen s c) f L)) (natBytes w (if w = 4 then v else (cvtFF F32 (fmtOf (pg L).fmt) (seen s c).rnd v).1))) s.mem) ∧
    (∀ (p : Pg) (a n k : Nat), (∀ L ∈ lanes c.exm, (stfJudge s0 x f L).2 = .block p a n k) →
      let b := p.fmt - 6
      let old := rdB s (p.pa a) k
      let e := bfpEnc b p.srnd ((a - p.va0) / k) ((List.range n).map (fun i =>
        match ((lanes c.exm).filter (fun L => L % n == i || (n == 64 && L + 32 == i))).getLast? with
        | some L => (vget (seen s c) (if n = 64 ∧ L + 32 = i then f.d.toNat + 1 else f.d.toNat) L).toNat
        | none => bfpF32 b (at_ old 0 1) (bfpMant b (bytesNat (old.drop 1)) i)))
      (stfRun x f s0).s.mem = Memory.writes s.mem (p.pa a) (BitVec.ofNat 8 e.E :: natBytes (k - 1) (bfpPack b e.m))))

/-- R225: TLOOK gives each active lane the slot of the team's entry with its tag, or all ones; TSET moves each lane's tag into its slot, TDROP clears the entry with it, and TINV every entry
of the team on the isle; a slot of 1024 or above traps RANGE (0x13) with the slot in `tva`.
R223: LDC loads 64 words into constant bank D from an address that is a multiple of 4; the bank is busy until the load completes, and no other word of a bank changes. -/
def Obligations.TagStoresAndConstantBanks : Prop :=
  (
  (∀ (f : MF) (s : State) (c : Crew), Clear s c (.tlook f) [useV f.a 1 false, useV f.d 1 true] → (countedIds c).length < 16 →
    ∃ t, exec (.tlook f) s = .next t ∧ GoesOn s t c (nextPc s c (.tlook f)) (withResult c f.d.toNat ((lanes c.exm).map (fun L =>
      (L, [((s.tags.find? (fun p => p.1 / 1024 == isleOf c.gcrew && p.2.team == c.teamKey && p.2.tag == vget (seen s c) f.a.toNat L)).map
        (fun p => BitVec.ofNat 32 (p.1 % 1024))).getD (BitVec.allOnes 32)])))) id) ∧
  (∀ (f : MF) (s : State) (c : Crew), Clear s c (.tset f) [useV f.d 1 false, useV f.a 1 false] →
    let slot := fun L => (vget (seen s c) f.d.toNat L).toNat
    ((∀ L ∈ lanes c.exm, slot L < 1024) → ∃ t, exec (.tset f) s = .next t ∧ GoesOn ((lanes c.exm).foldl (fun s L =>
      let tag := vget (seen s c) f.a.toNat L
      let s1 := tagDrop s c tag
      { s1 with tags := minsert s1.tags (1024 * isleOf c.gcrew + slot L) { team := c.teamKey, tag := tag } }) s) t c (nextPc s c (.tset f)) c.pend id) ∧
    (∀ L ∈ lanes c.exm, 1024 ≤ slot L → (∀ K ∈ lanes c.exm, K < L → slot K < 1024) →
      let S := (lanes c.exm).foldl (fun s L => if slot L < 1024 then
        let tag := vget (seen s c) f.a.toNat L
        let s1 := tagDrop s c tag
        { s1 with tags := minsert s1.tags (1024 * isleOf c.gcrew + slot L) { team := c.teamKey, tag := tag } } else s) (started s c)
      exec (.tset f) s = .next (takeTrap (updCrew S s.cur (numbered S 1)) s.cur
        { cause := 0x13, tva := BitVec.ofNat 64 (slot L), tmask := c.exm, pcm := maskOf (fun K => c.exm.getLsbD K && decide (slot K < 1024)), pcAt := c.pc
          pcNext := nextPc s c (.tset f), stamps := c.stamp, seq := c.seq }))) ∧
  (∀ (f : MF) (s : State) (c : Crew), Clear s c (.tdrop f) [useV f.a 1 false] → ∃ t, exec (.tdrop f) s = .next t ∧
    GoesOn ((lanes c.exm).foldl (fun s L => tagDrop s c (vget (seen s c) f.a.toNat L)) s) t c (nextPc s c (.tdrop f)) c.pend id) ∧
  (∀ (s : State) (c : Crew), Clear s c .tinv [] → ∃ t, exec .tinv s = .next t ∧
    GoesOn { s with tags := s.tags.filter (fun p => !(p.1 / 1024 == isleOf c.gcrew && p.2.team == c.teamKey)) } t c (nextPc s c .tinv) c.pend id)) ∧
  (
  ∀ (f : MF) (s : State) (c : Crew) (pg : Nat → Pg), Clear s c (.ldc f) (addrUses f) → f.sp.toNat ≤ 1 → f.os = 0 → f.b ≠ 31 → f.a = 0 → f.d.toNat < 16 →
    (countedIds c).length < 16 → Intact s →
    let a := addrOf (seen s c) f 0
    a % 4 = 0 → (f.sp = 0 → a + 256 ≤ 2 ^ 56) → (f.sp = 1 → a + 256 ≤ (teamAt s c.teamKey).size) →
    (∀ n < 64, Reaches s c f.sp.toNat (a + 4 * n) 4 .rd (pg n)) →
    ∃ t banks, exec (.ldc f) s = .next t ∧
      GoesOn s t c (nextPc s c (.ldc f)) c.pend (fun d => countedIn { d with banks := banks, ldcBusy := d.ldcBusy ++ [(f.d.toNat, c.seq)] }) ∧
      ∀ n, mget 0 banks n = if n / 64 = f.d.toNat then BitVec.ofNat 32 (bytesNat (spaceBytes s c f.sp.toNat (a + 4 * (n % 64)) 4 (pg (n % 64)))) else mget 0 c.banks n)

/-- R227, R224, R171, R111 (R84): TOKW goes on once its crew holds the token or is not strict; TOKP passes the token to the next crew that has not retired and traps ORDNOTOK (0x06) without it;
PFETCH, FENCE, NOP and K.NOP go on and change nothing else. -/
def Obligations.TokenPrefetchFenceAndNop : Prop :=
  (∀ (s : State) (c : Crew), Clear s c .tokw [] → (c.strict = true → holdsToken s c = true) → ∃ t, exec .tokw s = .next t ∧ GoesOn s t c (nextPc s c .tokw) c.pend id) ∧
  (∀ (s : State) (c : Crew), Clear s c .tokp [] →
    (c.strict = false → ∃ t, exec .tokp s = .next t ∧ GoesOn s t c (nextPc s c .tokp) c.pend id) ∧
    (holdsToken s c = true → ∃ t, exec .tokp s = .next t ∧ GoesOn (passToken s c.lid c.lcid) t c (nextPc s c .tokp) c.pend id) ∧
    (c.strict = true → holdsToken s c = false → exec .tokp s = .next (trapped (started s c) c .tokp 0x06 0))) ∧
  (∀ (s : State) (c : Crew), let f : MF := { os := 0, sp := 0, b := (s.ir.aux >>> 12).setWidth 5, a := (s.ir.aux >>> 6).setWidth 6, d := 0 }
    Clear s c .pfetch (addrUses f) → auxOk .pfetch s.ir.aux = true → ∃ t, exec .pfetch s = .next t ∧ GoesOn s t c (nextPc s c .pfetch) c.pend id) ∧
  (∀ (s : State) (c : Crew), Clear s c .fence [] → auxOk .fence s.ir.aux = true → (s.ir.aux >>> 19).toNat ≤ 4 →
    ∃ t, exec .fence s = .next t ∧ GoesOn s t c (nextPc s c .fence) c.pend id) ∧
  ∀ i ∈ [Instr.nop, Instr.kNop], ∀ (s : State) (c : Crew), Clear s c i [] → ∃ t, exec i s = .next t ∧ GoesOn s t c (nextPc s c i) c.pend id

/-! ## Control, barriers and special registers (07_crew_state_and_control.md) -/

/-- R194, R163 (registers of R195): WRSR writes the register that its index names: per lane for `stamp` and `fflags`, from the lowest active lane for the crew-wide ones; a write of a read-only or
unassigned register changes nothing, but for the unassigned ones in a handler, which trap PRIV (0x02). A write of `exm` makes the lanes of its value LIVE and the other active lanes HELD. -/
def Obligations.SpecialRegisterWrites : Prop :=
  ∀ (f : IF) (s : State) (c : Crew), Clear s c (.wrsr f) [useV f.d 1 false] →
    let i := f.imm.toNat % 4096
    let nx := nextPc s c (.wrsr f)
    let g := fun L => vget (seen s c) f.d.toNat L
    let w := g (lowest c.exm)
    let writes := fun (u : Crew → Crew) => ∃ t, exec (.wrsr f) s = .next t ∧ GoesOn s t c nx c.pend u
    let bank := fun (u : TrapBank → TrapBank) => writes (fun d => setBank d (u (bankOf d)))
    (i = 0x20 ∨ i = 0x21 → ∃ st, writes (fun d => { d with stamp := st }) ∧ ∀ L < 32, mget 0 st L = if c.exm.getLsbD L then
      (if i = 0x20 then (stampOf c L).extractLsb' 32 32 ++ g L else g L ++ (stampOf c L).extractLsb' 0 32) else stampOf c L) ∧
    (i = 0x30 → writes (fun d => { d with rnd := w.setWidth 2 })) ∧
    (i = 0x31 → ∃ ff, writes (fun d => { d with fflags := ff }) ∧ ∀ L < 32, mget 0 ff L = if c.exm.getLsbD L then g L &&& 0x1F else flagsOf c L) ∧
    (i = 0x32 → writes (fun d => { d with cbank := w.setWidth 4 })) ∧
    (i = 0x41 → bank (fun b => { b with tpc := w })) ∧ (i = 0x42 → bank (fun b => { b with tmask := w })) ∧
    (i = 0x43 → bank (fun b => { b with tva := b.tva.extractLsb' 32 32 ++ w })) ∧ (i = 0x44 → bank (fun b => { b with tva := w ++ b.tva.extractLsb' 0 32 })) ∧
    (i = 0x45 → bank (fun b => { b with pcm := w })) ∧ (i = 0x48 → expertOf c 0 = true → writes (fun d => { d with hazEn := w.setWidth 1 })) ∧
    (i ∉ [0x00, 0x20, 0x21, 0x30, 0x31, 0x32, 0x41, 0x42, 0x43, 0x44, 0x45, 0x48] ∨ (i = 0x48 ∧ expertOf c 0 = false) →
      srRead s s.cur c 0 i ≠ none ∨ c.tdepth = 0 → writes id) ∧
    (srRead s s.cur c 0 i = none → c.tdepth ≠ 0 → exec (.wrsr f) s = .next (trapped s c (.wrsr f) 0x02 0)) ∧
    (i = 0x00 → ∃ t m, exec (.wrsr f) s = .next t ∧ OnlyCrew s t (after c m) ∧ FormsSplit (after c m) (fun L =>
      if c.exm.getLsbD L then { st := if w.getLsbD L then .live else .held, resume := nx }
      else if (frGet c.fr L).st = .held ∧ w.getLsbD L then { st := .live, resume := nx } else frGet c.fr L))

/-- R165, R166, R167: a branch sends each active lane where its row says, to the word after the instruction plus twice the signed offset where its condition holds; CALL links the next
address in vC:vC+1; BRX and RET go to each lane's own address, and trap MISALIGN (0x05) with the lowest lane's bad one in `tva`.
R168: EXIT ends its active lanes, in the frontier and in every saved one; the other lanes go on as R162 forms the split. Here some lane of the depth is left, or the crew is at depth 0 and no
fault of it is held. -/
def Obligations.BranchesAndExitSendLanes : Prop :=
  (
  let tgt := fun (s : State) (c : Crew) (i : Instr) (f : BF) => nextPc s c i + BitVec.ofInt 56 (2 * f.off.toInt)
  (∀ p ∈ ([(.bra, fun _ => [], fun _ _ _ => True), (.brz, fun f => [useV f.c 1 false], fun c f L => vget c f.c.toNat L = 0),
      (.brs, fun f => [useV f.c 1 false], fun c f L => vget c f.c.toNat L ≠ 0), (.bru, fun f => [useS f.c 1 false], fun c f L => (sgetL c f.c.toNat L).getLsbD L = true)] :
      List ((BF → Instr) × (BF → List Use) × (Crew → BF → Nat → Prop))),
    ∀ f s c, Clear s c (p.1 f) (p.2.1 f) → ∃ t go, exec (p.1 f) s = .next t ∧ Branches s t c go id ∧
      ∀ L, (p.2.2 (seen s c) f L → go L = tgt s c (p.1 f) f) ∧ (¬ p.2.2 (seen s c) f L → go L = nextPc s c (p.1 f))) ∧
  (∀ f s c, Clear s c (.call f) [useV f.c 2 true] → ∃ t v, exec (.call f) s = .next t ∧ Branches s t c (fun _ => tgt s c (.call f) f) (fun d => { d with v := v }) ∧
    ∀ L < 32, ∀ r, mget 0 v (32 * r + L) = if c.exm.getLsbD L ∧ (r = f.c.toNat ∨ r = f.c.toNat + 1) then
      (if r = f.c.toNat then (nextPc s c (.call f)).setWidth 32 else ((nextPc s c (.call f)) >>> 32).setWidth 32) else vget c r L) ∧
  (∀ f s c,
    let jumps := fun (i : Instr) (t : Nat → Dword) =>
      ((∀ L ∈ lanes c.exm, (t L).getLsbD 0 = false ∧ (t L).toNat < 2 ^ 56) → ∃ u, exec i s = .next u ∧ Branches s u c (fun L => (t L).setWidth 56) id) ∧
      (∀ L ∈ lanes c.exm, (t L).getLsbD 0 = true ∨ 2 ^ 56 ≤ (t L).toNat → (∀ K ∈ lanes c.exm, K < L → (t K).getLsbD 0 = false ∧ (t K).toNat < 2 ^ 56) →
        exec i s = .next (trapped (started s c) c i 0x05 (t L)))
    (Clear s c (.brx f) (useSrc f.k1 f.s1 2) → f.k1 ≠ 3 → oddConst f.k1 f.s1 2 = false → (f.k1 = 2 → BankIdle c f) →
      jumps (.brx f) (fun L => (src64 (seen s c) .i64 f.k1 f.s1 none L).1)) ∧
    (Clear s c (.ret f) [useV f.s1 2 false] → jumps (.ret f) (vget2 (seen s c) f.s1.toNat)))) ∧
  (
  ∀ (s : State) (c : Crew), Clear s c .exit [] → c.timeline = false →
    let left := ∃ L < 32, c.exm.getLsbD L = false ∧ ((frGet c.fr L).st = .live ∨ (frGet c.fr L).st = .held)
    let ends := fun (m : Map LaneEntry) (L : Nat) => if c.exm.getLsbD L then { frGet m L with st := .ended } else frGet m L
    left ∨ (c.tdepth = 0 ∧ c.held = []) → ∃ t w sh1 sh2, exec .exit s = .next t ∧
      OnlyCrew s t { after c w with sh1 := sh1, sh2 := sh2 } ∧ FormsSplit { after c w with sh1 := sh1, sh2 := sh2 } (ends c.fr) ∧
      (∀ L < 32, frGet sh1 L = if c.tdepth = 0 then frGet c.sh1 L else ends c.sh1 L) ∧ (∀ L < 32, frGet sh2 L = if c.tdepth = 2 then ends c.sh2 L else frGet c.sh2 L))

/-- R169, R170: after YIELD the crew waits until every other ready crew of its slot has issued, for the model each of those that were ready at the YIELD (log entry 47), or until 64 cycles have passed; after SLEEP it waits until `clock` reaches the value of its row, and as after YIELD where that is reached already. YIELD_EXPIRY and
SLEEP_WAKE end those waits at their times and change nothing else. -/
def Obligations.YieldAndSleep : Prop :=
  (∀ (s : State) (c : Crew), Clear s c .yield [] → ∃ t, exec .yield s = .next t ∧ GoesOn s t c (nextPc s c .yield) c.pend (fun d => { d with wait := .yield s.clock })) ∧
  (∀ (f : SF) (s : State) (c : Crew), ∀ p ∈ ([(.sleep f, [useS f.d 1 false], s.clock + (sget (seen s c) f.d.toNat).toNat),
      (.sleepClk f, [useS f.d 2 false], (sget (seen s c) (f.d.toNat + 1) ++ sget (seen s c) f.d.toNat).toNat), (.sleepCount f, [], s.clock + f.code.toNat % 4096)] :
      List (Instr × List Use × Nat)),
    Clear s c p.1 p.2.1 → ∃ t, exec p.1 s = .next t ∧
      GoesOn s t c (nextPc s c p.1) c.pend (fun d => { d with wait := if p.2.2 ≤ s.clock then .yield s.clock else .sleep p.2.2 })) ∧
  (∀ (s : State) (n : Nat), (crewAt s s.arg.crew).wait = .yield n → n + 64 ≤ s.clock →
    exec .yieldExpiry s = .next (updCrew s s.arg.crew (fun d => { d with wait := .none, readySince := max d.readySince s.clock }))) ∧
  (∀ (s : State) (n : Nat), (crewAt s s.arg.crew).wait = .sleep n → n ≤ s.clock →
    exec .sleepWake s = .next (updCrew s s.arg.crew (fun d => { d with wait := .none, readySince := max d.readySince s.clock }))) ∧
  (∀ (s : State) (k t : Nat) (c : Crew), c.wait = .yield t → (ready s k c = true ↔ upright c = true ∧
    (t + 64 ≤ s.clock ∨ ∀ p ∈ s.crews, p.1 ≠ k → readyNow s p.1 p.2 = true → sameSlot p.2 c = true → t < p.2.readySince)))

/-- R175, R176, R177 (with R174): each barrier instruction on a good object. An arrival takes 1 from PENDING, where it is not 0, and waits until the generation moves on; BARA gives the generation and
goes on; BARW waits while GEN is still g; BARC first finds its lanes converged; BARI makes the object anew. An arrival at PENDING 0 waits until the object accepts it (R174).
R173 (with R172): an update of a barrier object changes PENDING, INBYTES and OUTBYTES by its amounts modulo 2^32; when all three are then zero the phase completes: GEN rises by 1 modulo 16 and
PENDING becomes COUNT. The other bytes of the scratchpad stay, and so does all else where no arrival waits for the object. -/
def Obligations.BarriersAndTheirObjects : Prop :=
  (
  ∀ (f : TF) (s : State) (c : Crew),
    let tm := teamAt s c.teamKey
    let off := (opA (seen s c) .i32 f 0).toNat
    let good := (f.k1 = 1 ∨ f.k1 = 2) ∧ off < 2 ^ 19 ∧ off % 16 = 0 ∧ off + 16 ≤ tm.size
    let gen := barGen tm off
    let N := nameObj (started s c) c.teamKey off
    let S := barUpd (started s c) c.teamKey off (-1) 0 0 false
    let e := crewAt S s.cur
    let a := useSrc f.k1 f.s1 1
    let b := useSrc f.k2 f.s2 1
    let pending := scN tm (off + 4) 4 ≠ 0
    let arrives := fun (i : Instr) (conv : Bool) =>
      (pending → ∃ t, exec i s = .next t ∧ GoesOn S t e (nextPc s c i) e.pend (fun d =>
        { d with wait := if barGen (teamAt S c.teamKey) off = gen then .barrier off gen conv else .none })) ∧
      (¬ pending → ∃ t, exec i s = .next t ∧ GoesOn N t c (nextPc s c i) c.pend (fun d => { d with wait := .arrive off conv none }))
    good → BankIdle c f →
    (Clear s c (.bar f) a → barConv tm off = false → arrives (.bar f) false) ∧
    (Clear s c (.barc f) a → barConv tm off = true →
      (∀ L < 32, (frGet c.fr L).st = .absent ∨ frGet c.fr L = { st := .live, resume := c.pc }) → arrives (.barc f) true) ∧
    (Clear s c (.bara f) (a ++ [useS f.d 1 true]) → barConv tm off = false →
      (pending → ∃ t, exec (.bara f) s = .next t ∧ GoesOn S t e (nextPc s c (.bara f)) (sset e f.d.toNat (BitVec.ofNat 32 gen)).pend
        (fun d => { d with sreg := mset 0 e.sreg f.d.toNat (BitVec.ofNat 32 gen) })) ∧
      (¬ pending → ∃ t, exec (.bara f) s = .next t ∧
        GoesOn N t c (nextPc s c (.bara f)) c.pend (fun d => { d with wait := .arrive off false (some f.d.toNat) }))) ∧
    (Clear s c (.barw f) (a ++ b) → f.k2 ≠ 0 → f.e = none → barConv tm off = false → ∃ t, exec (.barw f) s = .next t ∧
      let g := (opB (seen s c) .i32 f 0).toNat % 16
      GoesOn N t c (nextPc s c (.barw f)) c.pend (fun d => { d with wait := if gen = g then .barrier off g false else .none })) ∧
    (Clear s c (.bari f) (a ++ b) → f.k2 ≠ 0 →
      let n := (opB (seen s c) .i32 f 0).toNat
      let conv := f.d.toNat % 2 = 1
      0 < n → n < 65536 → (conv → off ∈ tm.conv ∨ tm.conv.length < 4) →
        let T := barUpd { started s c with teams := mmodify s.teams c.teamKey (fun m => { m with
          scratch := Memory.writes m.scratch off (natBytes 4 (65536 * n + (if conv then 16 else 0)) ++ natBytes 4 n ++ natBytes 8 0)
          conv := if conv then (if off ∈ tm.conv then m.conv else m.conv ++ [off]) else m.conv.filter (fun o => o != off) }) } c.teamKey off 0 0 0 true
        ∃ t, exec (.bari f) s = .next t ∧ GoesOn T t (crewAt T s.cur) (nextPc s c (.bari f)) (crewAt T s.cur).pend id)) ∧
  (
  ∀ (s : State) (tk off : Nat) (dp di do_ : Int) (plain : Bool) (tm : Team), mfind s.teams tk = some tm →
    let u := teamAt (barPass s tk off dp di do_ plain).1 tk
    let upd := fun (o : Nat) (x : Int) => (BitVec.ofNat 32 (scN tm (off + o) 4) + BitVec.ofInt 32 x).toNat
    let fin := upd 4 dp = 0 ∧ upd 8 di = 0 ∧ upd 12 do_ = 0
    let w := scN tm off 4
    scN u (off + 4) 4 = (if fin then w / 65536 else upd 4 dp) ∧ scN u (off + 8) 4 = upd 8 di ∧ scN u (off + 12) 4 = upd 12 do_ ∧
    scN u off 4 = w / 65536 * 65536 + w / 16 % 2 * 16 + (if fin then (w + 1) % 16 else w % 16) ∧
    (∀ a, a < off ∨ off + 16 ≤ a → Memory.read u.scratch a = Memory.read tm.scratch a) ∧
    (¬ fin ∨ (∀ p ∈ s.crews, p.2.teamKey = tk → ∀ w ∈ p.2.wait :: p.2.waits, arrives off w = false) → barUpd s tk off dp di do_ plain = (barPass s tk off dp di do_ plain).1))

/-! ## Traps, returns and the system instructions (11_crew_traps_and_preemption.md) -/

/-- R245 (with R243, R244): a trap is taken at once when nothing of the crew is outstanding: the depth rises by 1, the bank of the new depth receives cause, imprecise bit, `tpc`, lanes, `pcm`, `xirf`
and `tva`, the frontier goes to that depth's shadow, and the lanes not in `pcm` go on at the vector base plus 64 times the cause; every register stays.
R246: a trap at depth 2, of a crew without a trap vector, or whose address `tpc` cannot hold halts the crew as DOUBLE: it keeps its registers, frontier and depth, and a DOUBLE record
(0x60) is written. -/
def Obligations.TrapEntryAndDoubleTraps : Prop :=
  (
  ∀ (s : State) (k : Nat) (c : Crew) (r : TrapReq) (vec : BitVec 56) (off : Word), mfind s.crews k = some c → c.pend = [] → c.park = none → pagesFirst c r = none →
    c.vecBase = some vec → r.pcAt = c.text + off.signExtend 56 → c.tdepth.toNat < 2 → c.trace.traced = false →
    r.tmask &&& ~~~r.pcm ≠ 0 →
    let t := takeTrap s k r
    let b : TrapBank := { tsr := BitVec.ofNat 32 (r.cause.toNat + (if r.impr then 256 else 0)), tpc := off, tmask := r.tmask, pcm := r.pcm, xirf := r.xirf, tva := r.tva
                          pcAt := r.pcAt, pcNext := r.pcNext, seq := r.seq }
    let at_ := vec + BitVec.ofNat 56 (64 * r.cause.toNat)
    (∀ j, j ≠ k → mfind t.crews j = mfind s.crews j) ∧ t = { s with crews := t.crews } ∧
    ∃ fr held, mfind t.crews k = some { c with
        tdepth := c.tdepth + 1, fr := fr, pc := at_, exm := r.tmask &&& ~~~r.pcm, trapReq := none, waits := c.wait :: c.waits, wait := .none, markerWait := false, held := held
        bank1 := if c.tdepth = 0 then b else c.bank1, sh1 := if c.tdepth = 0 then c.fr else c.sh1
        bank2 := if c.tdepth = 0 then c.bank2 else b, sh2 := if c.tdepth = 0 then c.sh2 else c.fr } ∧
      ∀ L < 32, frGet fr L = if (r.tmask &&& ~~~r.pcm).getLsbD L then { st := .live, resume := at_ } else {}) ∧
  (
  ∀ (s : State) (k : Nat) (c : Crew) (r : TrapReq), mfind s.crews k = some c → c.pend = [] → c.park = none → pagesFirst c r = none →
    (c.vecBase = none ∨ c.tdepth = 2 ∨ tpcOf c.text r.pcAt = none) → ∃ mw held,
      takeTrap s k r = postRec (updCrew s k (fun _ => { c with halt := .double, trapReq := none, markerWait := mw, held := held })) 
        { typ := 0x60, impr := r.impr, gcrew := c.gcrew, lid := BitVec.ofNat 32 c.lid, part := c.part, addr := r.tva, pc := r.pcAt.setWidth 64, lanes := r.tmask, pcm := r.pcm
          stamp := stampIn r.stamps (lowest r.tmask), detail := BitVec.ofNat 64 (r.cause.toNat + 256 * (c.tdepth.toNat + 1)) } (.crew k))

/-- R131, R133, R247, R256: TRAP raises TRAPSW (0x50) precisely with S1's value; ILL, and any instruction that breaks an encoding rule for its crew or that low-water service does not have (R442), raises ILLOP
(0x01) with its words; a privileged instruction at depth 0 raises PRIV (0x02); and the HAZARD check, where it is in force, raises HAZARD (0x04) for a register that any instruction names with an outstanding
producer. `coreOf` gives each encoded instruction but RETT, which has no operand, its limits and the registers that it names. -/
def Obligations.PreciseTrapsAtIssue : Prop :=
  (∀ f s c, Clear s c (.trap f) (useSrc f.k1 f.s1 1) → f.k1 ≠ 0 → BankIdle c f →
    exec (.trap f) s = .next (trapped (started s c) c (.trap f) 0x50 ((opA (seen s c) .i32 f 0).setWidth 64))) ∧
  (∀ (s : State) (c : Crew), mfind s.crews s.cur = some c → c.xir = none → c.trace.traced = false →
    (exec .ill s = .next (trapped s c .ill 0x01 (illWord .ill s.ir))) ∧
    (∀ i ∈ [Instr.rett, .rettSkip, .ctxsw, .ctxswHalt], c.tdepth = 0 → (lowWater s = false ∨ lowStops i = false) → c.saving = none → exec i s = .next (trapped s c i 0x02 0)) ∧
    ∀ i o, coreOf i s.ir.aux = some o →
      (i.wf = false ∨ o.uses.any (useBad c) = true ∨ o.illop c s = true ∨ (lowWater s = true ∧ lowStops i = true) → exec i s = .next (trapped s c i 0x01 (illWord i s.ir))) ∧
      ∀ v, illegalFor i o c s = false → o.priv = false → o.privIf c s = false → hazardOn c = true → hazardOf c c.seq o.uses = some v → exec i s = .next (trapped s c i 0x04 v))

/-- R251 (with R250, R178): RETT at depth 1 or 2 comes back to the saved frontier: after a precise trap the trapping lanes that did not complete go to `tpc` (with skip, past the instruction), those that
completed go past it, and the other lanes and the crew's wait are as they were saved. Here no lane is to be replayed.
R256, R253, R254: SVC writes an SVC record (0x80) with its two operands when the queue has room for one, and in sD whether it did; CTXSW begins a save of its crew alone, which completes at once when
no result that it drains is outstanding. -/
def Obligations.ReturnsServiceCallsAndSwitches : Prop :=
  (
  ∀ p ∈ [(Instr.rett, false), (Instr.rettSkip, true)], ∀ (s : State) (c : Crew), Clear s c p.1 [] → c.tdepth ≠ 0 → c.tdepth ≠ 3 →
    let b := bankOf c
    let sh := if c.tdepth = 1 then c.sh1 else c.sh2
    (p.2 = true ∨ b.tsr.getLsbD 8 = false) → ∃ t fr pc exm w, exec p.1 s = .next t ∧
      let c' : Crew := { after c w with
        fr := fr, pc := pc, exm := exm, tdepth := c.tdepth - 1, wait := rewait s c, waits := c.waits.tail
        bank1 := if c.tdepth = 1 then {} else { c.bank1 with xirf := 0 }, bank2 := if c.tdepth = 1 then c.bank2 else {}
        sh1 := if c.tdepth = 1 then [] else c.sh1, sh2 := if c.tdepth = 1 then c.sh2 else [] }
      OnlyCrew s t c' ∧ FormsSplit c' (fun L =>
        if b.tmask.getLsbD L ∧ (frGet sh L).st ≠ .ended ∧ b.tsr.getLsbD 8 = false then
          (if b.pcm.getLsbD L ∨ p.2 = true then { frGet sh L with resume := b.pcNext } else { st := .live, resume := BitVec.ofInt 56 (c.text.toInt + b.tpc.toInt) })
        else frGet sh L)) ∧
  (
  (∀ f s c, Clear s c (.svc f) (useSrc f.k1 f.s1 1 ++ useSrc f.k2 f.s2 1 ++ [useS f.d 1 true]) → f.k1 ≠ 0 → f.k2 ≠ 0 → BankIdle c f →
    let S := flushRecs (s.faultq.waiting.length + 2) (started s c)
    let ok := recRoom S
    let S1 := if ok then putRec S { typ := 0x80, gcrew := c.gcrew, lid := BitVec.ofNat 32 c.lid, part := c.part, pc := c.pc.setWidth 64, lanes := c.exm
                                    stamp := stampOf c (lowest c.exm), detail := opB (seen s c) .i32 f 0 ++ opA (seen s c) .i32 f 0 } .nobody else S
    let v : Word := if ok then 1 else 0
    ∃ t, exec (.svc f) s = .next t ∧ GoesOn S1 t c (nextPc s c (.svc f)) (sset c f.d.toNat v).pend (fun d => { d with sreg := mset 0 c.sreg f.d.toNat v })) ∧
  (∀ p ∈ [(Instr.ctxsw, false), (Instr.ctxswHalt, true)], ∀ (s : State) (c : Crew), Clear s c p.1 [] → c.tdepth ≠ 0 → ∃ t, exec p.1 s = .next (trySave t s.cur) ∧
    GoesOn s t c (nextPc s c p.1) c.pend (fun d => { d with saving := some s.clock, alone := true, ctxHalt := p.2 })))

/-- R17, R19, R127, R283: REGISTER_RESULT_RETURN writes each register of a returned result, no other register, and ends the result; a copy whose status word it is frees its entry. Here no other instruction has written those registers meanwhile, no
lane of them has ended, the crew is resident, and no fault of it is held.
R215, R248 (with R216): a lane whose page denies its access faults imprecisely: the instruction goes on, and the fault is held with its cause (here ACCESS, 0x11), the address of the lowest such
lane, and the lanes that performed. -/
def Obligations.ResultsReturnAndFaultsAreHeld : Prop :=
  (
  ∀ (s : State) (c : Crew) (p : Pend), mfind s.crews s.arg.crew = some c → c.pend.find? (fun q => q.id == s.arg.a) = some p → p.ready = true →
    (∀ g ∈ p.targets, g.contended = false ∧ (g.file = .vector → laneEnded c g.lane = false)) → c.saved = false → c.saving = none → c.held = [] → c.trace.traced = false → ∃ t mw, exec .registerResultReturn s = .next t ∧
      let c' : Crew := { c with
        pend := c.pend.filter (fun q => q.id != s.arg.a), markerWait := mw
        v := (p.targets.filter (fun g => g.file == .vector)).foldl (fun m g => mset 0 m (32 * g.idx + g.lane) g.val) c.v
        sreg := (p.targets.filter (fun g => g.file == .scalar)).foldl (fun m g => mset 0 m g.idx g.val) c.sreg }
      let S := updCrew s s.arg.crew (fun _ => c')
      t = (match s.copies.find? (fun o => o.ended.isSome && o.crew == s.arg.crew && o.pendId == s.arg.a) with | some o => dropCopy S o | none => S) ∧ (mw = c.markerWait ∨ mw = false) ∧ (c.pend.all (fun q => q.id == s.arg.a) = true → mw = false)) ∧
  (
  ∀ (f : MF) (s : State) (c : Crew) (pg : Nat → Pg) (L : Nat), Clear s c (.ldw f) (addrUses f ++ [useV f.d 1 true]) → f.sp = 0 → f.os.toNat ≤ 4 → (countedIds c).length < 16 → Intact s →
    let ad := addrOf (seen s c) f
    let denied := fun (K : Nat) => (xlate s (whoOf c c.pc) (ad K) .rd).2 = .error 0x11
    L ∈ lanes c.exm → denied L → (∀ K ∈ lanes c.exm, K < L → ¬ denied K) →
    (∀ K ∈ lanes c.exm, addrFault s c 0 (ad K) 4 = none ∧ (denied K ∨ (xlate s (whoOf c c.pc) (ad K) .rd).2 = .ok (pg K))) →
    ∃ t w pcm lns, exec (.ldw f) s = .next t ∧ OnlyCrew s t (after c w) ∧ LanesGoTo c (after c w) (nextPc s c (.ldw f)) ∧
      w.held = c.held ++ [{ addr := c.pc, next := nextPc s c (.ldw f), cause := 0x11, tva := BitVec.ofNat 64 (ad L), tmask := c.exm, pcm := pcm, seq := c.seq, depth := c.tdepth.toNat
                            returning := true, due := false, wr := false, lanes := lns, stamps := c.stamp }] ∧
      (∀ K < 32, pcm.getLsbD K = true ↔ K ∈ lanes c.exm ∧ ¬ denied K))

/-- R108, R134, R245, R248, R252, R253: a word that is no instruction traps ILLOP with its bytes, and a fetch that faults traps with its cause and address; a trap that waited for its crew's results is
taken when they have returned; a held fault that may be delivered is, least key first; and an answer to a record of a parked crew counts, after which the crew leaves its park. -/
def Obligations.FetchFaultsDeliveryAndAnswers : Prop :=
  ∀ (s : State) (c : Crew), let k := s.arg.crew
    let took := fun (s : State) (r : TrapReq) => takeTrap (updCrew s k (numbered s 1)) k { r with stamps := c.stamp, seq := c.seq }
    let free := c.halt = .running ∧ c.saved = false ∧ c.ctxHalt = false ∧ c.saving = none
    mfind s.crews k = some c →
    (∀ s' bs, fetchAt s c c.pc = (s', .bad bs) → c.trace.traced = false → exec .unassignedOpcode s = .next (took s'
      { cause := 0x01, tva := leWord (bs.drop 4) ++ leWord bs, tmask := c.exm, pcAt := c.pc, pcNext := c.pc + BitVec.ofNat 56 bs.length })) ∧
    (∀ s' e a, fetchAt s c c.pc = (s', .fault e a) →
      (e ≠ 0x10 ∨ expertOf c 0 = true → exec .fetchFault s = .next (took s' { cause := e, tva := BitVec.ofNat 64 a, tmask := c.exm, pcAt := c.pc, pcNext := c.pc })) ∧
      (e = 0x10 → expertOf c 0 = false → ∃ t, exec .fetchFault s = .next t ∧ (mfind s'.crews k = some c → ∃ p, (crewAt t k).park = some p ∧ p.left = 1 ∧ p.precise = true))) ∧
    (∀ r, c.trapReq = some r → c.pend = [] → free → c.park = none → pagesFirst c r = none → exec .trapEntry s = .next (takeTrap s k r)) ∧
    (∀ h ∈ c.held, c.trapReq = none → free → c.park = none → c.xir = none → h.due = true → h.depth = c.tdepth.toNat →
      (∀ o ∈ c.held, o ≠ h → o.due = true → o.depth = c.tdepth.toNat → heldKey h < heldKey o) → h.cause ≠ 0x21 → (h.cause = 0x10 → expertOf c 0 = true) →
      exec .faultDelivery s = .next (takeTrap (updCrew s k (fun c => { c with held := c.held.erase h })) k
        { cause := h.cause, tva := h.tva, tmask := h.tmask, pcm := h.pcm, xirf := h.xirf, impr := !h.precise, pcAt := h.addr, pcNext := h.next, stamps := h.stamps, seq := h.seq })) ∧
    (∀ n r st, s.arg.b ≠ 1 → s.faultq.got = [] → s.faultq.open_ = [(n, r, .crew k)] → s.faultq.waiting = [] → s.faultq.dropped = 0 → r.typ ≠ 0x60 →
      rdN s (recAddr s.faultq n + 60) 4 = st → st ≠ 1 → exec .faultRecordAnswer s = .next
        { updCrew s k (fun c => { c with park := c.park.map (fun p => { p with left := p.left - 1, refused := p.refused || st == 3 }) }) with faultq := { s.faultq with open_ := [] } }) ∧
    (∀ p, s.arg.b = 1 → c.park = some p → p.left = 0 → p.refused = false → p.precise = true → free →
      exec .faultRecordAnswer s = .next (updCrew s k (fun c => { c with park := none })))

/-! ## The issue register and the matrix engine (10_crew_issue_register.md, 14_matrix_engine.md) -/

/-- R234 (with R235, R236, R238, R239, R240, R241): XIR issues each distinct word of its active lanes once, for the lanes that hold it, by ascending lowest lane; where every word is legal and none traps, the
crew goes on with what the words came to (here no other crew's turn comes between two of them, R239). Where some lanes hold illegal words, the others' words have issued and their lanes go past the XIR, and XIRWORD
(0x03) is trapped for the illegal ones, with the lowest such lane's word and reason; a word's precise trap ends the XIR, and the lanes that performed go past it. One permitted word alone in all lanes acts as that
instruction does, as IADD shows. -/
def Obligations.IssueRegisterIssuesLaneWords : Prop :=
  ∀ (f : TF) (s : State) (c : Crew), Clear s c (.xir f) [useV f.s1 1 false] →
    let x := ctxOf s c (.xir f)
    let nx := nextPc s c (.xir f)
    let word := fun (L : Nat) => vget (seen s c) f.s1.toNat L &&& 0xFFFFFFFD
    let gs := xirGroups (seen s c) f c.exm
    let q := xirWords x gs { s := started s c }
    let r := q.1
    let forms := fun (c1 : Crew) (m : Mask) (w : Moved) => FormsSplit (after c1 w) (fun L => if m.getLsbD L then { frGet c1.fr L with resume := nx } else frGet c1.fr L)
    let unheld := acqHold s s.cur = false ∧ ∀ g ∈ gs, ∀ p, xirWord (seen s c) s g.1 = .ok p → xirHold x s p.2 g.2 = none
    ((∀ g ∈ gs, g.2 ≠ 0 ∧ ∀ L, g.2.getLsbD L = true ↔ L ∈ lanes c.exm ∧ word L = g.1) ∧ (∀ L ∈ lanes c.exm, ∃ g ∈ gs, g.1 = word L) ∧
      gs.Pairwise (fun a b => a.1 ≠ b.1 ∧ lowest a.2 < lowest b.2)) ∧
    (unheld → q.2 = [] → ∀ c1, mfind r.s.crews s.cur = some c1 → c1.trace.traced = false → c1.wait = .none →
      (r.trap = none → r.bad = 0 → ∃ t w, exec (.xir f) s = .next t ∧ OnlyCrew r.s t (after c1 w) ∧ AtSplit (after c1 w) ∧
        ∀ L < 32, frGet w.fr L = if c.exm.getLsbD L then { st := .live, resume := nx } else frGet c1.fr L) ∧
      (∀ n, r.trap = none → r.bad ≠ 0 → (∀ s', s'.stage = r.s.stage → xirWord (seen s c) s' (word (lowest r.bad)) = .error n) → ∃ S w, OnlyCrew r.s S (after c1 w) ∧
        forms c1 (c.exm &&& ~~~r.bad) w ∧ exec (.xir f) s = .next (takeTrap S s.cur
          { cause := 0x03, tva := BitVec.ofNat 32 n ++ vget (seen s c) f.s1.toNat (lowest r.bad), tmask := r.bad, pcm := c.exm &&& ~~~r.bad, xirf := r.bad, pcAt := c.pc, pcNext := nx
            stamps := c.stamp, seq := c.seq })) ∧
      (∀ e, r.trap = some e → ∃ S w, OnlyCrew r.s S (after c1 w) ∧ forms c1 e.pcm w ∧ exec (.xir f) s = .next (takeTrap S s.cur e))) ∧
    (q.2 = [] → r.trap = none → (∀ g ∈ gs, (∀ s', ∃ n, xirWord (seen s c) s' g.1 = .error n) ∨ ∀ s', ∃ p, xirWord (seen s c) s' g.1 = .ok p) →
      ∀ L, r.bad.getLsbD L = true ↔ L ∈ lanes c.exm ∧ ∃ n, xirWord (seen s c) s (word L) = .error n) ∧
    (∀ w i o, (∀ L ∈ lanes c.exm, word L = w) → xirWord (seen s c) s w = .ok (i, o) → (hazardOn c = true → hazardOf c c.seq o.uses = none) → unheld →
      (∀ S c1, o.run x (started s c) = .done S → mfind S.crews s.cur = some c1 → c1.trace.traced = false → c1.wait = .none → ∃ t m, exec (.xir f) s = .next t ∧ OnlyCrew S t (after c1 m) ∧
        AtSplit (after c1 m) ∧ ∀ L < 32, frGet m.fr L = if c.exm.getLsbD L then { st := .live, resume := nx } else frGet c1.fr L) ∧
      (∀ g, i = .iadd g → BankIdle c g → ∃ t, exec (.xir f) s = .next t ∧
        VectorResult s t c nx g.d.toNat (fun L => ([opA (seen s c) .i32 g L + opB (seen s c) .i32 g L], 0))))

/-- R275, R276, R277, R278 (with R259, R262, R272): MMA, MMASP and MZERO queue an operation on the crew's unit for its active quarters, with their operands read at issue, and it is outstanding on
its accumulator; MLDA's result is the tiles' elements, or waits for the operations outstanding on the accumulator; MWAITC and MWAITD go on once every named bit of `macc` is 1. -/
def Obligations.MatrixInstructionsQueue : Prop :=
  ∀ (f : XF) (s : State) (c : Crew),
    let n := f.acc.toNat
    let qs := activeQ c.exm
    let whole := ∀ q < 4, c.exm &&& quarterMask q = 0 ∨ c.exm &&& quarterMask q = quarterMask q
    let room := (s.matq.filter (fun o => o.isle == isleOf c.gcrew && o.slot == slotOf c.gcrew && o.executed.length < o.quarters.length)).length < 16
    let base := fun (i : Instr) => ({ id := c.seq, isle := isleOf c.gcrew, slot := slotOf c.gcrew, crew := s.cur, team := c.teamKey, pcAt := c.pc, next := nextPc s c i, seq := c.seq
                                      depth := c.tdepth.toNat, quarters := qs, mask := quartersMask qs, rnd := c.rnd, acc := n, stamps := c.stamp } : MatOp)
    let pend := (addPend c { id := c.seq, kind := .matrix, ready := false, drains := true, targets := [{ file := .accum, idx := n, lane := 0, val := 0 }] }).pend
    let queued := fun (i : Instr) (o : MatOp) => let S := { s with matq := s.matq ++ [o] }
      ∃ t, exec i s = .next t ∧ GoesOn S t c (nextPc s c i) pend (fun d => { d with macc := maccOf S s.cur })
    let opnd := fun (bs : BitVec 1) (r : BitVec 6) => if bs = 1 then [useS r 2 false] else [({ file := .vector, idx := r.toNat, n := lineRegs f.fm.toNat } : Use)]
    let desc := fun (bs : BitVec 1) (r : BitVec 6) => if bs = 1 then some (sget2 (seen s c) r.toNat) else none
    let holds := fun (bs : BitVec 1) (r : BitVec 6) (m : Map Word) => if bs = 1 then m = [] else
      ∀ k < lineRegs f.fm.toNat, ∀ L ∈ lanes c.exm, mget 0 m (32 * k + L) = vget (seen s c) (r.toNat + k) L
    let may := n < c.naccs ∧ whole ∧ (countedIds c).length < 16
    (∀ p ∈ ([(.mma f, false), (.mmasp f, true)] : List (Instr × Bool)), may → room → Clear s c p.1 (opnd f.ash f.a ++ opnd f.bs f.b) →
      (if f.ash = 1 ∧ f.bs = 1 then f.fm = 0 else matFmt f.fm.toNat = true) → (p.2 = true → f.ash = 1) →
      descBad (teamAt s c.teamKey).size (expertOf c 1) qs (matDescs (ctxOf s c p.1) f p.2) = none →
      ∃ ra rb, queued p.1 { base p.1 with
        sparse := p.2, fmtA := f.fm.toNat, fmtB := f.fm.toNat, rot := expertOf c 1, regA := ra, regB := rb, aDesc := desc f.ash f.a, bDesc := desc f.bs f.b } ∧
        holds f.ash f.a ra ∧ holds f.bs f.b rb) ∧
    (may → room → Clear s c (.mzero f) [] → queued (.mzero f) { base (.mzero f) with zero := true }) ∧
    (let mode := f.fm.toNat % 4
     let ops := (s.matq.filter (fun o => o.crew == s.cur && o.acc == n)).map (fun o => o.id)
     may → mode ≠ 3 → (f.fm.getLsbD 2 = true ∨ f.fm.getLsbD 3 = false) →
     f.a.toNat + mldaStep mode * (mldaCols f).length ≤ c.nregs → Clear s c (.mlda f) ({ file := .accum, idx := n } :: mldaUses f.a.toNat mode (mldaCols f).length) →
     ∃ t ms, exec (.mlda f) s = .next t ∧ GoesOn { s with mldas := s.mldas ++ ms } t c (nextPc s c (.mlda f)) (addPend c
       { id := c.seq, kind := .matrix, ready := ops.isEmpty, drains := true
         targets := mldaTargets f.a.toNat mode (seen s c).rnd (mldaCols f) qs (fun e => mget 0 c.acc (256 * n + e)) }).pend id ∧ (ops = [] → ms = []) ∧
       (ops ≠ [] → ∃ m, ms = [m] ∧ m.crew = s.cur ∧ m.id = c.seq ∧ m.acc = n ∧ m.ops = ops ∧ m.regD = f.a.toNat ∧ m.mode = mode ∧ m.cols = mldaCols f ∧ m.quarters = qs)) ∧
    (∀ p ∈ ([(.mwaitc f, 0), (.mwaitd f, 8)] : List (Instr × Nat)), Clear s c p.1 [] →
      (∀ a < 8, (mwaitMask f).testBit a = true → a < c.naccs ∧ c.macc.getLsbD (a + p.2) = true) → ∃ t, exec p.1 s = .next t ∧ GoesOn s t c (nextPc s c p.1) c.pend id)

/-- R269, R270, R272: when a unit starts a quarter alone, every element of the result is the once-rounded sum of R269 of the tile's element with its row of A and row of B; the tile update writes those
elements and no others, ends the operation, and sets its bits of `macc`. Here the operation is the only one, on one quarter, and its crew is resident; a word of an operand that the unit
read early counts as it was then (R91). -/
def Obligations.MatrixUnitsExecuteAndUpdate : Prop :=
  (∀ (s : State) (o : MatOp) (q : Nat) (as bs : List (List FVal)), s.arg.c ≠ 1 → (crewAt s o.crew).saved = false → s.matq = [o] → o.isle = s.arg.a → o.slot = s.arg.b → o.quarters = [q] → o.executed = [] → o.results = [] → o.zero = false →
    q < 4 → matLines (readTeam s o) o true q = .ok as → matLines (readTeam s o) o false q = .ok bs → as.length = 8 → bs.length = 8 → ∃ t o', exec .matrixGroupExecute s = .next t ∧
      t = updCrew { s with matq := [o'], nextGroup := s.nextGroup + 1 } o.crew (fun d => { d with macc := maccOf { s with matq := [o'] } o.crew }) ∧
      o' = { o with executed := [(q, s.nextGroup)], results := o'.results } ∧
      ∀ i < 8, ∀ j < 8, mget 0 o'.results (64 * q + 8 * i + j) =
        macSum o.rnd (mget 0 (crewAt s o.crew).acc (256 * o.acc + (64 * q + 8 * i + j))) (as.getD i []) (bs.getD j [])) ∧
  (∀ (s : State) (o : MatOp) (q : Nat) (c : Crew), s.matq = [o] → o.quarters = [q] → q < 4 → o.executed = [(q, s.arg.a)] → o.updated = [] → o.faults = [] → s.mldas = [] →
    mfind s.crews o.crew = some c → c.saved = false → c.held = [] → c.saving = none → ∃ t acc mw, exec .matrixTileUpdate s = .next t ∧
      t = updCrew { s with matq := [] } o.crew (fun _ => { c with acc := acc, pend := c.pend.filter (fun p => p.id != o.id), macc := 0xFFFF, markerWait := mw }) ∧
      (mw = c.markerWait ∨ mw = false) ∧
      ∀ n < 8, ∀ e < 256, mget 0 acc (256 * n + e) = if n = o.acc ∧ e / 64 = q then mget 0 o.results e else mget 0 c.acc (256 * n + e))

/-! ## The copy engine (15_copy_engine.md) -/

/-- R286, R287, R289, R290, R293, R294, R295, R297 (with R283, R284): each copy instruction whose operands are in range starts its copies, or binds or frees its channel, with its status word
outstanding where it has one; CPYWT goes on once the write pointer has passed; the operands out of range trap RANGE (0x13) precisely, with the value that is out of range in `tva`. A landing slot
that is no multiple of 4096 traps MISALIGN (0x05), and a CPYWT that finds its channel faulted traps the fault's cause and address (R296). -/
def Obligations.CopyInstructionsStart : Prop :=
  ∀ (f : QF) (s : State) (c : Crew),
    let tm := teamAt s c.teamKey
    let sp := fun (r : BitVec 6) (k : Nat) => sget (seen s c) (r.toNat + k)
    let pr := fun (r : BitVec 6) (k : Nat) => sget2 (seen s c) (r.toNat + k)
    let low := lowest c.exm
    let runs := fun (i : Instr) (S : State) (pd : List Pend) => ∃ t, exec i s = .next t ∧ GoesOn S t c (nextPc s c i) pd id
    let lim := (countedIds c).length < 16
    (let sep := if f.sub.getLsbD 2 then 1 else 0
     let w := 4 * 2 ^ (f.sub.toNat % 4)
     let da := fun L => ((pr f.p1 0).extractLsb' 0 56).toNat + (vget (seen s c) f.p2.toNat L).toInt
     let sa := fun L => ((pr f.p1 2).extractLsb' 0 56).toNat + (vget (seen s c) (f.p2.toNat + sep) L).toInt
     let dsp := (pr f.p1 0).getLsbD 56
     let ssp := (pr f.p1 2).getLsbD 56
     Clear s c (.cpy f) [{ file := .scalar, idx := f.p1.toNat, n := 4, al := 4 }, { file := .vector, idx := f.p2.toNat, n := 1 + sep }, useS f.d 1 true] → f.sub.toNat % 4 ≠ 3 → lim →
     ((pr f.p1 0) >>> 57 = 0 → (pr f.p1 2) >>> 57 = 0 → EntriesFree s c 1 → runs (.cpy f) (newCopy s c
       { kind := .cpy, mask := c.exm, w := w, srcSp := ssp, dstSp := dsp
         early := (lanes c.exm).filterMap (fun L => (worst (copyEarly tm ssp (sa L) w) (copyEarly tm dsp (da L) w)).map (fun e => (L, e.1, e.2)))
         src := (lanes c.exm).map (fun L => (L, (sa L).toNat)), dst := (lanes c.exm).map (fun L => (L, (da L).toNat)), stamps := (lanes c.exm).map (fun L => (L, stampOf c L)) })
       (withStatus c f.d.toNat none)) ∧
     ((pr f.p1 0) >>> 57 ≠ 0 → exec (.cpy f) s = .next (trapped (started s c) c (.cpy f) 0x13 (pr f.p1 0))) ∧
     ((pr f.p1 0) >>> 57 = 0 → (pr f.p1 2) >>> 57 ≠ 0 → exec (.cpy f) s = .next (trapped (started s c) c (.cpy f) 0x13 (pr f.p1 2)))) ∧
    (let off := (sp f.p1 0).toNat
     let n := (sp f.p2 0).toNat
     Clear s c (.cpyk f) [useS f.p1 1 false, useS f.p2 1 false] → expertOf c 2 = true →
     (1 ≤ n → n ≤ 64 → off % 32 = 0 → (∀ k < n, descFieldK tm (off + 32 * k) = false ∧ descSpaceK tm (off + 32 * k) = false) → EntriesFree s c n →
       let os := (List.range n).map (fun k => descCopy tm (off + 32 * k) (stampOf c low))
       let T := os.foldl (fun s o => if o.expect then barUpd s c.teamKey o.bar 0 (copyTotal o) (if o.outcnt then copyTotal o else 0) true else s)
         (os.foldl (fun s o => newCopy s c o) (started s c))
       ∃ t, exec (.cpyk f) s = .next t ∧ GoesOn T t (crewAt T s.cur) (nextPc s c (.cpyk f)) (crewAt T s.cur).pend id) ∧
     (off % 32 ≠ 0 → exec (.cpyk f) s = .next (trapped (started s c) c (.cpyk f) 0x13 (BitVec.ofNat 64 off) 0)) ∧
     (off % 32 = 0 → n = 0 ∨ 64 < n → exec (.cpyk f) s = .next (trapped (started s c) c (.cpyk f) 0x13 (BitVec.ofNat 64 n) 0)) ∧
     (off % 32 = 0 → 1 ≤ n → n ≤ 64 → ∀ k < n,
       (descFieldK tm (off + 32 * k) = true → (∀ j < k, descFieldK tm (off + 32 * j) = false) →
         exec (.cpyk f) s = .next (trapped (started s c) c (.cpyk f) 0x13 (BitVec.ofNat 64 (off + 32 * k)) 0)) ∧
       ((∀ j < n, descFieldK tm (off + 32 * j) = false) → descSpaceK tm (off + 32 * k) = true → (∀ j < k, descSpaceK tm (off + 32 * j) = false) →
         exec (.cpyk f) s = .next (trapped (started s c) c (.cpyk f) 0x13 (BitVec.ofNat 64 (off + 32 * k)) 0)))) ∧
    (let v := (sp f.p1 0).toNat
     let off := (sp f.p2 0).toNat
     let stops := fun (cause : Byte) (x : Nat) => exec (.permit f) s = .next (trapped (started s c) c (.permit f) cause (BitVec.ofNat 64 x))
     Clear s c (.permit f) [useS f.p1 1 false, useS f.p2 1 false, useS f.d 1 true] → expertOf c 2 = true → lim →
     (16 < v → stops 0x13 v) ∧ (v ≤ 16 → off % 4096 ≠ 0 → stops 0x05 off) ∧ (v ≤ 16 → off % 4096 = 0 → tm.size < off + 4096 → stops 0x13 off) ∧
     ∀ n, v ≤ 16 → off % 4096 = 0 → off + 4096 ≤ tm.size → permitPick s c v = some n →
       runs (.permit f) { s with chans := minsert s.chans (16 * isleOf c.gcrew + n) { team := c.teamKey, slot := off, count := 0, next := 0, fault := none } } (withStatus c f.d.toNat (some (BitVec.ofNat 32 (2 ^ 31 + n))))) ∧
    (let v := (sp f.p1 0).toNat
     Clear s c (.permitRel f) [useS f.p1 1 false, useS f.d 1 true] → expertOf c 2 = true → lim →
     (ownChan s c v = none → exec (.permitRel f) s = .next (trapped (started s c) c (.permitRel f) 0x13 (BitVec.ofNat 64 v))) ∧
     ((ownChan s c v).isSome = true → chanQueue s (isleOf c.gcrew) v = [] → runs (.permitRel f) { s with chans := merase s.chans (16 * isleOf c.gcrew + v) } (withStatus c f.d.toNat (some (BitVec.ofNat 32 (2 ^ 31 + v)))))) ∧
    (let a := pr f.p1 0
     let d := pr f.p2 0
     let n := (d.extractLsb' 0 4).toNat
     let rb := (d.extractLsb' 16 16).toNat
     let rows := (d.extractLsb' 48 12).toNat
     Clear s c (.cpyt f) [useS f.p1 2 false, useS f.p2 2 false] → expertOf c 2 = true →
     let fits := 1 ≤ rb ∧ d.extractLsb' 4 12 = 0 ∧ d >>> 60 = 0 ∧ 1 ≤ rows ∧ rows * rb ≤ 4096
     let stops := fun (x : Dword) => exec (.cpyt f) s = .next (trapped (started s c) c (.cpyt f) 0x13 x)
     (a >>> 56 ≠ 0 → stops a) ∧ (a >>> 56 = 0 → ¬ fits ∨ (∀ h, ownChan s c n = some h → h.fault ≠ none) → stops d) ∧
     ∀ h, a >>> 56 = 0 → fits → ownChan s c n = some h → h.fault = none → (chanQueue s (isleOf c.gcrew) n).length < 8 → EntriesFree s c 1 →
     let S := newCopy s c { kind := .cpyt, chan := n, first := h.next, saddr := (a.extractLsb' 0 56).toNat, rows := rows, rowBytes := rb
                            spitch := (d.extractLsb' 32 16).toNat, dstSp := true, stamp := stampOf c low }
     runs (.cpyt f) { S with chans := mmodify s.chans (16 * isleOf c.gcrew + n) (fun h => { h with next := h.next + rows * rb }) } c.pend) ∧
    (let stops := fun (cause : Byte) (x : Nat) => exec (.cpywt f) s = .next (trapped (started s c) c (.cpywt f) cause (BitVec.ofNat 64 x))
     Clear s c (.cpywt f) [useS f.p1 1 false, useS f.p2 1 false] → expertOf c 2 = true → (ownChan s c (sp f.p1 0).toNat = none → stops 0x13 (sp f.p1 0).toNat) ∧
     ∀ h, ownChan s c (sp f.p1 0).toNat = some h → let past := (BitVec.ofNat 32 h.count - sp f.p2 0).toNat < 2 ^ 31
      (past → runs (.cpywt f) s c.pend) ∧ ∀ e, ¬ past → h.fault = some e → stops e.1 e.2) ∧
    (∀ p ∈ ([(.cpyc f, true), (.cpycPull f, false)] : List (Instr × Bool)),
      let o := (pr f.p1 0).toNat
      let l := (pr f.p2 0).toNat
      let loc := fld o 18 0
      let rem := fld o 50 32
      Clear s c p.1 [useS f.p1 2 false, useS f.p2 2 false, useS f.d 1 true] → lim →
      let stops := fun (x : Nat) => exec p.1 s = .next (trapped (started s c) c p.1 0x13 (BitVec.ofNat 64 x))
      let len := fld l 19 0
      (fld o 31 19 ≠ 0 ∨ fld o 63 53 ≠ 0 ∨ cohortTeam s c (fld o 52 51) = none → stops o) ∧ (fld o 31 19 = 0 → fld o 63 53 = 0 → ∀ r, cohortTeam s c (fld o 52 51) = some r →
      let shape := fld l 31 20 = 0 ∧ 1 ≤ len ∧ len ≤ 2 ^ 19
      let spans := loc + len ≤ tm.size ∧ rem + len ≤ r.2.size
      let objs := 16 * fld l 46 32 + 16 ≤ tm.size ∧ 16 * fld l 62 48 + 16 ≤ r.2.size
      (¬ shape → stops l) ∧ (shape → ¬ spans → stops o) ∧ (shape → spans → ¬ objs → stops l) ∧ (shape → spans → objs → EntriesFree s c 1 →
      runs p.1 (newCopy s c
        { kind := .cpyc, push := p.2, remote := r.1, saddr := if p.2 then loc else rem, daddr := if p.2 then rem else loc, rows := 1, rowBytes := fld l 19 0, srcSp := true, dstSp := true
          bar := 16 * fld l 46 32, expect := fld l 47 47 == 1, rbar := 16 * fld l 62 48, rexp := fld l 63 63 == 1, stamp := stampOf c low }) (withStatus c f.d.toNat none true))))

/-- R284, R288, R291, R292, R298 (with R283, R285): a copy whose bytes can all be moved performs: CPY moves each lane's element, in the scratchpads here, and returns its status word; a CPYK descriptor's or
CPYC's next piece moves and is counted down, its end writes the status word and makes the final countdown, and its entry is free, for CPY and CPYC once the status word has been written; the bytes of a CPYT land at the
channel's slot and its count rises. What lands beside barrier objects is stored as it is; the lines and bytes moved are counted (R421). -/
def Obligations.CopiesPerform : Prop :=
  (∀ (s : State) (o : CopyOp), copyAt s s.arg.a = some o → s.arg.b = 0 → o.kind = .cpy → o.ended = none → o.parked = [] → o.early = [] → o.late = [] → o.done = 0 → o.snap = none → o.srcSp = true → o.dstSp = true →
    o.begun = [] → o.held = [] → o.put = [] → o.w ∈ [4, 8, 16] →
    let n := (lanes o.mask).length
    let st := BitVec.ofNat 32 (2 ^ 31 + o.w * n % 2 ^ 24)
    let S := (lanes o.mask).foldl (fun s L => (List.range (o.w / 4)).foldl (fun s j =>
      scLand s o.team (mget 0 o.dst L + 4 * j) (Memory.bytes (teamAt s o.team).scratch (mget 0 o.src L + 4 * j) 4)) s) s
    ∃ o', o' = { o with done := o.mask, begun := o'.begun, held := o'.held, put := o'.put, snap := o'.snap } ∧ exec .cpyComplete s = .next (endCopy (copyResult (cpyLines S o') o st) o' st)) ∧
  (∀ (s : State) (o : CopyOp) (w : Word), s.teams = [] → endCopy s o w =
    if (o.kind = .cpy ∨ o.kind = .cpyc) ∧ ∃ p ∈ (crewAt s o.crew).pend, p.id = o.pendId then putCopy s { o with ended := some w } else dropCopy s o) ∧
  (∀ (s : State) (o : CopyOp), copyAt s s.arg.a = some o → o.parked = [] → o.ended = none → o.kind = .cpyk → o.failed = none → o.srcSp = true → o.dstSp = true → 0 < copyPiece o → o.landed = o.moved →
    o.moved + copyPiece o < copyTotal o →
    let n := copyPiece o
    let bs := (List.range n).map (fun k => Memory.read (teamAt s o.team).scratch (copyByte o (o.moved + k)).1)
    ∃ snap, exec .copyByteCountdown s = .next (barUpd (putCopy (pieceLines (scLand s o.team (copyHere o).2 bs) o n) { o with moved := o.moved + n, landed := o.moved + n, snap := snap })
      o.team o.bar 0 (-n) (if o.outcnt then -n else 0) false)) ∧
  (∀ (s : State) (o : CopyOp), copyAt s s.arg.a = some o → o.kind = .cpyk → o.failed = none → o.moved = copyTotal o → (∀ k d, mfind s.crews k = some d → d.trace.traced = false) → ∃ t, exec .cpykDescriptorEnd s = .next t ∧
    let d : Int := copyTotal o - o.landed
    let st := copyStatus false o.snap o.moved
    t = endCopy (barUpd (scLand s o.team (o.descOff + 16) (natBytes 4 st.toNat)) o.team o.bar 0 (-d) (if o.outcnt then -d else 0) false) o st) ∧
  (∀ (s : State) (o : CopyOp) (r : List CopyOp) (h : Chan) (n : Nat) (bs : List Byte), chanQueue s s.arg.a s.arg.b = o :: r → mfind s.chans (16 * s.arg.a + s.arg.b) = some h → o.parked = [] → o.srcSp = false → o.dstSp = true →
    let k := o.first + o.moved
    n = 128 - k % 128 → o.moved + n < copyTotal o → Intact s →
    (∀ j < n, let a := (copyByte o (o.moved + j)).1
      a < 2 ^ 56 ∧ ∃ p, (xlate s (copyWho o) a .rd).2 = .ok p ∧ bs.getD j 0 = Memory.read s.mem (p.pa a)) → bs.length = n →
    exec .cpytLand s = .next (putCopy { count (scLand s o.team (h.slot + k % 4096) bs) (4115 + 4 * o.isle) n with
      chans := mmodify s.chans (16 * s.arg.a + s.arg.b) (fun h => { h with count := h.count + n }) } { o with moved := o.moved + n })) ∧
  (∀ (s : State) (o : CopyOp), copyAt s s.arg.a = some o → o.kind = .cpyc → o.accepted = false → o.expect = false → o.rexp = false →
    exec .cpycAccept s = .next (copyResult (putCopy s { o with accepted := true }) o (BitVec.ofNat 32 (2 ^ 31 + copyTotal o % 2 ^ 24)))) ∧
  (∀ (s : State) (o : CopyOp), copyAt s s.arg.a = some o → o.kind = .cpyc → o.accepted = true → o.ended = none → copyTotal o ≤ o.moved + copyPiece o →
    (∀ k d, mfind s.crews k = some d → d.trace.traced = false) →
    let n := copyPiece o
    let h := copyHere o
    let e := cpycEnds o
    let S := [e.1.1, e.2.1].foldl (fun s tk => count s (4114 + 4 * (teamAt s tk).isle) n)
      (scLand (barUpd s e.1.1 e.1.2 0 0 (-n) false) e.2.1 h.2 (Memory.bytes (teamAt s e.1.1).scratch h.1 n))
    exec .cpycTransferEnd s = .next (endCopy (barUpd S e.2.1 e.2.2 0 (-n) 0 false) { o with moved := o.moved + n } (BitVec.ofNat 32 (2 ^ 31 + copyTotal o % 2 ^ 24)))) ∧
  (∀ (s : State) (tk off : Nat) (bs : List Byte), (∀ o ∈ (teamAt s tk).objs, o + 4 ≤ off ∨ off + bs.length ≤ o) → scLand s tk off bs = scW s tk off bs)

/-! ## The tide engine (16_tide_engine.md) -/

/-- R318, R319, R321, R322 (with R309, R312): EVPOST stores each active lane's event at its home shelf and returns its handle (the N form none); EVCAN cancels each lane's pending event and returns its
code; EVKEY returns each lane's key and code. Here every lane passes its checks and finds room, and the events and handles are this device's own.
R323 (with R250): EVEND ends the active lanes as EXIT does, in the frontier and in every saved one, and each lane's event: its row of the round has ended, and the slot of its handle becomes RETIRED. -/
def Obligations.EventsPostCancelEndAndKeys : Prop :=
  (
  ∀ (f : QF) (s : State) (c : Crew), c.timeline = true → (countedIds c).length < 16 →
    let tok := c.strict = true → holdsToken s c = true
    let tl := mget {} s.timelines c.lid
    (∀ p ∈ ([(.evpost f, false), (.evpostN f, true)] : List (Instr × Bool)),
      Clear s c p.1 ([{ file := .vector, idx := f.p1.toNat, n := 6, al := 4 }, useV f.p2 8 false] ++ (if p.2 then [] else [useV f.d 2 true])) → tok →
      (∀ L ∈ lanes c.exm, (vget (seen s c) (f.p1.toNat + 3) L).toNat = s.deviceId.toNat ∧ postEarly s tl (seen s c) f.p1.toNat L = none) →
      let r := (lanes c.exm).foldl (postLane (ctxOf s c p.1) f) { s := started s c }
      r.late = [] → r.cap = [] → r.ok ≠ [] → ∃ t, exec p.1 s = .next t ∧ GoesOn r.s t c (nextPc s c p.1)
        (if p.2 then c.pend else withResult c f.d.toNat (r.ok.map (fun q => (q.1, [BitVec.ofNat 32 q.2, BitVec.ofNat 32 (q.2 / 2 ^ 32)])))) id) ∧
    (Clear s c (.evcan f) [useV f.p1 2 false, useV f.d 1 true] → tok → cancelBad s (ctxOf s c (.evcan f)) f.p1.toNat = [] →
      (∀ L ∈ lanes c.exm, hDev (vget2 (seen s c) f.p1.toNat L) = s.deviceId) →
      let r := (lanes c.exm).foldl (fun (a : State × List (Nat × List Word)) L => let q := cancelEvent a.1 c.lid (vget2 (seen s c) f.p1.toNat L); (q.1, a.2 ++ [(L, [BitVec.ofNat 32 q.2])])) (started s c, [])
      ∃ t, exec (.evcan f) s = .next t ∧ GoesOn r.1 t c (nextPc s c (.evcan f)) (withResult c f.d.toNat r.2) id) ∧
    (Clear s c (.evkey f) [useV f.p1 2 false, useV f.d 4 true] → badHandles s (ctxOf s c (.evkey f)) f.p1.toNat = [] →
      ∃ t, exec (.evkey f) s = .next t ∧ GoesOn s t c (nextPc s c (.evkey f)) (withResult c f.d.toNat ((lanes c.exm).map (fun L => (L, evkeyOf s c (vget2 (seen s c) f.p1.toNat L))))) id) ∧
    (∀ h e, hDev h = s.deviceId → hState s c.lid h = .pending → (shoalAt tl (fld h.toNat 51 48)).evs.find? (fun e => !e.nohandle && e.slot == fld h.toNat 47 20) = some e →
      e.time < 2 ^ 64 → e.tail < 2 ^ 56 → evkeyOf s c h = [BitVec.ofNat 32 e.time, BitVec.ofNat 32 (e.time / 2 ^ 32), BitVec.ofNat 32 e.tail, BitVec.ofNat 32 (e.tail / 2 ^ 32)]) ∧
    (Clear s c (.evkeySelf f) [useV f.d 4 true] → ∃ t, exec (.evkeySelf f) s = .next t ∧
      GoesOn s t c (nextPc s c (.evkeySelf f)) (withResult c f.d.toNat ((lanes c.exm).map (fun L =>
        (L, match rowOf tl c.team.toNat L with | some r => keyWords r.time r.tail 1 | none => keyWords 0 0 1)))) id)) ∧
  (
  ∀ (s : State) (c : Crew), Clear s c .evend [] → c.timeline = true →
    let left := ∃ L < 32, c.exm.getLsbD L = false ∧ ((frGet c.fr L).st = .live ∨ (frGet c.fr L).st = .held)
    let ends := fun (m : Map LaneEntry) (L : Nat) => if c.exm.getLsbD L then { frGet m L with st := .ended } else frGet m L
    let S := retireEvents (started s c) c.lid c.team.toNat c.exm
    left ∨ (c.tdepth = 0 ∧ c.held = []) → (∃ t w sh1 sh2, exec .evend s = .next t ∧
      OnlyCrew S t { after c w with sh1 := sh1, sh2 := sh2 } ∧ FormsSplit { after c w with sh1 := sh1, sh2 := sh2 } (ends c.fr) ∧
      (∀ L < 32, frGet sh1 L = if c.tdepth = 0 then frGet c.sh1 L else ends c.sh1 L) ∧ (∀ L < 32, frGet sh2 L = if c.tdepth = 2 then ends c.sh2 L else frGet c.sh2 L)) ∧
      ∀ tl, mfind s.timelines c.lid = some tl → ∀ L ∈ lanes c.exm, ∀ r, rowOf tl c.team.toNat L = some r → 
        (∃ u, rowOf (mget {} S.timelines c.lid) c.team.toNat L = some u ∧ u.ended = true) ∧
        (r.ended = false → r.handle ≠ 0 → (∀ K ∈ lanes c.exm, K ≠ L → ∀ q, rowOf tl c.team.toNat K = some q → q.handle ≠ 0 → q.shelf = r.shelf → fld q.handle 47 20 ≠ fld r.handle 47 20) →
          mfind (shoalAt (mget {} S.timelines c.lid) r.shelf).tab (fld r.handle 47 20) = some (.retired, fld r.handle 19 0)))

/-- R309, R311, R312: storing an event on a shelf with a free record and a free slot keeps it with the lowest free record number, the next storing number, and a slot that is PENDING under a generation
that is not 0 and differs from the last; its record of 64 bytes is written, and it is in the ring when its bucket is.
R319, R321: an EVPOST packet stores its event and is answered with the handle, or with EVCAP where there is no room, or with RANGE where the device's handler table has no entry for it (R304); an EVCAN packet cancels and is answered with the code; the reply to a post
without a handle ends its request, and the reply to a cancel writes a CANCELRES record (0x88).
Where the record and its generation lie (log entry 24), and the fields of the packets (log entry 13), are the model's choices. -/
def Obligations.StoredAndRemoteEvents : Prop :=
  (
  ∀ (s : State) (lid sh : Nat) (e : EvRec) (tl : Timeline), mfind s.timelines lid = some tl → e.nohandle = false →
    (recsUsed tl sh).length < (shoalAt tl sh).recs → pendingAll s < 2 ^ 34 → ∀ slot, pickSlot (shoalAt tl sh) = some slot → ∃ S h e', storeEvent s lid sh e = some (S, h) ∧
      let x := shoalAt (mget {} S.timelines lid) sh
      x.evs = (shoalAt tl sh).evs ++ [e'] ∧ mfind x.tab slot = some (.pending, e'.gen) ∧ h = mkHandle s.deviceId sh slot e'.gen ∧
      e' = { e with slot := slot, gen := e'.gen, recIx := e'.recIx, order := tl.order, place := if inRing (mget {} s.launches lid).desc (shoalAt tl sh) e.time then 0 else 1 } ∧
      0 < e'.gen ∧ e'.gen < 2 ^ 20 ∧ (∀ p, mfind (shoalAt tl sh).tab slot = some p → e'.gen ≠ p.2) ∧ e'.recIx ∉ recsUsed tl sh ∧ (∀ j < e'.recIx, j ∈ recsUsed tl sh) ∧
      S = (vwriteAll { s with timelines := S.timelines } { part := (mget {} s.launches lid).part } ((shoalAt tl sh).base + 64 * e'.recIx) (evBytes e')).1) ∧
  (
  ∀ (s : State), let k := s.arg.pkt
    (∀ lid, jobLaunch s k.slot.toNat = some lid →
      let e := evFrom k.data
      let sh := homeShelf s (mget {} s.launches lid).part e.placeAddr e.tail
      (handlerOk (mget {} s.timelines lid) e.handler = false → exec .evpostPacket s = .next (sendPacket s (replyTo s k 0x13 0x13 0 []))) ∧
      (∀ S h, handlerOk (mget {} s.timelines lid) e.handler = true → storeEvent s lid sh e = some (S, h) → exec .evpostPacket s = .next (sendPacket S (replyTo S k 0x13 0 0 (natBytes 8 h)))) ∧
      (handlerOk (mget {} s.timelines lid) e.handler = true → storeEvent s lid sh e = none → exec .evpostPacket s = .next (sendPacket s (replyTo s k 0x13 0x21 0 (natBytes 8 sh)))) ∧
      (let q := cancelEvent s lid (BitVec.ofNat 64 (at_ k.data 0 8))
       exec .evcanPacket s = .next (sendPacket q.1 { replyTo q.1 k 0x15 0 0 [] with opx := BitVec.ofNat 4 q.2 }))) ∧
    (∀ r, s.reqs.find? (fun r => r.tag == k.tag.toNat) = some r →
      (r.kind = .evpost → k.count = 0 → r.sub = 1 → exec .evrep s = .next { s with reqs := s.reqs.filter (fun q => q.tag != r.tag) }) ∧
      (r.kind = .evcan → exec .canrep s = .next (postRec { s with reqs := s.reqs.filter (fun q => q.tag != r.tag) }
        { typ := 0x88, gcrew := r.gcrew, lid := BitVec.ofNat 32 r.lid, part := r.part, addr := BitVec.ofNat 64 r.addr, pc := r.pcAt.setWidth 64, lanes := lanesMask r.lanes
          stamp := r.stamp, detail := k.opx.setWidth 64 } .nobody))))

/-- R313, R314, R315: with its first span to start and T the least pending time of a group of one device, SPAN_START opens the span with the next serial, round 0, T and its window; with no event
pending the launch has no further span; and ROUND_END, once every crew of the round has retired and the window holds no event, ends the span. -/
def Obligations.SpansAndRounds : Prop :=
  (∀ (s : State) (tl : Timeline) (T : Nat), mfind s.timelines s.arg.a = some tl → tl.open_ = false → tl.done = false → (tl.span = 0 → postsLeft s s.arg.a = false) → tl.n ≤ 1 →
    leastTime tl = some T → ∃ t u, exec .spanStart s = .next t ∧ mfind t.timelines s.arg.a = some u ∧ u.open_ = true ∧ u.span = nextSpan tl.span ∧ u.round = 0 ∧ u.t = T ∧
      u.wend = min (T + (mget {} s.launches s.arg.a).desc.lookahead) (2 ^ 64) ∧ u.fresh = [] ∧ t.crews = s.crews) ∧
  (∀ (s : State) (tl : Timeline), mfind s.timelines s.arg.a = some tl → tl.open_ = false → tl.done = false → (tl.span = 0 → postsLeft s s.arg.a = false) → tl.n ≤ 1 →
    leastTime tl = none → exec .spanStart s = .next { s with timelines := mmodify s.timelines s.arg.a (fun t => { t with fresh := [], done := true, table := [], ncrews := 0 }) }) ∧
  (∀ (s : State) (tl : Timeline), mfind s.timelines s.arg.a = some tl → tl.open_ = true → tl.n ≤ 1 → roundOver s s.arg.a = true → (windowEvents tl = [] ∨ tl.round = 15) →
    exec .roundEnd s = .next { s with timelines := mmodify s.timelines s.arg.a (fun t => { t with open_ := false, table := [], ncrews := 0, endedAt := s.clock }) }) ∧
  (∀ (s : State) (tl : Timeline), mfind s.timelines s.arg.a = some tl → tl.open_ = true → tl.n ≤ 1 → roundOver s s.arg.a = true → windowEvents tl ≠ [] → tl.round < 15 →
    ∃ t u, exec .roundEnd s = .next t ∧ mfind t.timelines s.arg.a = some u ∧ u.round = tl.round + 1 ∧ u.open_ = true ∧ u.t = tl.t ∧ u.wend = tl.wend ∧ u.span = tl.span)

/-! ## The strait engine and the fabric (18_strait_engine.md) -/

/-- R343, R344, R346, R347, R342, R340 (with R341): RSTO's lanes join lines of the write-combining buffer, RDRAIN drains the isle's lines (or those towards one device) and waits until they are taken in,
RFLAG sends its flag with the slot's count after the lines towards its device, RCLOSE closes the slot, and ROPEN sends OPEN with a request of its own. Here every slot concerned is open, and a slot word
without OK traps STREAM (0x30).
R353, R354 (with R343, R357): RLOAD sends one LOAD for each distinct 128-byte line of its lanes, and RATOM one ATOMIC for each distinct location with its lanes' operands in ascending order; each has
a request with a tag of its own, and the results are outstanding until the replies. Here every lane passes its checks.
That a packet of several lanes carries the stamp of its lowest one (log entry 48), and which fields of a packet hold what, those of OPEN among them (log entry 13), are the model's choices. -/
def Obligations.RemoteInstructionsSend : Prop :=
  (
  ∀ (f : QF) (s : State) (c : Crew),
    let s0 := started s c
    let isle := isleOf c.gcrew
    let sw := sget (seen s c) f.d.toNat
    let dev := slotDev sw
    let slot := slotNum sw
    let low := lowest c.exm
    let allOpen := fun (p : WcLine → Bool) => ∀ l ∈ s.wcb, l.isle = isle → p l = true → (txAt s l.dev l.slot).st = .open_
    let runs := fun (i : Instr) (S : State) (pd : List Pend) (g : Crew → Crew) => ∃ t, exec i s = .next t ∧ GoesOn S t c (nextPc s c i) pd g
    let noSlot := fun (i : Instr) => sw.getLsbD 31 = false → exec i s = .next (trapped s0 c i 0x30 (BitVec.ofNat 64 (2 ^ 56 + sw.toNat)))
    (let nd := 2 ^ (f.sub.toNat % 4)
     let addr := remAddr (seen s c) f.p1 (rstoOff f)
     Clear s c (.rsto f) ([useS f.d 1 false, useS f.p1 2 false, useV f.p2 nd false] ++ (match rstoOff f with | some r => [{ file := .vector, idx := r }] | none => [])) →
     f.sub.toNat % 4 ≠ 3 → (countedIds c).length < 16 → noSlot (.rsto f) ∧
     (sw.getLsbD 31 = true → (∀ L ∈ lanes c.exm, remFault s (addr L) (4 * nd) (some sw) = none) → allOpen (fun _ => true) → (txAt s dev slot).st = .open_ →
       runs (.rsto f) ((lanes c.exm).foldl (fun S L => joinLine S { x := ctxOf s c (.rsto f), lane := L, addr := addr L, slot := slot, stamp := if f.sub.getLsbD 3 then stampOf c L else 0, bytes := (List.range nd).flatMap (fun k => natBytes 4 (vget (seen s c) (f.p2.toNat + k) L).toNat) }) s0) c.pend countedIn) ∧
     (sw.getLsbD 31 = true → (∀ L ∈ lanes c.exm, remFault s (addr L) (4 * nd) (some sw) = none) → ∀ L, c.exm = bit L → L < 32 →
       (s.wcb.filter (fun l => l.isle == isle)).length < 64 → (∀ l ∈ s.wcb, ¬ (l.isle = isle ∧ l.dev = devOf (addr L) ∧ l.slot = slot ∧ l.line = (addr L).toNat / 128)) →
       ∃ bytes : Map Byte,
         let me : WcOwner := { crew := s.cur, seq := c.seq, pcAt := c.pc, tmask := c.exm, lanes := bit L, depth := c.tdepth.toNat, stamps := c.stamp }
         let line : WcLine := { isle := isle, dev := devOf (addr L), slot := slot, line := (addr L).toNat / 128, stamp := if f.sub.getLsbD 3 then stampOf c L else 0,
                                bytes := bytes, born := s.clock, owners := [me], key := (partOf s c.part).key }
         runs (.rsto f) { s with wcb := s.wcb ++ [line] } c.pend countedIn ∧
         ∀ i, mfind bytes i = if (addr L).toNat % 128 ≤ i ∧ i < (addr L).toNat % 128 + 4 * nd then
           ((List.range nd).flatMap (fun k => natBytes 4 (vget (seen s c) (f.p2.toNat + k) L).toNat))[i - (addr L).toNat % 128]? else none)) ∧
    (Clear s c .rdrain [] → allOpen (fun _ => true) → runs .rdrain (drainLines s0 isle (fun _ => true)) c.pend (fun d => { d with wait := .drain })) ∧
    (let p := fun (l : WcLine) => !(expertOf c 4) || l.dev == dev
     Clear s c (.rdrainS f) [useS f.d 1 false] → allOpen p → runs (.rdrainS f) (drainLines s0 isle p) c.pend (fun d => { d with wait := .drain })) ∧
    (∀ i ∈ [Instr.rflag f, .rflagAdd f], let w := if f.sub.getLsbD 0 then 8 else 4
     let a := sget2 (seen s c) f.p1.toNat
     let S := drainLines s0 isle (fun l => l.dev == dev)
     Clear s c i [useS f.d 1 false, useS f.p1 2 false, useV f.p2 (w / 4) false] → (countedIds c).length < 16 → noSlot i ∧
     (sw.getLsbD 31 = true → remFault s a w (some sw) = none → allOpen (fun l => l.dev == dev) → (txAt S dev slot).st = .open_ →
       runs i (sendPacket S { mkPkt s 2 0 dev with slot := slot, len := w, opx := f.sub, faddr := a, stamp := stampOf c low, count := (txAt S dev slot).sent, key := (partOf s c.part).key,
                                                   data := (List.range (w / 4)).flatMap (fun k => natBytes 4 (vget (seen s c) (f.p2.toNat + k) low).toNat) }) c.pend countedIn)) ∧
    (Clear s c (.rclose f) [useS f.d 1 false] → noSlot (.rclose f) ∧ (sw.getLsbD 31 = true → allOpen (fun l => l.dev == dev) →
      let S := drainLines s0 isle (fun l => l.dev == dev)
      let t := txAt S dev slot
      runs (.rclose f) (sendPacket { S with txSlots := minsert S.txSlots (txKey dev slot) { t with st := .closed } }
        { mkPkt s 3 0 dev with slot := slot, count := t.sent, stamp := stampOf c low, key := (partOf s c.part).key }) c.pend id)) ∧
    (let dst : BitVec 12 := (sget (seen s c) f.p1.toNat).setWidth 12
     let tm := if expertOf c 4 then (sget (seen s c) f.p2.toNat).toNat else 0
     let pend := fun (v : Option Word) => (addPend c { id := c.seq, kind := .memory, ready := v.isSome, drains := true, targets := [{ file := .scalar, idx := f.d.toNat, lane := 0, val := v.getD 0 }] }).pend
     let hw : BitVec 4 := if (partOf s c.part).mode.getLsbD 2 then 1 else 0
     Clear s c (.ropen f) [useS f.p1 1 false, useS f.p2 1 false, useS f.d 1 true] → (countedIds c).length < 16 →
     (tm ≤ 1000000 → reachable s dst = false → runs (.ropen f) s (pend (some 2)) id) ∧
     (1000000 < tm → exec (.ropen f) s = .next (trapped s0 c (.ropen f) 0x13 (BitVec.ofNat 64 tm))) ∧
     (tm ≤ 1000000 → reachable s dst = true → ∀ tag r, freeTags s isle 1 = tag :: r →
       let q : RemoteReq := { tag := tag, kind := .open_, crew := s.cur, gcrew := c.gcrew, lid := c.lid, part := c.part, pendId := c.seq, seq := c.seq, pcAt := c.pc, pcNext := nextPc s c (.ropen f)
                              dst := dst, lanes := [], tmask := c.exm, regD := f.d.toNat, w := 0, addr := (sget (seen s c) f.p1.toNat).toNat / 65536, since := s.clock, stamp := stampOf c low
                              stamps := c.stamp, depth := c.tdepth.toNat, operands := [], sub := hw.toNat }
       runs (.ropen f) (sendPacket { s0 with reqs := s.reqs ++ [q] } { mkPkt s 0x21 2 dst with slot := BitVec.ofNat 16 ((sget (seen s c) f.p1.toNat).toNat / 65536), opx := hw, count := BitVec.ofNat 32 (if tm = 0 then 100 else tm), tag := BitVec.ofNat 16 tag, key := (partOf s c.part).key })
         (pend none) id))) ∧
  (
  ∀ (f : QF) (s : State) (c : Crew),
    let addr := remAddr (seen s c) f.p1 (remOff f)
    let off := if f.p2 = 0 then [] else [useV f.p2 1 false]
    let req := fun (i : Instr) (tag : Nat) (u : Nat) (ls : List Nat) => ({ tag := tag, kind := .load, crew := s.cur, gcrew := c.gcrew, lid := c.lid, part := c.part, pendId := c.seq, seq := c.seq, pcAt := c.pc,
                                                                           pcNext := nextPc s c i, dst := BitVec.ofNat 12 (u / 2 ^ 52), lanes := [], tmask := c.exm, regD := f.d.toNat, w := 0, addr := u, since := s.clock,
                                                                           stamp := stampOf c (ls.headD 0), stamps := c.stamp, depth := c.tdepth.toNat, operands := ls.map (fun L => (L, addr L)), sub := f.sub.toNat } : RemoteReq)
    let pkt := fun (r : RemoteReq) => { mkPkt s 4 0 r.dst with tag := BitVec.ofNat 16 r.tag, key := (partOf s c.part).key, faddr := BitVec.ofNat 64 r.addr, stamp := r.stamp }
    let sends := fun (i : Instr) (nd w unit : Nat) (q : Nat → Nat → List Nat → RemoteReq) (k : List Nat → Packet → Packet) =>
      let gs := groupLanes (lanes c.exm) (fun L => (addr L).toNat / unit)
      let tags := freeTags s (isleOf c.gcrew) gs.length
      tags.length = gs.length → (∀ L ∈ lanes c.exm, remFault s (addr L) w none = none) → ∃ t, exec i s = .next t ∧
        GoesOn ((gs.zip tags).foldl (fun s g => let r := q g.2 g.1.1 g.1.2; sendPacket { s with reqs := s.reqs ++ [r] } (k g.1.2 (pkt r))) (started s c)) t c (nextPc s c i)
          (addPend c { id := c.seq, kind := .memory, ready := false, drains := true, targets := gs.flatMap (fun g => g.2.flatMap (fun L =>
            (List.range nd).map (fun k => { file := .vector, idx := f.d.toNat + k, lane := L, val := 0 }))) }).pend id
    (let nd := 2 ^ (f.sub.toNat % 4)
     Clear s c (.rload f) ([useS f.p1 2 false] ++ off ++ [useV f.d nd true]) → f.sub.toNat % 4 ≠ 3 → (countedIds c).length < 16 →
     sends (.rload f) nd (4 * nd) 128 (fun tag u ls => { req (.rload f) tag (128 * u) ls with lanes := ls.map (fun L => (L, (addr L).toNat % 128)), w := 4 * nd }) (fun _ k => { k with len := 128 })) ∧
    (∀ p ∈ ([(.ratomAdd f, 0), (.ratomAdd64 f, 1), (.ratomAddf f, 2), (.ratomAddd f, 3), (.ratomMin f, 4), (.ratomMax f, 5), (.ratomUmin f, 6), (.ratomUmax f, 7), (.ratomAnd f, 8), (.ratomOr f, 9),
        (.ratomXor f, 10), (.ratomXchg f, 11), (.ratomCas f, 12), (.ratomIncw f, 13)] : List (Instr × Nat)),
     let w := if p.2 = 1 ∨ p.2 = 3 then 8 else 4
     let pair := w = 8 ∨ p.2 = 12
     let opd := fun L => if pair then (vget2 (seen s c) f.d.toNat L).toNat else (vget (seen s c) f.d.toNat L).toNat
     f.sub.toNat = p.2 → Clear s c p.1 ([useV f.d (if pair then 2 else 1) false, useS f.p1 2 false] ++ off ++ [{ file := .vector, idx := f.d.toNat, n := w / 4, al := 1, wr := true }]) →
     (countedIds c).length < 16 → ((p.2 = 2 ∨ p.2 = 3) → c.strict = true → holdsToken s c = true) →
     sends p.1 (w / 4) w 1 (fun tag u ls => { req p.1 tag u ls with kind := .atom, lanes := ls.zipIdx.map (fun q => (q.1, 8 * q.2)), w := w })
       (fun ls k => { k with typ := 5, opx := f.sub, count := BitVec.ofNat 32 ls.length, len := 8 * ls.length, data := ls.flatMap (fun L => natBytes 8 (opd L)) })))

/-- R342, R344, R348, R353, R354, R356, R340 (with R338, R339): at the receiver a WRITE stores the bytes that its MASK picks and raises its slot's count; a FLAG whose count is reached stores or adds its
value, another is held; a CLOSE whose count is reached frees the slot; a LOAD and an ATOMIC are answered with the bytes and the old value; a window that is not enabled is reason 6; an OPEN finds its slot or takes
the lowest free one.
Which fields of a packet hold what, those of OPEN and its reply, the address that a CLOSE is checked for and the keys of replies are the model's choices (log entry 13). -/
def Obligations.ReceiverPerformsPackets : Prop :=
  ∀ (s : State) (p : Pg), let k := s.arg.pkt
    let w := mget {} s.windows (fld k.faddr.toNat 51 48)
    let a := w.base + fld k.faddr.toNat 47 0
    let pa := p.pa a
    let key := (partOf s w.part).key
    let slot := k.slot.toNat
    let passes := fun (n : Nat) (perm : Bool) (q : Acc) => w.en = true ∧ w.phys = false ∧ fld k.faddr.toNat 47 0 + n ≤ w.size ∧ (w.key = 0 ∨ w.key = k.key) ∧ perm = true ∧
      (mfind s.parts w.part).isSome = true ∧ (xlate s { part := w.part } a q).2 = .ok p ∧ p.ord = false
    Intact s →
    (∀ r, rxOf s k = some r → r.st = .open_ → (∀ f ∈ s.pflags, f.slot ≠ slot) →
      (passes k.len w.wr .wr → ∃ m, exec .writePacket s = .next { s with mem := m, rxSlots := mmodify s.rxSlots slot (fun r => { r with arrived := r.arrived + 1 }) } ∧
        ∀ j, Memory.read m j = if pa ≤ j ∧ j < pa + k.len ∧ k.mask.getLsbD (j - pa) = true then k.data.getD (j - pa) 0 else Memory.read s.mem j) ∧
      (let n := if k.opx.getLsbD 0 then 8 else 4
       let f : PFlag := { slot := slot, target := k.count, pkt := k, since := s.clock, starved := false }
       k.typ = 2 → s.pflags.length < 4096 + 2 ^ 20 → passes n w.wr (if k.opx.getLsbD 1 then .rw else .wr) →
       ((r.arrived - k.count).toNat < 2 ^ 31 → let v := bytesNat (k.data.take n)
         exec .flagPacket s = .next { s with mem := Memory.writes s.mem pa (natBytes n ((if k.opx.getLsbD 1 then v + bytesNat (Memory.bytes s.mem pa n) else v) % 256 ^ n)) }) ∧
       (2 ^ 31 ≤ (r.arrived - k.count).toNat → exec .flagPacket s = .next { s with pflags := s.pflags ++ [f] })) ∧
      (k.typ = 3 → s.pflags.length < 4096 + 2 ^ 20 → passes k.len w.wr .wr → (r.arrived - k.count).toNat < 2 ^ 31 → exec .closePacket s = .next { s with rxSlots := merase s.rxSlots slot })) ∧
    (k.typ = 4 → passes k.len w.rd .rd → exec .loadPacket s = .next (sendPacket s { mkPkt s 0x11 1 k.src with tag := k.tag, key := key, len := k.len, data := Memory.bytes s.mem pa k.len })) ∧
    (k.typ = 4 → w.en = false → exec .loadPacket s = .next (sendPacket s { mkPkt s 0x11 1 k.src with tag := k.tag, key := key, count := 0x0630 })) ∧
    (∀ o ∈ ([(0, 4, fun o d => (o + d) % 2 ^ 32), (1, 8, fun o d => (o + d) % 2 ^ 64), (2, 4, fun o d => atomF F32 o (d % 2 ^ 32)), (3, 8, atomF F64),
        (4, 4, fun o d => if (BitVec.ofNat 32 d).toInt < (BitVec.ofNat 32 o).toInt then d % 2 ^ 32 else o), (5, 4, fun o d => if (BitVec.ofNat 32 o).toInt < (BitVec.ofNat 32 d).toInt then d % 2 ^ 32 else o),
        (6, 4, fun o d => min o (d % 2 ^ 32)), (7, 4, fun o d => max o (d % 2 ^ 32)), (13, 4, fun o d => if d % 2 ^ 32 ≤ o then 0 else o + 1), (8, 4, fun o d => (o &&& d) % 2 ^ 32), (9, 4, fun o d => (o ||| d) % 2 ^ 32), (10, 4, fun o d => (o ^^^ d) % 2 ^ 32),
        (11, 4, fun _ d => d % 2 ^ 32), (12, 4, fun o d => if o = d % 2 ^ 32 then d / 2 ^ 32 else o)] : List (Nat × Nat × (Nat → Nat → Nat))), k.opx.toNat = o.1 → k.count = 1 → k.typ = 5 →
      passes o.2.1 w.at_ .rw → let old := bytesNat (Memory.bytes s.mem pa o.2.1)
      exec .atomicPacket s = .next (sendPacket { s with mem := Memory.writes s.mem pa (natBytes o.2.1 (o.2.2 old (at_ k.data 0 8))) }
        { mkPkt s 0x12 1 k.src with tag := k.tag, key := key, slot := k.slot, len := 8, data := natBytes 8 old })) ∧
    (k.typ = 0x21 → ∀ n r, (n, r) ∈ s.rxSlots → r.src = k.src → r.tag = k.slot → r.st ≠ .free → (∀ q ∈ s.rxSlots, q.2.src = k.src → q.2.tag = k.slot → q.2.st ≠ .free → q = (n, r)) →
      exec .openPacket s = .next (sendPacket s { mkPkt s 0x14 1 k.src with tag := k.tag, key := k.key, slot := BitVec.ofNat 16 n })) ∧
    (k.typ = 0x21 → ∀ n, n < 65536 → (∀ q ∈ s.rxSlots, ¬ (q.2.src = k.src ∧ q.2.tag = k.slot ∧ q.2.st ≠ .free)) → mfind s.rxSlots n = none → (∀ j < n, mfind s.rxSlots j ≠ none) →
      exec .openPacket s = .next (sendPacket { s with rxSlots := minsert s.rxSlots n { st := .open_, src := k.src, tag := k.slot, timeout := k.count.toNat, hw := k.opx == 1, key := k.key } }
        { mkPkt s 0x14 1 k.src with tag := k.tag, key := k.key, slot := BitVec.ofNat 16 n, opx := 1 })) ∧
    (k.typ = 0x21 → (∀ q ∈ s.rxSlots, ¬ (q.2.src = k.src ∧ q.2.tag = k.slot ∧ q.2.st ≠ .free)) → (∀ j < 65536, mfind s.rxSlots j ≠ none) →
      exec .openPacket s = .next (sendPacket s { mkPkt s 0x14 1 k.src with tag := k.tag, key := k.key, count := 1 }))

/-- R353, R354, R340, R355, R339, R357: a LOADREP or ATOMREP gives each lane of its request its bytes and ends the result; an OPENREP opens the slot at the source with SENT zero; a request without a
reply for 1 ms fails with STREAM reason 5; a combining entry sends its one request 64 cycles after it opened.
R329, R337, R349, R351, R352: a manager's ROUTE writes route entries with the bits that are not RES; QUERY is answered with a slot's count and state; RESYNC sets the count, drops the slot's held flags
and reopens it at both ends; a LOSS notice damages the slot at its source; a flag held past its slot's timeout writes one FLAGSTARVE record and stays; firmware asks for the counts of a slot it recovers.
The pairs of a ROUTE, the fields and keys of QUERY, RESYNC, LOSS and OPENREP and who is trusted are the model's choices (log entry 13). -/
def Obligations.RepliesControlPacketsAndRecovery : Prop :=
  (
  ∀ (s : State), let k := s.arg.pkt
    (∀ q ∈ [(Instr.loadrep, ReqKind.load), (.atomrep, .atom)], ∀ r c p, s.reqs.find? (fun r => r.tag == k.tag.toNat) = some r → r.kind = q.2 → (∀ e ∈ s.comb, ¬ (e.closed = true ∧ e.sentSlot = k.slot.toNat)) →
      (k.count ≠ 0 → exec q.1 s = .next (reqFail s r (k.count.toNat % 256) (k.count.toNat / 256 % 256))) ∧ (k.count = 0 →
      mfind s.crews r.crew = some c → c.pend.find? (fun p => p.id == r.pendId) = some p → (∀ g ∈ p.targets, g.contended = false ∧ g.file = .vector ∧ laneEnded c g.lane = false ∧ ∃ l ∈ r.lanes, l.1 = g.lane) →
      c.saved = false → c.saving = none → c.held = [] → ∃ mw, exec q.1 s = .next (updCrew { s with reqs := s.reqs.filter (fun x => x.tag != r.tag) } r.crew (fun _ => { c with
        pend := c.pend.filter (fun x => x.id != r.pendId), markerWait := mw
        v := p.targets.foldl (fun m g => mset 0 m (32 * g.idx + g.lane)
          (BitVec.ofNat 32 (at_ k.data (((r.lanes.find? (fun l => l.1 == g.lane)).map (fun l => l.2)).getD 0 + 4 * (g.idx - r.regD)) 4))) c.v })) ∧ (mw = c.markerWait ∨ mw = false))) ∧
    (∀ r, s.reqs.find? (fun r => r.tag == k.tag.toNat) = some r → r.kind = .open_ →
      let ends := fun (s : State) (w : Nat) => landPend { s with reqs := s.reqs.filter (fun x => x.tag != r.tag) } r.crew r.pendId (fun t => t.file == .scalar) (fun _ => some (BitVec.ofNat 32 w))
      let t := txAt s k.src k.slot
      let tx := if k.opx ≠ 1 ∧ (t.st = .open_ ∨ t.st = .damaged) then t
        else ({ st := .open_, sent := if k.opx = 1 then 0 else t.sent, tag := BitVec.ofNat 16 r.addr, hw := r.sub == 1, lastLoss := t.lastLoss, key := (partOf s r.part).key } : TxSlot)
      (k.count = 0 → exec .openrep s = .next (ends { s with txSlots := minsert s.txSlots (txKey k.src k.slot) tx } (2 ^ 31 + k.src.toNat * 65536 + k.slot.toNat))) ∧
      (k.count ≠ 0 → exec .openrep s = .next (ends s (k.count.toNat % 256)))) ∧
    (∀ r, s.reqs.find? (fun r => r.tag == s.arg.a) = some r → r.since + 700000 ≤ s.clock → exec .remoteReplyTimeout s = .next (reqFail s r 0x30 5)) ∧
    (∀ e, s.comb.find? (fun e => e.id == s.arg.a && !e.closed && e.since + 64 ≤ s.clock) = some e → ∀ m ms, e.members = m :: ms →
      exec .combiningWindowClose s = .next (sendPlain { s with comb := s.comb.map (fun x => if x.id == e.id then { x with closed := true } else x) }
        { m with src := s.deviceId, slot := BitVec.ofNat 16 (e.id + 1), hop := e.members.foldl (fun a m => max a m.hop) 0
                 data := natBytes 8 ((e.members.map (fun m => bytesNat m.data)).sum % 2 ^ 64) })) ∧
    (∀ c, mfind s.crews s.arg.crew = some c → c.wait = .drain → exec .drainComplete s = .next (updCrew s s.arg.crew (fun c => { c with wait := .none, readySince := max c.readySince s.clock }))) ∧
    (∀ l, s.wcb = [l] → l.born + ageOf s l ≤ s.clock → exec .wcLineAgeDrain s = .next (drainLine s l)) ∧
    (∀ l, (∀ o ∈ l.owners, expertOf (ownerAt s o.crew) 4 = false) → ageOf s l = 2800)) ∧
  (
  ∀ (s : State), let k := s.arg.pkt
    let slot := k.slot.toNat
    let trusted := k.src = s.deviceId ∨ k.src ∈ s.managers
    (trusted → k.data.length = 8 → exec .route s = .next { s with
      routes := minsert s.routes (at_ k.data 0 2 % 4096) (BitVec.ofNat 32 (at_ k.data 4 4) &&& 0x807FFFE0) }) ∧
    (¬ trusted → exec .route s = .next { s with discards := s.discards + 1 } ∧ exec .resync s = .next { s with discards := s.discards + 1 }) ∧
    (let code := fun (t : StreamState) => (match t with | .free => 0 | .open_ => 1 | .damaged => 2 | .closed => 3 : BitVec 4)
     let rep := { mkPkt s 0x16 1 k.src with tag := k.tag, slot := k.slot }
     (∀ r, mfind s.rxSlots slot = some r → k.faddr.getLsbD 0 = true → exec .query s = .next (sendPacket s { rep with key := r.key, count := r.arrived, opx := code r.st })) ∧
     (∀ t dev, dev = BitVec.ofNat 12 (fld k.count.toNat 27 16) → mfind s.txSlots (txKey dev k.slot) = some t → k.faddr.getLsbD 0 = false →
      let S := if k.src = dev ∧ t.hw = true then { s with txSlots := mmodify s.txSlots (txKey dev k.slot) (fun t => { t with starved := true }) } else s
      exec .query s = .next (sendPacket S { rep with key := t.key, count := t.sent, opx := code t.st }))) ∧
    (∀ r t, s.reqs.find? (fun r => r.kind == .query && r.dst == k.src && r.addr == slot) = some r → mfind s.txSlots (txKey k.src k.slot) = some t →
      let S := { s with reqs := s.reqs.filter (fun x => x.tag != r.tag), txSlots := mmodify s.txSlots (txKey k.src k.slot) (fun t => { t with starved := false }) }
      (t.st = .damaged ∨ k.opx = 2 → t.lastLoss = 0 ∨ t.lastLoss + 700000 ≤ s.clock → exec .queryrep s = .next (sendPacket S
        { mkPkt s 0x23 2 k.src with slot := k.slot, key := t.key, count := t.sent, faddr := BitVec.ofNat 64 (s.deviceId.toNat * 2 ^ 52 + k.src.toNat) })) ∧
      (t.st ≠ .damaged → k.opx ≠ 2 → exec .queryrep s = .next S)) ∧
    (∀ r, trusted → k.opx ≠ 1 → mfind s.rxSlots slot = some r → exec .resync s = .next (sendPacket
      { s with rxSlots := minsert s.rxSlots slot { r with st := .open_, arrived := k.count }, pflags := s.pflags.filter (fun f => f.slot != slot) }
      { k with dst := BitVec.ofNat 12 (k.faddr.toNat / 2 ^ 52), hop := 0, opx := 1 })) ∧
    (trusted → k.opx = 1 → exec .resync s = .next { s with txSlots := mmodify s.txSlots (txKey (k.faddr.setWidth 12) k.slot) (fun t => { t with st := .open_ }) }) ∧
    (∀ t dev, k.count.toNat / 2 ^ 31 = 1 → dev = BitVec.ofNat 12 (fld k.count.toNat 27 16) → dev ≠ s.deviceId → mfind s.txSlots (txKey dev k.slot) = some t → t.st = .open_ →
      ∃ m, mfind m (txKey dev k.slot) = some { t with st := .damaged, lastLoss := s.clock } ∧ (∀ j, j ≠ txKey dev k.slot → mfind m j = mfind s.txSlots j) ∧
        exec .lossPacket s = .next (postRec { s with txSlots := m } { typ := 0x82, hw := slotHw s t.hw, detail := BitVec.ofNat 64 (slot + 65536 * dev.toNat) } .nobody)) ∧
    (∀ r f, mfind s.rxSlots s.arg.a = some r → s.pflags = [f] → f.slot = s.arg.a → f.pkt.typ = 2 → f.starved = false → f.since + 700 * r.timeout ≤ s.clock →
      let S := postRec { s with pflags := [{ f with starved := true }] } { typ := 0x81, hw := slotHw s r.hw, stamp := f.pkt.stamp, addr := f.pkt.faddr, detail := r.arrived ++ f.target } .nobody
      exec .flagTimeout s = .next (if slotHw s r.hw then sendPacket S { mkPkt s 0x24 2 r.src with
        slot := BitVec.ofNat 16 s.arg.a, key := r.key, faddr := BitVec.ofNat 64 (r.src.toNat * 2 ^ 52 + if r.src = s.deviceId then 1 else 0), count := BitVec.ofNat 32 (s.deviceId.toNat * 65536) } else S)) ∧
    (∀ t, let dev := BitVec.ofNat 12 s.arg.a
      mfind s.txSlots (txKey dev (BitVec.ofNat 16 s.arg.b)) = some t → slotHw s t.hw = true → (t.st = .damaged → t.lastLoss = 0 ∨ t.lastLoss + 700000 ≤ s.clock) →
      (∀ r ∈ s.reqs, ¬ (r.kind = .query ∧ r.dst = dev ∧ r.addr = s.arg.b % 65536)) → ∃ q : RemoteReq, q.kind = .query ∧ q.dst = dev ∧ q.addr = s.arg.b % 65536 ∧ (∀ r ∈ s.reqs, r.tag ≠ q.tag) ∧
      exec .firmwareFlagRecovery s = .next (sendPacket { s with reqs := s.reqs ++ [q] } { mkPkt s 0x24 2 dev with
        slot := BitVec.ofNat 16 s.arg.b, key := t.key, faddr := BitVec.ofNat 64 (dev.toNat * 2 ^ 52 + 1), count := BitVec.ofNat 32 (dev.toNat * 65536) })))

/-- R332, R334, R335, R336, R337, R352: a good flit with the expected SEQ delivers its packet and is counted; one with a bad CRC or another SEQ is answered by a NAK; a NAK sends again all that its ACK does not cover,
unless it repeats the one whose replay has not passed; a port refreshes the counts of its 20 channels; a link with a lane of more than 16 errors comes to rest (the replay has passed and its oldest
flit is acknowledged), then takes the spare lane, or narrows, or dies, and the repaired link sends its mark; a retrain of more than 2 µs or 16 resends without acknowledgement kill it, a LOSS going out for each packet kept for replay. Here what waits at a dying port are packets of one flit.
What the mark carries is the model's choice (log entry 13). -/
def Obligations.LinksCarryFlits : Prop :=
  ∀ (s : State), let p := s.arg.a
    let l := linkAt s p
    let bs := s.arg.bytes
    let good := bs.length = 80 ∧ crc32 (bs.take 76) = at_ bs 76 4
    let turned : Bool := 10000000 ≤ l.seen + 1
    let tl := { l with flits := mset 0 l.flits 1 (mget 0 l.flits 1 + 1), seen := if turned then 0 else l.seen + 1, errs := if turned then [] else l.errs }
    let nak := setLink s p { tl with wire := l.wire ++ [flitBytes l 5 0 31 []] }
    let record := fun (narrow died : Bool) (lane errs : Nat) (S : State) => postRec S
      { typ := 0x85, detail := BitVec.ofNat 64 (p + 32 * lane + (if narrow then 512 else 0) + (if died then 1024 else 0) + 2 ^ 32 * errs) } .nobody
    (portOn s p = false → exec .flitReceive s = .next s) ∧
    (portOn s p = true → l.up = true → ¬ good → exec .flitReceive s = .next nak) ∧
    (portOn s p = true → l.up = true → good → ovOf bs 54 52 = 4 → ovOf bs 95 84 ≠ l.rxSeq → exec .flitReceive s = .next nak) ∧
    (portOn s p = true → l.up = true → good → ovOf bs 54 52 = 4 → ovOf bs 95 84 = l.rxSeq → l.outq = [] → ∃ l' k, exec .flitReceive s = .next (packetIn (setLink s p l') k) ∧
      k = parsePacket (bs.take 64) [] ∧ l'.rxSeq = (l.rxSeq + 1) % 4096 ∧ mget 0 l'.freed (channelOf k) = (mget 0 l.freed (channelOf k) + 1) % 4096 ∧ l'.up = true ∧
      l'.replay = l.replay.filter (fun f => (ovOf bs 83 72 + 4096 - f.1) % 4096 ≥ 2048)) ∧
    (∀ k : Packet, k.dst = s.deviceId → k.typ = 1 → packetIn s k = { s with netIn := s.netIn ++ [k] }) ∧
    (∀ k : Packet, k.dst = s.deviceId → k.typ = 8 → packetIn s k = { s with discards := s.discards + 1 }) ∧
    (∀ k : Packet, k.dst ≠ s.deviceId → packetIn s k = sendPacket s { k with hop := k.hop + 1 }) ∧
    (let ack := s.arg.b % 4096
     let left := l.replay.filter (fun f => (ack + 4096 - f.1) % 4096 ≥ 2048)
     let rate := if l.narrow then 2 else 4
     (l.lastNak ≠ some ack ∨ l.nakUntil ≤ s.clock → exec .nakReceive s = .next (setLink s p { l with
       replay := left.map (fun f => (f.1, { f.2 with tries := f.2.tries + 1 })), wire := l.wire ++ left.map (fun f => flitBytes l f.2.kind f.1 f.2.ch f.2.payload)
       lastNak := some ack, nakUntil := s.clock + (left.length + rate - 1) / rate, flits := mset 0 l.flits 2 (mget 0 l.flits 2 + left.length) })) ∧
     (l.lastNak = some ack → s.clock < l.nakUntil → exec .nakReceive s = .next (setLink s p l))) ∧
    (portOn s p = true → l.up = true → l.retraining = false → exec .creditRefresh s = .next (setLink s p { l with refreshAt := s.clock, wire := l.wire ++ (List.range 20).map (fun c => flitBytes l 0 0 c []) })) ∧
    (let lane := s.arg.b
     let n := mget 0 l.errs lane + s.arg.c
     let dead := fun (errs : Map Nat) (lane n : Nat) =>
       let S := record l.narrow true lane n (setLink s p { l with errs := errs, up := false, replay := [], outq := [], part := [], retraining := false, repair := none })
       (l.outq.map (fun f => f.pkt)).foldl sendPlain
         (((l.replay.map (fun f => f.2.pkt)).eraseDups.flatMap (lossOf S)).foldl (fun S k => (routePacket S k).getD S) S)
     let mended := fun (l : Link) => { l with repair := none, spareUsed := true, narrow := l.spareUsed, retraining := true, retrainAt := s.clock }
     let retrains := fun (l : Link) (lane n : Nat) => record l.spareUsed false lane n (setLink s p { mended l with wire := l.wire ++ [markFlit p (mended l)] })
     let rest := fun (l : Link) (first : Option Nat) => l.nakUntil ≤ s.clock ∧ ∀ k, first = some k → ∀ f ∈ l.replay, f.1 ≠ k
     let due := { l with errs := merase (minsert l.errs lane n) lane, repair := some (lane, n, l.replay.head?.map (fun f => f.1)) }
     l.up = true →
     (n ≤ 16 → l.repair = none → exec .linkLaneRepair s = .next (setLink s p { l with errs := minsert l.errs lane n })) ∧
     (16 < n → l.repair = none → l.retraining = false → ¬ (l.spareUsed = true ∧ l.narrow = true) →
       (rest l (l.replay.head?.map (fun f => f.1)) → exec .linkLaneRepair s = .next (retrains due lane n)) ∧
       (¬ rest l (l.replay.head?.map (fun f => f.1)) → exec .linkLaneRepair s = .next (setLink s p due))) ∧
     (∀ lane n first, l.repair = some (lane, n, first) → l.retraining = false → s.arg.c = 0 →
       (rest l first → exec .linkLaneRepair s = .next (retrains l lane n)) ∧ (¬ rest l first → exec .linkLaneRepair s = .next s)) ∧
     ((∀ f ∈ l.outq, f.kind = 4) →
      (16 < n → l.repair = none → l.retraining = false → l.spareUsed = true → l.narrow = true → exec .linkLaneRepair s = .next (dead (minsert l.errs lane n) lane n)) ∧
      (l.retraining = true → l.retrainAt + 1400 < s.clock → exec .linkRetrainTimeout s = .next (dead l.errs 0 0)) ∧
      ((∃ f ∈ l.replay, 16 ≤ f.2.tries) → exec .flitResendLimit s = .next (dead l.errs 0 0))))

/-! ## The ferry engine (21_ferry_engine.md) -/

/-- R378, R380, R382, R383, R384, R386 (with R379, R381, R385): QSEND and QTRY send an element of the ferry's size from the scratchpad with the next SEQ and the crew's stamp, to a slot on chip or to the overflow area in
memory, and return OK with the count; QRECV and QTRY take the oldest element into the scratchpad and return OK, its SEQ and stamp, and the first overflow element moves on chip; a closed ferry answers CLOSED; QTRY answers FULL
or EMPTY where QSEND and QRECV park at issue; a crew that was served while it was parked has what its ferry did for it. Where an element moves here, no other crew is parked at a ferry; the place that an overflow element takes
(log entry 30), and that of the objects an element overlaps only named ones are updated (log entry 8), are the model's choices. -/
def Obligations.FerriesMoveElements : Prop :=
  ∀ (f : QF) (s : State) (c : Crew),
    let n := (sget (seen s c) f.p1.toNat).toNat
    let off := (sget (seen s c) f.p2.toNat).toNat
    let q := ferryAt s n
    let s0 := started s c
    let alone := ∀ p ∈ s0.crews, p.2.wait ≠ .atIssue .ferry
    let broken := fun (part : Nat) => 1024 ≤ n ∨ (q.en = false ∧ q.everClosed = false) ∨ c.part ≠ part
    let word := fun (code count : Nat) => (BitVec.ofNat 32 (2 ^ 31 + code * 2 ^ 28 + min (2 ^ 24 - 1) count) : Word)
    let returns := fun (ws : List Word) => (addPend c { id := c.seq, kind := .status, ready := true, drains := true, targets := ws.zipIdx.map (fun w =>
      { file := .scalar, idx := f.d.toNat + w.2, lane := 0, val := w.1 }) }).pend
    let runs := fun (i : Instr) (S : State) (ws : List Word) => ∃ t, exec i s = .next t ∧ GoesOn S t c (nextPc s c i) (returns ws) id
    let parks := fun (i : Instr) => exec i s = .next (updCrew s s.cur (fun c => { c with
      wait := .atIssue .ferry, parkedAt := if c.wait == .atIssue .ferry then c.parkedAt else s.clock, markerWait := c.markerWait || (s.ir.m == 1 && !c.pend.isEmpty) }))
    let stops := fun (i : Instr) (part : Nat) =>
      (off % 4 ≠ 0 → exec i s = .next (trapped s0 c i 0x05 (BitVec.ofNat 64 off))) ∧
      (off % 4 = 0 → broken part → exec i s = .next (trapped s0 c i 0x13 (BitVec.ofNat 64 n))) ∧
      (off % 4 = 0 → ¬ broken part → (teamAt s c.teamKey).size < off + q.esize → exec i s = .next (trapped s0 c i 0x13 (BitVec.ofNat 64 off)))
    let fine := fun (part : Nat) => off % 4 = 0 ∧ ¬ broken part ∧ off + q.esize ≤ (teamAt s c.teamKey).size
    let into := fun (S : State) (o : Nat) (e : FElem) => barTouch (scW S c.teamKey o e.bytes) c.teamKey [(o, e.bytes.length)]
    (c.strict = true → holdsToken s c = true) → (countedIds c).length < 16 →
    (∀ i ∈ [Instr.qsend f, .qtrySend f], Clear s c i [useS f.p1 1 false, useS f.p2 1 false, useS f.d 1 true] →
      (∀ n' t, turnOf s s.cur c.pc true = some (n', t) → runs i (setFerry s0 n' { ferryAt s n' with turns := (ferryAt s n').turns.erase t }) [t.status]) ∧
      (turnOf s s.cur c.pc true = none → stops i q.prod ∧ (fine q.prod →
        (ferryClosed q = true → runs i s [word 3 0]) ∧
        (ferryClosed q = false → alone → q.elems.length < q.cap + q.granted →
          (q.fabric = true → ∀ l ∈ s.wcb, l.isle = isleOf c.gcrew → (txAt s l.dev l.slot).st = .open_) →
          let S := count (if q.fabric then drainLines s0 (isleOf c.gcrew) (fun _ => true) else s0) 5362 1
          let e : FElem := { bytes := Memory.bytes (teamAt s c.teamKey).scratch off q.esize, stamp := stampOf c (lowest c.exm), seq := q.accepted }
          let put := fun (S : State) (e : FElem) =>
            runs i (setFerry S n { q with elems := q.elems ++ [e], accepted := q.accepted + 1, lastMove := s.clock }) [word 0 (q.elems.length + 1)]
          (q.elems.length < q.cap → (∀ x ∈ q.elems, x.at_ = none) → put S e) ∧
          (q.cap ≤ q.elems.length → (∀ x ∈ q.elems.zipIdx, x.1.at_ = none ↔ x.2 < q.cap) → s.poison = [] → ∀ j, j < q.ovcap → j ≤ q.elems.length →
            (∀ x ∈ q.elems, x.at_ ≠ some (q.ovbase + j * q.esize)) → (∀ m < j, ∃ x ∈ q.elems, x.at_ = some (q.ovbase + m * q.esize)) →
            put { S with mem := Memory.writes S.mem (q.ovbase + j * q.esize) e.bytes } { e with bytes := [], at_ := some (q.ovbase + j * q.esize) })) ∧
        (ferryClosed q = false → q.cap + q.granted ≤ q.elems.length → (i = .qtrySend f → runs i s [word 2 q.elems.length]) ∧ (i = .qsend f → parks i))))) ∧
    (∀ i ∈ [Instr.qrecv f, .qtryRecv f], Clear s c i [useS f.p1 1 false, useS f.p2 1 false, useS f.d 4 true] →
      (∀ n' t, turnOf s s.cur c.pc false = some (n', t) → let S := setFerry s0 n' { ferryAt s n' with turns := (ferryAt s n').turns.erase t }
        (t.elem = none → runs i S [t.status]) ∧ (∀ e, t.elem = some e → runs i (into S t.off e) [t.status, e.seq, loWord e.stamp, hiWord e.stamp])) ∧
      (turnOf s s.cur c.pc false = none → stops i q.cons ∧ (fine q.cons →
        (ferryClosed q = true → runs i s [word 3 0]) ∧
        (ferryClosed q = false → alone → ∀ e r, q.elems = e :: r → e.at_ = none →
          let gets := fun (r' : List FElem) =>
            runs i (into (setFerry (count s0 5363 1) n { q with elems := r', granted := if r.isEmpty then 0 else q.granted, lastMove := s.clock }) off e)
              [word 0 r.length, e.seq, loWord e.stamp, hiWord e.stamp]
          (r.length ≤ q.cap → (∀ x ∈ r, x.at_ = none) → gets r) ∧
          (∀ r1 o r2 a, r = r1 ++ o :: r2 → r1.length + 1 = q.cap → (∀ x ∈ r1, x.at_ = none) → o.at_ = some a → (∀ x ∈ r2, x.at_ ≠ none) →
            gets (r1 ++ { o with bytes := Memory.bytes s.mem a q.esize, at_ := none } :: r2))) ∧
        (ferryClosed q = false → q.elems = [] → (i = .qtryRecv f → runs i s [word 1 0]) ∧ (i = .qrecv f → parks i))))) ∧
    (growDue s s.arg.a = true → let q := ferryAt s s.arg.a
      let g := min q.ovcap (q.granted + 64)
      exec .ferryOverflowGrow s = .next (serveAll (count (setFerry s s.arg.a { q with granted := g, growAt := s.clock }) 5364 (g - q.granted)) s.arg.a)) ∧
    (∀ m k, ferryCycles s = [(m, k)] → (m, k) ∉ s.cycleRec → exec .chancycleDetect s = .next (postRec { s with cycleRec := [(m, k)] }
      { typ := 0x83, part := ((List.range 16).find? (fun p => m.testBit p)).getD 0, detail := BitVec.ofNat 64 (m + 65536 * k) } .nobody))

/-! ## The collective engine (19_collective_engine.md, 20_program_two_communicators.md) -/

/-- R360, R361, R362, R368, R369, R372, R374 (with R367, R371): COLL takes the next SEQ of its slot and queues its operation there, with its status word outstanding: a BARRIER reports its end to rank 0 at
once, a BARBCAST reports its issue to the root; on a BROKEN slot the status is reason 5 at once. COLL_DEF claims a FREE slot and sends DEFINE to the other members, or answers reason 7; a slot of one member is READY at once.
COLL_UNDEF closes a slot, which is FREE once its operations have ended. A misaligned offset traps MISALIGN, and a record past the scratchpad's end RANGE.
That a BROKEN slot still takes a SEQ (log entry 33), and the fields of the packets (log entry 13), are the model's choices. -/
def Obligations.CollectiveInstructions : Prop :=
  ∀ (f : QF) (s : State) (c : Crew),
    let off := (sget (seen s c) f.p1.toNat).toNat
    let team := teamAt s c.teamKey
    let s0 := started s c
    let us := [useS f.p1 1 false, useS f.d 1 true]
    let runs := fun (i : Instr) (S : State) (pd : List Pend) => ∃ t, exec i s = .next t ∧ GoesOn S t c (nextPc s c i) pd id
    let ends := fun (i : Instr) (S : State) (n : Nat) => c.pend = [] → c.held = [] → c.saving = none →
      ∃ t, exec i s = .next t ∧ GoesOn S t c (nextPc s c i) [] (fun c => { c with sreg := mset 0 c.sreg f.d.toNat (BitVec.ofNat 32 (2 ^ 31 + n * 256)) })
    (countedIds c).length < 16 →
    (∀ i ∈ [Instr.coll f, .collDef f, .collUndef f], Clear s c i us →
      (off % 32 ≠ 0 → exec i s = .next (trapped s0 c i 0x05 (BitVec.ofNat 64 off) 2)) ∧
      (off % 32 = 0 → team.size < off + (if i = .collUndef f then 1 else 32) → exec i s = .next (trapped s0 c i 0x13 (BitVec.ofNat 64 off) 2))) ∧
    (let bs := Memory.bytes team.scratch off 32
     let n := at_ bs 4 1
     let d := commAt s n
     let o := { descOp (ctxOf s c (.coll f)) s bs with seq := d.seq }
     let queued := updComm s0 n (fun d => { d with seq := (d.seq + 1) % 256, ops := d.ops ++ [o] })
     Clear s c (.coll f) us → collBad (ctxOf s c (.coll f)) f s = none → d.ops.length < 4 →
     (d.st = .ready → mfind d.seen d.seq = none → o.opc = 0 → d.slots = [] → (∀ p ∈ d.ops, p.seq ≠ d.seq ∧ p.reported = true ∧ p.opc = 0) →
       runs (.coll f) (sendPlain (updOp queued n d.seq (fun o => { o with reported := true })) (collPkt s n d 0x33 0 0 o)) (withStatus c f.d.toNat none)) ∧
     (d.st = .ready → (∀ k, mfind d.seen d.seq = some k → mismatch k o = false) →
       let w0 := updCrew queued s.cur (fun c => addPend c { id := c.seq, kind := .status, ready := false, drains := false, targets := [{ file := .scalar, idx := f.d.toNat, lane := 0, val := 0 }] })
       let w := if o.opc ≠ 5 then w0 else if o.root = d.rank then updComm w0 n (fun d => { d with reps := d.reps ++ [(o.seq, 1, d.rank)] }) else sendPlain w0 (collPkt s n d 0x33 o.root 1 o)
       (advance w n).crews = w.crews → runs (.coll f) { advance w n with crews := s0.crews } (withStatus c f.d.toNat none)) ∧
     (d.st = .broken → runs (.coll f) (updComm s n (fun d => { d with seq := (d.seq + 1) % 256 })) (withStatus c f.d.toNat (some (BitVec.ofNat 32 (2 ^ 31 + 2 ^ 30 + 5 * 65536 + n * 256 + d.seq)))))) ∧
    (let x := ctxOf s c (.collDef f)
     let bs := defBytes x f s
     let n := at_ bs 0 1
     let d := defComm x s bs
     Clear s c (.collDef f) us → defTrap x f s = none →
     (mfind s.comms n = none → collUsed s + d.n * d.chunk ≤ 6 * 2 ^ 20 →
       (1 < d.n → runs (.collDef f) (sendDefine { s0 with comms := minsert s.comms n d } n 0 (otherRanks d)) (withStatus c f.d.toNat none)) ∧
       (d.n = 1 → memberOf d d.rank = s.deviceId → ends (.collDef f) { s0 with comms := minsert s.comms n { d with st := .ready, defWait := none } } n)) ∧
     (mfind s.comms n ≠ none ∨ 6 * 2 ^ 20 < collUsed s + d.n * d.chunk →
       runs (.collDef f) s (withStatus c f.d.toNat (some (BitVec.ofNat 32 (2 ^ 31 + 2 ^ 30 + 7 * 65536 + n * 256)))))) ∧
    (let n := bytesNat (Memory.bytes team.scratch off 1)
     Clear s c (.collUndef f) us → undefTrap (ctxOf s c (.collUndef f)) f s = none →
     ((commAt s n).ops ≠ [] → runs (.collUndef f) (updComm s n (fun d => { d with st := .closing, closeWait := some (s.cur, c.seq) })) (withStatus c f.d.toNat none)) ∧
     ((commAt s n).ops = [] → (∃ t, exec (.collUndef f) s = .next t ∧ mfind t.comms n = none) ∧ ends (.collUndef f) { s0 with comms := merase s.comms n } n))

/-- R360, R361, R363, R365, R366, R367, R371, R372, R373, R375: the pieces of a member's DEFINE count while they agree, those that differ undo them, and a member that defines a READY slot again is answered; a chunk lands in the receive slot of its sender; a chunk, credit, report or release for a FREE slot fails its sender with 0x06; CREDIT frees a slot at its
sender; rank 0 releases every member at the last report of an end; a release ends the operation with its status; an ABORT breaks the slot and ends this operation and the later ones; the sender marks and sends its next
chunk, a value of the tide engine first; the timeouts fail what they watch; the firmware sends a break report for a record, rank 0's sends the releases at the last report, and a record is answered with 2 at the release, with
3 when none comes.
The kinds of packets and the pieces of a DEFINE (log entry 13) and the reduction of the tide engine (log entry 26) are the model's choices. -/
def Obligations.CollectivePacketsAndTimeouts : Prop :=
  ∀ (s : State), let k := s.arg.pkt
    let n := k.slot.toNat % 64
    let c := commAt s n
    let rank := k.slot.toNat / 256
    let kind := fld k.tag.toNat 14 12
    let q := fld k.faddr.toNat 39 32
    let a := s.arg.a
    let d := commAt s a
    let live := c.st = .ready ∨ c.st = .closing
    (let i := k.faddr.toNat % 2 ^ 32
     let whole := fun (ps : List (Nat × Nat)) => ∀ j < (definePieces c).length, (rank, j) ∈ ps
     let old := if k.opx = 0 ∧ whole c.defParts then c.defParts.filter (fun p => p.1 != rank) else c.defParts
     let parts := if old.contains (rank, i) then old else old ++ [(rank, i)]
     c.st = .defining ∨ c.st = .ready → memberOf c rank = k.src → rank ≠ c.rank → rank < c.n →
     ((definePieces c)[i]? ≠ some k.data → exec .collDefinePacket s = .next (updComm s n (fun c => { c with
       defParts := c.defParts.filter (fun p => p.1 != rank), definedBy := if c.st = .ready then c.definedBy else c.definedBy.filter (fun r => r != rank) }))) ∧
     ((definePieces c)[i]? = some k.data → ¬ whole parts → exec .collDefinePacket s = .next (updComm s n (fun c => { c with defParts := parts }))) ∧
     ((definePieces c)[i]? = some k.data → whole parts →
       (c.st = .defining → c.defWait.isSome = true → memberOf c c.rank = s.deviceId → k.opx = 1 → ∃ t, exec .collDefinePacket s = .next t ∧ rank ∈ (commAt t n).definedBy ∧
         (commAt t n).st = if ∀ r ∈ otherRanks c, r = rank ∨ r ∈ c.definedBy then .ready else .defining) ∧
       (c.st = .ready → k.opx = 0 → rank ∈ c.definedBy → exec .collDefinePacket s = .next (sendDefine (updComm s n (fun c => { c with defParts := parts })) n 1 [rank])))) ∧
    (c.st = .ready → kind ≠ 3 → c.ops = [] → exec .collChunk s = .next (updComm (if (mfind c.slots rank).isNone then count s 5361 1 else s) n (fun c => { c with
      slots := match mfind c.slots rank with
        | some r => minsert c.slots rank { r with got := minsert r.got (k.faddr.toNat % 2 ^ 32) k.data }
        | none => minsert c.slots rank { first := k, got := [(k.faddr.toNat % 2 ^ 32, k.data)] }
      seen := if (mfind c.seen q).isSome then c.seen else minsert c.seen q k }))) ∧
    (c.st = .ready → kind = 3 → (∀ v ∈ c.tideIn, ¬ (v.1 = k.count.toNat ∧ v.2.1 = rank)) → exec .collChunk s = .next (updComm s n (fun c => { c with
      tideIn := c.tideIn ++ [(k.count.toNat, rank, if k.len = 0 then none else some (bytesNat (k.data.take 8)))] }))) ∧
    (c.st = .free → kind ≠ 2 → ∀ i ∈ [Instr.collChunk, .collCredit, .collReport, .collRelease], ∃ b, exec i s = .next (sendPlain s b) ∧ b.typ = 0x35 ∧ b.dst = k.src ∧ b.opx = 1 ∧ b.count = 6 ∧
      fld b.faddr.toNat 39 32 = q ∧ b.slot.toNat = n) ∧
    (c.st ≠ .broken → c.st ≠ .free → exec .collCredit s = .next (updComm s n (fun c => { c with busy := c.busy.filter (fun r => r != rank) }))) ∧
    (∀ o, live → kind = 0 → c.ops.find? (fun o => o.seq == q) = some o → (mfind c.seen q).isSome = true ∨ mismatch k o = false → (q, 0, rank) ∉ c.reps → (∀ r < c.n, r ≠ rank → (q, 0, r) ∈ c.reps) →
      exec .collReport s = .next (collCtl (updComm s n (fun c => { c with
        reps := c.reps ++ [(q, 0, rank)], seen := if (mfind c.seen q).isSome then c.seen else minsert c.seen q k })) n 0x34 0 o (List.range c.n))) ∧
    (∀ o, live → kind ≠ 2 → c.closeWait = none → c.ops.find? (fun o => o.seq == q) = some o → o.reported = true →
      exec .collRelease s = .next (landPend (updComm s n (fun c => { c with
        ops := c.ops.filter (fun p => p.seq != o.seq), reps := c.reps.filter (fun r => r.1 != o.seq), seen := merase c.seen o.seq })) o.crew o.pendId (fun _ => true)
        (fun _ => some (BitVec.ofNat 32 (2 ^ 31 + n * 256 + o.seq))))) ∧
    (live ∨ c.st = .defining → c.closeWait = none → k.opx ≠ 1 → ∃ t, exec .collAbort s = .next t ∧ (commAt t n).st = .broken ∧ (commAt t n).ops = c.ops.filter (fun p => 128 ≤ (p.seq + 256 - q) % 256)) ∧
    (∀ m e j r o S bs, chunkNext s = some (m, e, j, r) → e ≠ 256 → collOp s m e = some o → o.opc = 1 →
      collRead s m o (o.src + j * chunkSize (commAt s m) o) (chunkLen (commAt s m) o j) = (S, some bs) → 0 < bs.length → bs.length ≤ 256 → let h := collPkt S m (commAt s m) 0x31 r 0 o
      exec .collChunkSend s = .next (advance (count (sendPlain { updComm (updOp S m e (fun o => { o with sent := o.sent ++ [256 * j + r] })) m (fun c => { c with busy := c.busy ++ [r] }) with lastComm := m }
        { h with faddr := h.faddr + BitVec.ofNat 64 (j * chunkSize (commAt s m) o), len := bs.length, data := bs }) 5360 1) m)) ∧
    (∀ m j r key v x w, chunkNext s = some (m, 256, j, r) → (commAt s m).tideOut = (key, v, some x) :: w →
      exec .collChunkSend s = .next (sendPlain { updComm s m (fun c => { c with tideOut := w }) with lastComm := m }
        { collPkt s m { commAt s m with prio := 3 } 0x31 v 3 {} with count := BitVec.ofNat 32 key, len := 8, data := natBytes 8 x })) ∧
    (∀ o, s.arg.b ≠ 256 → d.ops.find? (fun o => o.seq == s.arg.b) = some o → o.born + 700 * d.timeout ≤ s.clock →
      (d.st = .ready → exec .collTimeout s = .next (collFail s a o.seq 3 d.rank true)) ∧ (d.st = .broken → exec .collTimeout s = .next (finishOp s a o 3))) ∧
    (∀ w, d.st = .defining → d.defWait = some w → d.defBorn + 700 * d.timeout ≤ s.clock → exec .collDefTimeout s = .next
      (landPend { s with comms := merase s.comms a } w.1 w.2 (fun _ => true) (fun _ => some (BitVec.ofNat 32 (2 ^ 31 + 2 ^ 30 + 6 * 65536 + a * 256))))) ∧
    (∀ j r b t, s.faultq.open_ = [(j, (r, .comm a))] → mfind s.breaks a = some b → r.hw = true → b.failAt = some t →
      (b.sent = false → exec .firmwareCollReset s = .next (sendPlain { s with breaks := minsert s.breaks a { b with sent := true } } (collPkt s a b.comm 0x33 0 2 {}))) ∧
      (t + 700 * b.comm.timeout ≤ s.clock → exec .collBreakTimeout s = .next
        { wrN s (recAddr s.faultq j + 60) 4 3 with faultq := { s.faultq with open_ := [] }, breaks := merase s.breaks a })) ∧
    (∀ b, kind = 2 → mfind s.breaks n = some b →
      (rank ∉ b.reps → (∀ r < b.comm.n, r ≠ rank → r ∈ b.reps) → exec .collReport s = .next
        ((List.range b.comm.n).foldl (fun s q => sendPlain s (collPkt s n b.comm 0x34 q 2 {})) { s with breaks := minsert s.breaks n { b with reps := [] } })) ∧
      (∀ j r, s.faultq.open_ = [(j, (r, .comm n))] → b.sent = true → c.st = .broken → c.ops = [] → c.defWait = none → exec .collRelease s = .next
        { wrN (updComm s n (fun c => { c with st := .ready, slots := [], busy := [], seq := 0, reps := [], seen := [], tideBorn := none, tideOut := [], tideIn := [] })) (recAddr s.faultq j + 60) 4 2 with
          faultq := { s.faultq with open_ := [] }, breaks := merase s.breaks n }))

/-! ## The watch engine (23_watch_engine.md) -/

/-- R413, R414, R415, R417, R408, R409, R411 (with R407, R423): TMARK of an untraced crew only goes on, and of a traced one gives its packet to its shelf's writer, which PMARK does for any crew; the writer takes a cycle's packets in ascending gcrew,
a due LOSS packet first, and drops a packet that finds no room; WATCHSET
sets or disables a region of the crew's partition, and traps RANGE on a bad operand and PRIV outside a handler; BRK traps with its code, or stops the crew after it when it is armed for the launch.
R417, R418, R421, R411 (with R407): a crew whose next instruction has a breakpoint that names it stops before it, with reason 1 and the breakpoint's number; a stop halts the crew and writes its BRK record
(0x51); the step of a crew ends in a stop with reason 4, which answers its STEP; a stop that waited for an XIR lands after it; a tick of the series writes one frame of what was counted since the
last, or counts a drop when the ring is full; a shelf's pointer is published.
Which words of a frame count, the others being free (log entry 10), and what a breakpoint compares (log entry 40) are the model's choices. -/
def Obligations.WatchInstructionsStopsAndTicks : Prop :=
  (
  ∀ (f : SF) (s : State) (c : Crew) (b : TBuf),
    let sh := shelfOf c.gcrew
    let low := lowest c.exm
    let put := fun (s : State) (k : Option Nat) (bs : List Byte) => { s with tracePend := s.tracePend ++ [{ shelf := sh, gcrew := c.gcrew, crew := k, bytes := bs }] }
    let head := fun (typ h : Nat) => natBytes 2 (typ * 8192 + c.gcrew.toNat % 8192) ++ natBytes 2 h ++ natBytes 4 (sget (seen s c) f.d.toNat).toNat
    let last := natBytes 8 (stampOf c low).toNat ++ natBytes 4 c.lid
    (Clear s c (.tmark f) [useS f.d 1 false] → ∃ t, exec (.tmark f) s = .next t ∧ GoesOn s t c (nextPc s c (.tmark f)) c.pend id) ∧
    (∀ tr : TraceSt, c.trace = tr → tr.traced = true → tr.started = true → tr.syncDue = false → s.clock - tr.lastPkt < 65536 → tr.sinceSync < 1024 → mfind s.tbufs sh = some b → mfind s.crews s.cur = some c → c.exm ≠ 0 →
      Instr.wf (.tmark f) = true → useBad c (useS f.d 1 false) = false → hazardOn c = false → lowWater s = false → acqHold s s.cur = false →
      (∀ L < 32, c.exm.getLsbD L = false → (frGet c.fr L).st ≠ .live) → ∃ t, exec (.tmark f) s = .next t ∧ t.tbufs = s.tbufs ∧ t.mem = s.mem ∧
        t.tracePend = (put s (some s.cur) (head 4 (s.clock - tr.lastPkt) ++ natBytes 4 c.exm.toNat ++ natBytes 4 f.code.toNat ++ last ++ natBytes 4 ((c.pc - tr.refPc).toNat % 2 ^ 32))).tracePend) ∧
    (Clear s c (.pmark f) [useS f.d 1 false] → (mfind s.tbufs sh = none → ∃ t, exec (.pmark f) s = .next t ∧ GoesOn s t c (nextPc s c (.pmark f)) c.pend id) ∧
      (mfind s.tbufs sh = some b → ∃ t, exec (.pmark f) s = .next t ∧ GoesOn (put s none (head 6 f.code.toNat ++ natBytes 8 s.clock ++ last ++ natBytes 4 c.exm.toNat)) t c (nextPc s c (.pmark f)) c.pend id)) ∧
    (let base := (sget2 (seen s c) f.d.toNat).toNat
     let len := (sget (seen s c) (f.d.toNat + 2)).toNat
     let flag := (sget (seen s c) (f.d.toNat + 3)).toNat
     Clear s c (.watchset f) [useS f.d 4 false] → expertOf c 8 = true →
     (c.tdepth = 0 → exec (.watchset f) s = .next (trapped s c (.watchset f) 0x02 0)) ∧
     (c.tdepth ≠ 0 → base % 4 ≠ 0 ∨ 2 ^ 56 ≤ base → exec (.watchset f) s = .next (trapped (started s c) c (.watchset f) 0x13 (BitVec.ofNat 64 base))) ∧
     (c.tdepth ≠ 0 → base % 4 = 0 → base < 2 ^ 56 → (len % 4 ≠ 0 → exec (.watchset f) s = .next (trapped (started s c) c (.watchset f) 0x13 (BitVec.ofNat 64 len))) ∧
       (len % 4 = 0 → 1 < flag → exec (.watchset f) s = .next (trapped (started s c) c (.watchset f) 0x13 (BitVec.ofNat 64 flag))) ∧
       (len % 4 = 0 → flag ≤ 1 → 2 ^ 56 < base + len → exec (.watchset f) s = .next (trapped (started s c) c (.watchset f) 0x13 (BitVec.ofNat 64 base)))) ∧
     (c.tdepth ≠ 0 → base % 4 = 0 → len % 4 = 0 → base + len ≤ 2 ^ 56 → base < 2 ^ 56 → flag ≤ 1 → ∃ t, exec (.watchset f) s = .next t ∧ GoesOn { s with
       regions := if len = 0 then merase s.regions (f.code.toNat % 8) else minsert s.regions (f.code.toNat % 8)
         { base := base, len := len, part := c.part, lid := if flag = 1 then some c.lid else none } } t c (nextPc s c (.watchset f)) c.pend id)) ∧
    (Clear s c .brk [] → (s.armed.contains c.lid = false → exec .brk s = .next (trapped (started s c) c .brk 0x51 (BitVec.ofNat 64 (s.ir.aux.toNat / 64)))) ∧
      (s.armed.contains c.lid = true → ∃ t, exec .brk s = .next (stopCrew t s.cur 2 0 (s.ir.aux.toNat / 64)) ∧ GoesOn s t c (nextPc s c .brk) c.pend id))) ∧
  (
  (∀ (s : State) (c : Crew) (n : Nat) (b : Brk), mfind s.crews s.arg.crew = some c → s.brks = [(n, b)] → b.lid = c.lid → c.text + b.off.setWidth 56 = c.pc → (b.crew = 0xFFFFFFFF ∨ b.crew.toNat = c.lcid) →
    b.isleStop = false → c.halt = .running → c.saved = false → c.stepping ≠ 1 → exec .breakpointStop s = .next (stopCrew s s.arg.crew 1 n 0)) ∧
  (∀ (s : State) (k reason idx code : Nat) (c : Crew), mfind s.crews k = some c → stopCrew s k reason idx code = postRec (updCrew s k (fun c => { c with halt := .stopped reason, stepping := 0, stopNext := none }))
    { typ := 0x51, gcrew := c.gcrew, lid := BitVec.ofNat 32 c.lid, part := c.part, pc := c.pc.setWidth 64, lanes := c.exm, stamp := stampOf c (lowest c.exm)
      detail := BitVec.ofNat 64 (reason + 256 * idx + 65536 * code) } .nobody) ∧
  (∀ (s : State) (c : Crew) (res : Nat), s.arg.b = 1 → mfind s.crews s.arg.crew = some c → stepEnds c = true → s.stepReq = some (s.arg.crew, res) →
    exec .stepReq s = .next (writeResult { stopCrew s s.arg.crew 4 0 0 with stepReq := none } res 0 0)) ∧
  (∀ (s : State) (tick : Nat) (now : Map Nat) (rest : List (Nat × Map Nat)), let e := s.series
    e.due = (tick, now) :: rest → let room := (e.w - BitVec.ofNat 32 (bytesNat (Memory.bytes s.mem e.rAddr 4))).toNat
    (e.frames ≤ room → exec .counterTick s = .next { s with series := { e with due := rest, last := now, dropped := e.dropped + 1 } }) ∧
    (room < e.frames → let head := natBytes 8 (tick / 2 ^ e.k) ++ natBytes 8 tick ++ natBytes 4 e.k ++ natBytes 4 e.dropped.toNat ++ List.replicate 40 0
      let val := fun (m : Map Nat) (i : Nat) => mget 0 m i / (if 4112 ≤ i ∧ i < 5136 ∧ 2 ≤ i % 4 then 64 else 1)
      ∃ counts : List Byte, counts.length = 21440 ∧ (∀ i < 5351, isCounted (i + 16) = true → (counts.drop (4 * i)).take 4 = natBytes 4 ((val now (i + 16) - val e.last (i + 16)) % 2 ^ 32)) ∧
        exec .counterTick s = .next { s with
        mem := Memory.writes (Memory.writes s.mem (e.base + e.w.toNat % e.frames * 21504) (head ++ counts)) e.wAddr (natBytes 4 (e.w + 1).toNat)
        free := s.free + 5351, series := { e with due := rest, last := now, w := e.w + 1, dropped := 0 } })) ∧
  (∀ (s : State) (p : TPkt) (b : TBuf), mfind s.tbufs p.shelf = some b → let n := mget 0 s.lost p.shelf
    let fill := fun (w : Word) => (w - BitVec.ofNat 32 (bytesNat (Memory.bytes s.mem b.rAddr 4))).toNat
    let put := fun (s : State) (w : Word) (bs : List Byte) => { s with
      mem := Memory.writes s.mem (b.base + w.toNat % 2 ^ b.size) bs, tbufs := minsert s.tbufs p.shelf { b with w := w + 32 } }
    let loss := natBytes 2 0x6000 ++ natBytes 2 0 ++ natBytes 4 n ++ natBytes 8 s.clock ++ natBytes 16 0
    (n = 0 → fill b.w ≤ 2 ^ b.size - 64 → takePacket s p = put s b.w p.bytes) ∧
    (n ≠ 0 → fill b.w ≤ 2 ^ b.size - 64 → fill (b.w + 32) ≤ 2 ^ b.size - 64 → (∀ i < 4, b.base + b.w.toNat % 2 ^ b.size + 32 ≤ b.rAddr + i ∨ b.rAddr + i < b.base + b.w.toNat % 2 ^ b.size) →
      takePacket s p = put (put { s with lost := merase s.lost p.shelf } b.w loss) (b.w + 32) p.bytes) ∧
    (2 ^ b.size - 64 < fill b.w → takePacket s p = let S := { s with lost := minsert s.lost p.shelf (n + 1) }
      match p.crew with
      | some k => updCrew S k (fun c => { c with trace := { c.trace with syncDue := true } })
      | none => S)) ∧
  (∀ (s : State) (p q : TPkt), (s.tracePend = [] → flushTrace s = s) ∧ (s.tracePend = [p] → flushTrace s = takePacket { s with tracePend := [] } p) ∧
    (s.tracePend = [p, q] → flushTrace s = if q.gcrew.toNat < p.gcrew.toNat then takePacket (takePacket { s with tracePend := [] } q) p else takePacket (takePacket { s with tracePend := [] } p) q)) ∧
  (∀ (s : State) (c : Crew) (r i n : Nat), s.arg.b = 1 → mfind s.crews s.arg.crew = some c → c.stopNext = some (r, i, n) → c.halt = .running → c.saved = false → c.xir = none →
    exec .stopReq s = .next (stopCrew s s.arg.crew r i n)) ∧
  (∀ (s : State) (b : TBuf), mfind s.tbufs s.arg.a = some b → let n := mget 0 s.lost s.arg.a
    (n = 0 → b.w ≠ b.published → exec .tracePointerPublish s = .next { s with
      mem := Memory.writes s.mem b.wAddr (natBytes 4 b.w.toNat), tbufs := minsert s.tbufs s.arg.a { b with published := b.w } }) ∧
    (n ≠ 0 → (b.w - BitVec.ofNat 32 (bytesNat (Memory.bytes s.mem b.rAddr 4))).toNat ≤ 2 ^ b.size - 64 → b.w + 32 ≠ b.published → exec .tracePointerPublish s = .next { s with
      mem := Memory.writes (Memory.writes s.mem (b.base + b.w.toNat % 2 ^ b.size) (natBytes 2 0x6000 ++ natBytes 2 0 ++ natBytes 4 n ++ natBytes 8 s.clock ++ natBytes 16 0)) b.wAddr (natBytes 4 (b.w + 32).toNat)
      lost := merase s.lost s.arg.a, tbufs := minsert s.tbufs s.arg.a { b with w := b.w + 32, published := b.w + 32 } })))

/-- R406, R407, R408, R415, R418, R419, R420, R170 (with R423): the head request of the ring advances the head word, has its effect and writes its result word, OK or the code of its error; a STEP answers once its
crew has stopped. Here a request names one crew, `k`, of an expert launch.
That a BREAK which clears asks for no launch, and the codes of DUMP and RESUME (log entry 42), and the image of a DUMP (log entry 12) are the model's choices. -/
def Obligations.WatchRequests : Prop :=
  ∀ (s : State) (bs : List Byte) (k : Nat) (c : Crew) (l : Launch), Intact s →
    let op := at_ bs 0 1
    let r := watchReqOf bs
    let S := writeWatchHead { s with watchRing := { s.watchRing with head := s.watchRing.head + 1 } }
    let ends := fun (i : Instr) (t : State) (code : Nat) => exec i s = .next (writeResult t r.res code 0)
    watchHead s = (s, .entry bs) →
    (op = 14 → r.res < 2 ^ 56 → ends .bufferReq S 1) ∧ (reqBad bs = false →
    (let S := flushTrace S
     (op = 1 → r.arg1 = 0 → ends .bufferReq { S with tbufs := ((List.range 16).filter (fun i => r.arg0.testBit i)).foldl merase S.tbufs } 0) ∧
     (op = 1 → 16 ≤ r.arg1 → r.arg1 ≤ 30 → inMem r.addr (2 ^ r.arg1) = true → inMem r.p0 4 = true → inMem r.p1 4 = true → let w := BitVec.ofNat 32 (bytesNat (Memory.bytes S.mem r.p0 4))
      ends .bufferReq { S with tbufs := ((List.range 16).filter (fun i => r.arg0.testBit i)).foldl (fun m i => minsert m i
        { base := r.addr, size := r.arg1, wAddr := r.p0, rAddr := r.p1, w := w, published := w }) S.tbufs } 0)) ∧
    (op = 3 → r.arg0 = 0 → ends .seriesReq { S with series := {} } 0) ∧
    (∀ j ≤ 16, op = 3 → 10 ≤ r.arg0 → r.arg0 ≤ 24 → r.arg1 = 2 ^ j → inMem r.addr (21504 * r.arg1) = true → inMem r.p0 4 = true → inMem r.p1 4 = true → ends .seriesReq { S with
      series := { base := r.addr, frames := r.arg1, k := r.arg0, wAddr := r.p0, rAddr := r.p1, w := BitVec.ofNat 32 (bytesNat (Memory.bytes S.mem r.p0 4))
                  last := mget [] S.countAt r.arg0 } } 0) ∧
    (op = 4 → r.flags = 0 → r.addr % 4 = 0 → r.arg1 % 4 = 0 → r.addr + r.arg1 ≤ 2 ^ 56 → r.addr < 2 ^ 56 → ends .regionReq { S with
      regions := if r.arg1 = 0 then merase S.regions r.arg0 else minsert S.regions r.arg0 { base := r.addr, len := r.arg1, part := r.p0 % 256, lid := none } } 0) ∧
    (op = 5 → r.flags = 0 → ends .breakReq { S with brks := merase S.brks r.arg0 } 0)) ∧
    (reqBad bs = false → mfind s.launches r.lid = some l → l.desc.expert.getLsbD 8 = true → reqCrews s r = [(k, c)] → r.all = false → mfind s.crews k = some c → s.isleStops = [] →
    (op = 2 → r.flags = 1 → (l.desc.kind = 2 ∨ r.crew < crewTotal l.desc) → c.trace.traced = false → l.traced = [] → ends .traceReq { updCrew S k (fun c => { c with trace := { traced := true } }) with
      launches := mmodify S.launches r.lid (fun l => { l with traced := [r.crew] }) } 0) ∧
    (op = 5 → r.flags % 2 = 1 → (l.desc.kind = 2 ∨ r.crew < crewTotal l.desc) → ends .breakReq { S with
      brks := minsert S.brks r.arg0 { lid := r.lid, off := BitVec.ofNat 32 r.arg1, crew := BitVec.ofNat 32 r.crew, isleStop := r.flags == 3 } } 0) ∧
    (op = 6 → r.flags = 1 → r.lid ∉ s.armed → ends .armbrkReq { S with armed := S.armed ++ [r.lid] } 0) ∧ (op = 6 → r.flags = 0 → ends .armbrkReq { S with armed := S.armed.filter (fun x => x != r.lid) } 0) ∧
    (op = 7 → r.flags = 0 → c.halt = .running → c.saved = false → ends .stopReq (stopCrew S k 3 0 0) 0) ∧
    (∀ n, op = 8 → s.arg.b ≠ 1 → c.halt = .stopped n → c.saved = false → exec .stepReq s = .next
      { updCrew S k (fun c => { c with halt := .running, stepping := 1, readySince := max c.readySince S.clock }) with stepReq := some (k, r.res) }) ∧
    (∀ n, op = 9 → r.flags = 0 → c.halt = .stopped n → ends .resumeReq (updCrew S k (fun c => { c with
      halt := .running, ctxHalt := false, stepping := if c.stepping == 3 then 0 else c.stepping, stopNext := none, readySince := max c.readySince S.clock })) 0) ∧
    (∀ n, op = 10 → c.halt = .stopped n → let image := imageBytes S c (pendingMaps c)
      inMem r.addr image.length = true → ends .dumpReq { S with mem := Memory.writes S.mem r.addr image } 0) ∧
    (op = 10 → c.halt = .running → ends .dumpReq S 3) ∧
    (∀ n, op = 11 → c.halt = .stopped n → c.pend = [] → c.saved = false → inMem r.addr (imageSize c.nregs c.naccs) = true →
      ends .patchReq (updCrew S k (fun _ => reform { loadImage c (Memory.bytes S.mem r.addr (imageSize c.nregs c.naccs)) with tdepth := c.tdepth })) 0) ∧
    (∀ n, op = 12 → c.halt = .stopped n → c.held = [] → ∃ t c', ends .killReq t 0 ∧ mfind t.crews k = some c' ∧ c'.exm = 0 ∧ c'.pend = [] ∧ c'.tdepth = 0 ∧ c'.halt = .running ∧ t.mem = S.mem ∧
      ∀ L < 32, (frGet c'.fr L).st ≠ .live ∧ (frGet c'.fr L).st ≠ .held) ∧
    (∀ n, op = 13 → c.wait = .sleep n → ends .wakeReq (updCrew S k (fun c => { c with wait := .none, readySince := max c.readySince S.clock })) 0))

/-! ## Queues, launches and partitions (22_launch_engine.md, 25_stack_engine_and_translation.md) -/

/-- R389, R390, R392, R393, R394, R395, R396, R98 (with R307, R312, R391): the head entry of a queue is taken and starts: a LAUNCH or TIMELINE whose descriptor passes lists its launch, a POST stores its event or waits
for room, a WAITFLAG completes or waits, a SIGNAL writes once every earlier entry has completed, a COPY waits for its copy; a completion writes its 32-byte record.
R391, R392, R393, R98, R307, R312: a waiting POST is stored once there is room and completes with NOLAUNCH once its launch is over; a poll of a WAITFLAG ends it when its condition holds; a waiting SIGNAL writes; the bytes
of a COPY are copied; a launch that is over is listed no more and completes with its flags; and what completes writes its record of 32 bytes, unless it has none.
The order of the codes that refuse a descriptor (log entry 16) and the record of a command taken without partition 0 (log entry 17) are the model's choices. -/
def Obligations.QueueEntriesStartAndComplete : Prop :=
  (
  ∀ (s : State) (bs : List Byte), let n := s.arg.a
    let c := cmdOf s n bs
    let S := takeHead s n
    let kind := at_ bs 0 1
    let starts := fun (i : Instr) (t : State) => exec i s = .next t
    queueHead s n = (s, .entry bs) → mayStart s n bs = true →
    (kind = 0 ∨ 8 < kind → starts .queueEntryBadentry (finishCmd S c 0x01)) ∧ (badHeader bs = false →
      (∀ db, (mfind S.parts c.part).isSome = true → at_ bs 24 8 < 2 ^ 56 → at_ bs 24 8 % 64 = 0 → vreadAll S { part := c.part } (at_ bs 24 8) 256 = (S, .ok db) → let d := descOf db
        (kind = 1 → descOk d db 1 = false → starts .launch (finishCmd S c 0x02)) ∧
        (kind = 1 → descOk d db 1 = true → teamFits d = false ∨ (partOf S c.part).mask = 0 → starts .launch (finishCmd S c 0x03)) ∧
        (kind = 1 → descOk d db 1 = true → (mfind S.launches d.lid).isSome = true → teamFits d = true → (partOf S c.part).mask ≠ 0 → starts .launch (finishCmd S c 0x04)) ∧
        (kind = 1 → launchRefused S c d db = none → d.map = 0 → ∃ t l, starts .launch t ∧ mfind t.launches d.lid = some l ∧ l.part = c.part ∧ l.queue = n ∧ l.entry = c.n ∧ l.crec = c.crec ∧
          l.accept = S.accepts ∧ l.dispatched = [] ∧ l.retired = [] ∧ l.desc = { d with dep0 := l.desc.dep0, dep1 := l.desc.dep1 } ∧ t.accepts = S.accepts + 1 ∧ t.mCount = S.mCount + 1 ∧
          t.mLog = sm3 (natBytes 32 S.mLog.toNat ++ natBytes 32 (sm3 db).toNat) ∧ t.crews = S.crews) ∧
        (∀ tab hb, kind = 2 → lowWater S = false → launchRefused S c d db = none → vreadAll S { part := c.part } d.tltab 512 = (S, .ok tab) → d.tlcomm = 255 ∨ d.job = 0 →
          (∀ k < 16, shoalOk S c.part ((tab.drop (32 * k)).take 32) = true) → vreadAll S { part := c.part } (d.text + d.htab) (4 * d.hcount) = (S, .ok hb) →
          ∃ t u, starts .timeline t ∧ mfind t.timelines d.lid = some u ∧ u.n = 1 ∧ u.members = [S.deviceId] ∧ u.open_ = false ∧ u.done = false ∧ u.span = 0 ∧
            (∀ k < 16, mfind u.shoals k = some (shoalOf ((tab.drop (32 * k)).take 32))) ∧
            ∀ k < d.hcount, mfind u.handlers k = if at_ hb (4 * k) 4 = 0xFFFFFFFF then none else some (at_ hb (4 * k) 4))) ∧
      (kind = 2 → lowWater S = true → starts .timeline (finishCmd S c 0x02)) ∧
      (kind ∈ [3, 4, 5, 6] → (mfind S.parts c.part).isSome = false → lowWater S = false → s.arg.c ≠ 1 →
        (kind = 4 → flagFields c 2 = true) → (kind = 5 → flagFields c 1 = true) → (kind = 6 → at_ bs 40 4 ≠ 0 ∧ at_ bs 24 8 < 2 ^ 56 ∧ at_ bs 32 8 < 2 ^ 56) →
        starts (if kind = 3 then .post else if kind = 4 then .waitflag else if kind = 5 then .signal else .copy) (finishCmd (postRec S
          { typ := 0x11, hw := true, impr := true, part := c.part, stamp := c.stamp, addr := BitVec.ofNat 64 (if kind = 3 then at_ bs 56 8 else at_ bs 24 8) } .nobody) c 0x0A)) ∧
      (kind = 3 → (mfind S.parts c.part).isSome = true → let lid := at_ bs 24 4
        let e := hostEvent bs (timeAt S lid).hostSeq
        (∀ code, postRefused s c = some code → postRefused S c = some code → starts .post (finishCmd S c code)) ∧
        (∀ T h, (postStore s c).isSome = true → postRefused S c = none → storeEvent S lid (homeShelf S c.part e.placeAddr e.tail) e = some (T, h) →
          starts .post (complete { T with timelines := mmodify T.timelines lid (fun t => { t with hostSeq := t.hostSeq + 1 }) } c 0 lid 0 h)) ∧
        (postRefused s c = none → postStore s c = none → ∃ r, starts .post (putCmd (postRec s r .nobody) { c with lid := lid }) ∧ r.typ = 0x21)) ∧
      (∀ b, kind = 4 → flagFields c 2 = true → (mfind S.parts c.part).isSome = true → at_ bs 24 8 % (at_ bs 41 1 / 8) = 0 → vread S { part := c.part } (at_ bs 24 8) (at_ bs 41 1 / 8) .rd = (S, .ok b) →
        let m := 2 ^ at_ bs 41 1
        let v := at_ bs 32 8 % m
        let holds := if at_ bs 40 1 = 0 then bytesNat b = v else if at_ bs 40 1 = 1 then bytesNat b ≠ v else (bytesNat b + m - v) % m < m / 2
        (holds → starts .waitflag (finishCmd S { c with fin := some (0, S.clock) } 0)) ∧ (¬ holds → starts .waitflag (putCmd S { c with aux := S.clock }))) ∧
      (kind = 5 → s.arg.c ≠ 1 → flagFields c 1 = true → (mfind S.parts c.part).isSome = true →
        (earlierDone S c = false → starts .signal (putCmd S c)) ∧
        (∀ T, earlierDone S c = true → at_ bs 40 1 = 0 → at_ bs 24 8 % (at_ bs 41 1 / 8) = 0 → vwrite S { part := c.part } (at_ bs 24 8) (natBytes (at_ bs 41 1 / 8) (at_ bs 32 8)) = (T, none) →
          starts .signal (finishCmd T c 0))) ∧
      (kind = 6 → at_ bs 40 4 ≠ 0 → at_ bs 24 8 < 2 ^ 56 → at_ bs 32 8 < 2 ^ 56 → (mfind S.parts c.part).isSome = true → starts .copy (putCmd S c)))) ∧
  (
  (∀ (s : State) (c : Cmd), cmdAt s s.arg.a s.arg.b = some c →
    (∀ code, c.kind = 3 → (postRefused s c).isSome = true → postRefused (takeHead s c.queue) c = some code → exec .postStoreDelayed s = .next (finishCmd (takeHead s c.queue) c code)) ∧
    (∀ t, c.kind = 3 → (postStore s c).isSome = true → postRefused (takeHead s c.queue) c = none → postStore (takeHead s c.queue) c = some t → exec .postStoreDelayed s = .next t) ∧
    (∀ x, c.kind = 4 → c.fin = none → c.parked = false → flagRead s c = (s, .ok x) → (flagHolds c x = true → exec .waitflagPoll s = .next (finishCmd s { c with fin := some (0, s.clock) } 0)) ∧
      (flagHolds c x = false → exec .waitflagPoll s = .next (putCmd s { c with aux := s.clock }))) ∧
    (∀ x T, s.arg.c = 1 → signalReady s c = true → c.f 40 1 = 1 → flagRead s c = (s, .ok x) → vwrite s { part := c.part } (c.f 24 8) (natBytes (c.f 41 1 / 8) (x + c.f 32 8)) = (T, none) →
      exec .signal s = .next (finishCmd T c 0)) ∧
    (∀ b T, c.kind = 6 → c.fin = none → c.parked = false → let n := c.f 40 4 - c.aux
      let sa := c.f 24 8 + c.aux
      let da := c.f 32 8 + c.aux
      0 < n → da % 128 + n ≤ 128 → sa + n ≤ 2 ^ 56 → da + n ≤ 2 ^ 56 → vreadAll s { part := c.part } sa n = (s, .ok b) → vwrite s { part := c.part } da b = (T, none) →
      exec .queueCopyComplete s = .next (finishCmd T { c with aux := c.f 40 4 } 0))) ∧
  (∀ (s : State) (l : Launch), let lid := s.arg.a
    mfind s.launches lid = some l → launchOver s lid = true → ∃ t, exec .launchComplete s = .next (noteReady t) ∧
      t = complete { s with launches := merase s.launches lid, timelines := merase s.timelines lid, ghosts := s.ghosts.filter (fun g => g.2.lid != lid), armed := s.armed.filter (fun x => x != lid) }
        { queue := l.queue, n := l.entry, kind := l.desc.kind, part := l.part, physical := l.physical, stamp := l.cstamp, crec := l.crec, norec := l.norec, body := [] }
        0 lid ((if l.nogang then 1 else 0) + (if l.late then 2 else 0) + (if l.pre then 4 else 0)) s.clock) ∧
  (∀ (s : State) (c : Cmd) (code lid flags w : Nat),
    (c.crec = 0 ∨ (c.norec = true ∧ code = 0) → complete s c code lid flags w = dropCmd s c) ∧
    (∀ T, c.crec ≠ 0 → ¬ (c.norec = true ∧ code = 0) → qwrite s c.physical c.part c.crec (natBytes 4 (2 ^ 31 + (if code = 0 then 0 else 2 ^ 30) + code * 65536 + flags) ++ natBytes 4 lid ++
      natBytes 8 c.stamp.toNat ++ natBytes 8 w ++ natBytes 4 c.queue ++ natBytes 4 c.n) = (T, none) → complete s c code lid flags w = dropCmd T c)))

/-- R401, R376, R386, R387, R388, R427, R431, R442, R446, R449, R392: PARTITION's forms: only queue 0 may bring one (NOTPRIV, 0x08); SET defines a partition that is not there yet and RESIZE replaces its mask, mode and key,
each completing once its atolls are as asked; FERRY and QUEUE apply their descriptors in order; CLEAR undefines an empty partition; INVAL forgets translations, after replacing the root in
MODE 1, and completes once every access through them has performed or faulted; ATTEST writes its report.
R376, R386, R401, R431, R446: what those forms share: a pending SET or RESIZE completes once every atoll asked for has joined and every departing one is empty, and waits otherwise; a ferry's descriptor declares it with
the fields of R376 or closes it, and a queue's one with those of R387; a report has 256 bytes; a forgotten translation is of that partition and meets the range.
That descriptor i is that of ferry i (log entry 31), and that one with EN 0 is held to the same limits (log entry 30), are the model's choices. -/
def Obligations.PartitionCommands : Prop :=
  (
  ∀ (s : State) (bs : List Byte), let n := s.arg.a
    let c := cmdOf s n bs
    let S := takeHead s n
    let p := at_ bs 25 1
    let forms : List (Instr × Nat) := [(.partitionSet, 0), (.partitionResize, 1), (.partitionFerry, 2), (.partitionQueue, 3), (.partitionClear, 4), (.partitionInval, 5), (.partitionAttest, 6)]
    let sub := fun (k : Nat) => at_ bs 24 1 = k
    let starts := fun (i : Instr) (t : State) => exec i s = .next t
    queueHead s n = (s, .entry bs) → mayStart s n bs = true → badHeader bs = false → at_ bs 0 1 = 7 → s.arg.b ≠ 1 →
    (n ≠ 0 → ∀ f ∈ forms, sub f.2 → starts f.1 (finishCmd S c 0x08)) ∧
    (n = 0 → 15 < p → ∀ f ∈ forms, sub f.2 → starts f.1 (finishCmd S c 0x01)) ∧
    (n = 0 → p ≤ 15 → lowWater S = false →
      (sub 0 → (mfind S.parts p).isSome = true → starts .partitionSet (finishCmd S c 0x09)) ∧
      (sub 0 → mfind S.parts p = none → setFields S c = none → starts .partitionSet (finishCmd S c 0x02)) ∧
      (∀ q, sub 0 → mfind S.parts p = none → setFields S c = some q → starts .partitionSet (partGoesOn (dropTlb { S with parts := minsert S.parts p q } p 0 0) c)) ∧
      (∀ q, sub 1 → mfind S.parts p = some q → at_ bs 26 1 = 0 → let new := BitVec.ofNat 64 (at_ bs 32 8)
        let q' : Part := { q with mask := q.mask &&& new, want := new, mode := BitVec.ofNat 4 (at_ bs 40 4), key := BitVec.ofNat 16 (at_ bs 44 2) }
        starts .partitionResize (partGoesOn { S with parts := mmodify S.parts p (fun _ => q') } { c with aux := (q.mask &&& ~~~new).toNat })) ∧
      (∀ d, at_ bs 56 4 = 1 → pread S (at_ bs 48 8) 32 = (S, .ok d) → d.length = 32 →
        (∀ T, sub 2 → declareFerry S 0 d = some T → starts .partitionFerry (finishCmd T c 0)) ∧ (sub 2 → declareFerry S 0 d = none → starts .partitionFerry (complete S c 0x02 0 0 (2 ^ 32))) ∧
        (∀ T, sub 3 → declareQueue p S d = some T → starts .partitionQueue (finishCmd T c 0)) ∧ (sub 3 → declareQueue p S d = none → starts .partitionQueue (complete S c 0x02 0 0 (2 ^ 32)))) ∧
      (∀ q, sub 4 → mfind S.parts p = some q → q.mask = 0 → q.want = 0 → (∀ x ∈ S.queues, x.2.part ≠ p) → (∀ l ∈ S.launches, l.2.part ≠ p) →
        starts .partitionClear (finishCmd (dropTlb { S with parts := merase S.parts p } p 0 0) c 0)) ∧
      (∀ q, sub 4 → mfind S.parts p = some q → q.mask ≠ 0 ∨ q.want ≠ 0 ∨ (∃ x ∈ S.queues, x.2.part = p) ∨ (∃ l ∈ S.launches, l.2.part = p) → starts .partitionClear (finishCmd S c 0x09)) ∧
      (sub 5 → at_ bs 40 8 % 65536 = 0 → let root := at_ bs 64 8
        let sound := root % 2048 = 0 ∧ inMem root 2048 = true
        let R := if at_ bs 26 1 = 1 then { S with parts := mmodify S.parts p (fun q => { q with root := root }) } else S
        (at_ bs 26 1 = 0 ∨ (at_ bs 26 1 = 1 ∧ sound) →
          (invalBusy S c = false → starts .partitionInval (finishCmd (dropTlb R p (at_ bs 32 8) (at_ bs 40 8)) c 0)) ∧
          (invalBusy S c = true → starts .partitionInval (putCmd (dropTlb R p (at_ bs 32 8) (at_ bs 40 8)) c))) ∧
        (at_ bs 26 1 = 1 → ¬ sound → starts .partitionInval (finishCmd S c 0x02))) ∧
      (∀ T, sub 6 → qwrite S true 0 (at_ bs 48 8) (attestReport S ((bs.drop 64).take 32)) = (T, none) → starts .partitionAttest (finishCmd T c 0)))) ∧
  (
  (∀ (s : State) (c : Cmd), let p := at_ c.body 25 1
    (c.kind = 7 → s.arg.b = 1 → cmdAt s s.arg.a s.arg.c = some c → (at_ c.body 24 1 = 0 → exec .partitionSet s = .next (partGoesOn s c)) ∧
      (at_ c.body 24 1 = 1 → exec .partitionResize s = .next (partGoesOn s c)) ∧
      (at_ c.body 24 1 = 5 → let S := dropTlb s p (at_ c.body 32 8) (at_ c.body 40 8)
        (invalBusy s c = false → exec .partitionInval s = .next (finishCmd S c 0)) ∧ (invalBusy s c = true → exec .partitionInval s = .next (putCmd S c)))) ∧
    (invalBusy s c = true ↔ let va := at_ c.body 32 8
      let n := at_ c.body 40 8
      ∃ o ∈ s.copies, o.part = p ∧ o.ended = none ∧ ∃ b ∈ o.begun, o.done.getLsbD b.1 = false ∧
        let hits := fun (sp : Bool) (a : Nat) => sp = false ∧ (n = 0 ∨ (va < a + o.w ∧ a < va + n))
        hits o.srcSp (mget 0 o.src b.1) ∨ hits o.dstSp (mget 0 o.dst b.1)) ∧
    (∀ q, mfind s.parts p = some q → q.want = q.mask → (∀ a < 64, c.aux.testBit a = true → atollEmpty s a = true) → ∃ S, partGoesOn s c = finishCmd S c 0 ∧ S.crews = s.crews ∧ (partOf S p).want = q.want) ∧
    (∀ q a, mfind s.parts p = some q → a < 64 → q.want.getLsbD a = true → q.mask.getLsbD a = false → atollIdle s a = false → ∃ S, partGoesOn s c = putCmd S c)) ∧
  (∀ (s : State) (n : Nat) (d : List Byte), let w := at_ d 0 8
    let old := ferryAt s n
    let sound := fld w 39 9 = 0 ∧ at_ d 8 8 < 2 ^ 52 ∧ at_ d 16 8 < 2 ^ 24 ∧ at_ d 24 8 = 0 ∧ 1 ≤ fld w 52 46 ∧ fld w 52 46 ≤ 64 ∧ fld w 8 0 % 4 = 0 ∧ 4 ≤ fld w 8 0 ∧ fld w 8 0 ≤ 256 ∧ at_ d 8 8 % 65536 = 0 ∧
      (at_ d 16 8 = 0 ∨ at_ d 8 8 + at_ d 16 8 * fld w 8 0 ≤ hbmSize)
    fld w 61 61 = 0 →
    (¬ sound → declareFerry s n d = none) ∧
    (sound → 2 ^ 63 ≤ w → (old.en = false → declareFerry s n d = some (setFerry s n
        { en := true, fabric := fld w 62 62 == 1, prod := fld w 60 57, cons := fld w 56 53, cap := fld w 52 46, home := fld w 45 40, esize := fld w 8 0
          ovbase := at_ d 8 8, ovcap := at_ d 16 8, turns := old.turns, lastMove := old.lastMove })) ∧
      (old.en = true → old.esize ≠ fld w 8 0 → declareFerry s n d = none)) ∧
    (sound → w < 2 ^ 63 → (old.en = false → declareFerry s n d = some s) ∧
      (old.en = true → (∀ p ∈ s.crews, p.2.wait ≠ .atIssue .ferry) → declareFerry s n d = some (setFerry s n { old with en := false, everClosed := true, elems := [], granted := 0 })))) ∧
  (∀ (s : State) (p : Nat) (d : List Byte), let w0 := at_ d 0 8
    let w3 := at_ d 24 8
    let n := fld w3 11 0
    let sound := n ≠ 0 ∧ (mfind s.parts p).isSome = true ∧ 4 ≤ fld w3 28 24 ∧ fld w3 28 24 ≤ 16 ∧ fld w3 23 16 ≠ 0 ∧ fld w0 55 0 % 4096 = 0 ∧ at_ d 8 7 % 4 = 0 ∧ at_ d 16 7 % 8 = 0
    let cmds := s.cmds.filter (fun c => !(c.queue == n && c.kind == 3))
    (¬ sound → declareQueue p s d = none) ∧
    (sound → w0 < 2 ^ 63 → declareQueue p s d = some (closeQueues { s with queues := mmodify s.queues n (fun q => { q with closing := true }), cmds := cmds })) ∧
    (sound → 2 ^ 63 ≤ w0 → ∀ head epoch, (mfind s.queues n = none → head = 0 ∧ epoch = 0) →
      (∀ q, mfind s.queues n = some q → (q.closing = true → head = 0 ∧ epoch = q.epoch + 1) ∧ (q.closing = false → head = q.head ∧ epoch = q.epoch)) →
      declareQueue p s d = some (writeHeadw { s with cmds := cmds, queues := minsert s.queues n { base := fld w0 55 0, tailw := at_ d 8 7, headw := at_ d 16 7, size := fld w3 28 24, weight := fld w3 23 16, prio := fld w3 14 12, part := p, head := head, epoch := epoch } } n))) ∧
  (∀ (s : State) (nonce : List Byte), nonce.length = 32 → (attestReport s nonce).length = 256 ∧ (attestReport s nonce).take 152 = natBytes 4 1 ++ natBytes 4 s.deviceId.toNat ++ natBytes 8 s.clock ++ nonce ++
    natBytes 32 s.mFw.toNat ++ natBytes 32 (sm3 ((List.range 4096).flatMap (fun k => natBytes 4 (mget 0 s.routes k).toNat))).toNat ++ natBytes 32 s.mLog.toNat ++ natBytes 8 s.mCount) ∧
  (∀ (s : State) (p va n : Nat) (x : Nat × Nat × Nat × Nat × Dword), x ∈ (dropTlb s p va n).tlbIsle ↔ x ∈ s.tlbIsle ∧ (x.2.1 ≠ p ∨ (n ≠ 0 ∧ (va + n ≤ x.2.2.1 ∨ x.2.2.1 + x.2.2.2.1 ≤ va)))))

/-- R105, R439, R447 (with R442): CHECKPOINT notes its range and begins to save every resident cohort; once the device is quiet the transfer starts; at its end the image of HBM4 lies in the range behind its header and the
command completes; in low-water service a range with a good header is restored. The chip's own bytes in the image are the model's choice (log entry 14). -/
def Obligations.CheckpointsAndRestores : Prop :=
  (∀ (s : State) (bs : List Byte), let n := s.arg.a
    let c := cmdOf s n bs
    let S := takeHead s n
    queueHead s n = (s, .entry bs) → mayStart s n bs = true → badHeader bs = false → at_ bs 0 1 = 8 → s.arg.b ≠ 1 →
    (n ≠ 0 → at_ bs 40 1 = 0 → exec .checkpoint s = .next (finishCmd S c 0x08)) ∧ (n ≠ 0 → at_ bs 40 1 = 1 → exec .checkpointRestore s = .next (finishCmd S c 0x08)) ∧
    (n = 0 → at_ bs 40 1 = 0 → lowWater S = false → ckptRange c = false → exec .checkpoint s = .next (finishCmd S c 0x02)) ∧
    (n = 0 → at_ bs 40 1 = 0 → lowWater S = false → ckptRange c = true → (∀ t ∈ S.teams, t.2.saved = true) →
      exec .checkpoint s = .next (putCmd { S with ckpt := some (at_ bs 24 8, at_ bs 32 8, S.clock, none), ckptEarly := [] } c)) ∧
    (∀ h a, a = at_ bs 24 8 → n = 0 → at_ bs 40 1 = 1 → lowWater S = true → ckptRange c = true → pread S a 64 = (S, .ok h) → at_ h 0 8 = 1 → at_ h 8 2 = S.deviceId.toNat → S.ecc = [] →
      ((∀ p ∈ S.poison, p.1 < (a + 65536) / 128 ∨ (a + 65536 + chipLen S a) / 128 ≤ p.1) → exec .checkpointRestore s = .next (finishCmd
        (loadSnapshot { S with mem := moveKeys S.mem (a + 2 ^ 27) hbmSize 0, poison := moveKeys S.poison ((a + 2 ^ 27) / 128) (hbmSize / 128) 0 } (chipOf S a)) c 0)) ∧
      (∀ p x, S.poison = [(p, x)] → (a + 65536) / 128 ≤ p → p < (a + 65536 + chipLen S a) / 128 → exec .checkpointRestore s = .next (failCmd S c 0x12 (128 * p))))) ∧
  (∀ (s : State) (a : Nat) (n : Snapshot) (r : List Snapshot), s.snaps = n :: r → Memory.bytes s.mem (a + 65536) (chipPart n).length = chipPart n → chipOf s a = n) ∧
  (∀ (s : State) (a n t : Nat), s.arg.b = 1 → s.ckpt = some (a, n, t, none) →
    (quiesced s = true → exec .checkpoint s = .next { s with ckpt := some (a, n, t, some s.clock) }) ∧ (quiesced s = false → exec .checkpoint s = .next s)) ∧
  (∀ (s : State) (a n t0 t1 : Nat), s.ckpt = some (a, n, t0, some t1) → s.arg.b = 1 → let w := s.arg.a / 4 * 4
    w < hbmSize → w ∉ s.ckptEarly → exec .checkpointTransferEnd s = .next { s with mem := Memory.writes s.mem (a + 2 ^ 27 + w) (natBytes 4 (bytesNat (Memory.bytes s.mem w 4))), ckptEarly := s.ckptEarly ++ [w] }) ∧
  (∀ (s : State) (a n t0 t1 : Nat), s.ckpt = some (a, n, t0, some t1) → s.arg.b ≠ 1 → s.cmds = [] → hbmSize ≤ a → s.ecc = [] → Memory.wf s.mem = true → ∃ t, exec .checkpointTransferEnd s = .next t ∧ t.ckpt = none ∧ t.crews = s.crews ∧
    (∀ j < hbmSize, Memory.read t.mem j = Memory.read s.mem j ∧
      Memory.read t.mem (a + 2 ^ 27 + j) = if ∃ w ∈ s.ckptEarly, w ≤ j ∧ j < w + 4 then Memory.read s.mem (a + 2 ^ 27 + j) else Memory.read s.mem j) ∧
    t.snaps = snapshotOf s :: s.snaps ∧ Memory.bytes t.mem (a + 65536) (chipPart (snapshotOf s)).length = chipPart (snapshotOf s) ∧ (∀ p ∈ t.poison, p.1 < a / 128 ∨ a / 128 + 512 ≤ p.1) ∧
    Memory.bytes t.mem a 40 = natBytes 8 1 ++ natBytes 8 s.deviceId.toNat ++ natBytes 8 t0 ++ natBytes 8 t1 ++ natBytes 8 s.clock)

/-- R49, R45, R249, R398 (with R98): a crew whose lanes have ended and whose results have returned retires: its slot is free, its launch notes it, a strict launch's token passes to the next crew that has not
retired, and its team retires with the last crew: tags and channels are freed and its bit of MAP is set.
R20, R36, R159, R160, R161, R316 (with R21, R313): a crew of a plain launch starts with every register zero, all its lanes LIVE and active at TEXT + ENTRY, no trap, and its team's place; a lane of a timeline crew
that has an event starts at its handler with its key, handle and payload in registers 0 to 15. -/
def Obligations.CrewsStartAndRetire : Prop :=
  (
  ∀ (s : State) (c : Crew) (l : Launch) (tm : Team), let k := s.arg.crew
    let slot := 4 * isleOf c.gcrew + slotOf c.gcrew
    let gone := { dropTurns (ghostify s k) k with slotBusy := if s.clock < c.readySince then minsert s.slotBusy slot (max c.readySince (mget 0 s.slotBusy slot)) else s.slotBusy, crews := merase s.crews k, launches := mmodify s.launches c.lid (fun l => { l with passed := l.passed ++ [c.lcid] }) }
    s.arg.b ≠ 1 → mfind s.crews k = some c → mfind s.launches c.lid = some l → (∀ L < 32, (frGet c.fr L).st = .ended ∨ (frGet c.fr L).st = .absent) → c.tdepth = 0 → c.pend = [] → c.held = [] → c.trapReq = none →
    c.park = none → c.trace.traced = false → c.timeline = false →
    ((∃ p ∈ s.crews, p.1 ≠ k ∧ p.2.teamKey = c.teamKey) → (c.strict = false → exec .crewRetire s = .next gone) ∧
      (c.strict = true → l.tokPos = c.lcid → c.lcid + 1 ∉ l.passed → ∃ t l', exec .crewRetire s = .next t ∧ mfind t.launches c.lid = some l' ∧ l'.tokPos = c.lcid + 1 ∧ l'.passed = l.passed ++ [c.lcid] ∧
        mfind t.crews k = none ∧ ∀ j, j ≠ k → mfind t.crews j = mfind s.crews j)) ∧
    ((∀ p ∈ s.crews, p.2.teamKey = c.teamKey → p.1 = k) → c.strict = false → mfind s.teams c.teamKey = some tm → tm.lid = c.lid → tm.old = false → s.copies = [] →
      ∀ M, (l.desc.map = 0 ∨ l.desc.kind = 2 → M = s.mem) → (l.desc.map ≠ 0 → l.desc.kind ≠ 2 → Intact s ∧ ∃ p : Pg, let a := l.desc.map + tm.ix / 8
        (xlate s { lid := BitVec.ofNat 32 c.lid, part := l.part } a .rw).2 = .ok p ∧
        M = Memory.writes s.mem (p.pa a) [BitVec.ofNat 8 (bytesNat (Memory.bytes s.mem (p.pa a) 1) ||| 2 ^ (tm.ix % 8))]) →
      ∃ t l', exec .crewRetire s = .next t ∧ mfind t.crews k = none ∧ mfind t.teams c.teamKey = none ∧ mfind t.launches c.lid = some l' ∧ l'.retired = l.retired ++ [tm.ix] ∧
        t.tags = s.tags.filter (fun g => g.2.team != c.teamKey) ∧ t.chans = s.chans.filter (fun h => h.2.team != c.teamKey) ∧ t.mem = M)) ∧
  (
  (∀ (s : State) (l : Launch) (team ix : Nat) (g : Word), let c := plainCrew s l team ix g
    let at_ := BitVec.ofNat 56 (l.desc.text + l.desc.entry)
    c.v = [] ∧ c.sreg = [] ∧ c.acc = [] ∧ c.banks = [] ∧ c.fflags = [] ∧ c.pc = at_ ∧ c.exm = 0xFFFFFFFF ∧ (∀ L < 32, frGet c.fr L = { st := .live, resume := at_ } ∧ stampOf c L = BitVec.ofNat 64 l.desc.stamp) ∧
    c.tdepth = 0 ∧ c.held = [] ∧ c.pend = [] ∧ c.rnd = 0 ∧ c.hazEn = 0 ∧ c.cbank = 0 ∧ c.gcrew = g ∧ c.lid = l.desc.lid ∧ c.lcid = team * l.desc.team + ix ∧ c.crewIx = BitVec.ofNat 32 ix ∧
    c.team = BitVec.ofNat 32 team ∧ c.cohort = BitVec.ofNat 32 (team / l.desc.cohort) ∧ c.shelfg = BitVec.ofNat 32 (team / l.desc.cohort / l.desc.shelfg)) ∧
  (∀ (s : State) (l : Launch) (pos : Nat) (g : Word) (r : RoundLane), (timeAt s l.desc.lid).table = [r] → r.pos = pos → r.lane < 32 → let c := eventCrew s l pos g
    let a := BitVec.ofNat 56 (l.desc.text + mget 0 (timeAt s l.desc.lid).handlers r.handler)
    let w := fun (x : Nat) => (BitVec.ofNat 32 x : Word)
    c.pc = a ∧ c.exm = bit r.lane ∧ stampOf c r.lane = BitVec.ofNat 64 r.time ∧ (∀ L < 32, frGet c.fr L = if L = r.lane then { st := .live, resume := a } else { st := .absent, resume := 0 }) ∧
    vget c 0 r.lane = w r.time ∧ vget c 1 r.lane = w (r.time / 2 ^ 32) ∧ vget c 2 r.lane = w r.handle ∧ vget c 3 r.lane = w (r.handle / 2 ^ 32) ∧
    vget c 4 r.lane = w (r.prio * 2 ^ 24 + (timeAt s l.desc.lid).round * 2 ^ 16 + r.ordinal % 65536) ∧ vget c 5 r.lane = 0 ∧ vget c 6 r.lane = w r.tail ∧ vget c 7 r.lane = w (r.tail / 2 ^ 32) ∧
    (∀ k < 8, vget c (8 + k) r.lane = w (at_ r.payload (4 * k) 4)) ∧ (∀ q L, L ≠ r.lane → L < 32 → vget c q L = 0) ∧ sget c 0 = w (timeAt s l.desc.lid).t ∧ sget c 4 = w (timeAt s l.desc.lid).span ∧
    sget c 5 = w (timeAt s l.desc.lid).round ∧ c.span = w (timeAt s l.desc.lid).span))

/-- R38, R42, R50, R255, R256, R399, R402, R403 (with R37, R39): the next unit that has room is dispatched on its shelf, after its wait for a preferred shelf where that is the reason, or restored where it was saved;
a unit without room pre-empts the cohorts that R402 picks; a save ends once every crew of its cohort has drained, at the latest 20 µs after it began; a crew saved alone returns to its isle; a crew ready for 64 cycles is taken ahead of rank. -/
def Obligations.UnitsArePlaced : Prop :=
  ∀ (s : State), let k := s.arg.crew
    (∀ w ws sh, nextUnit s = some (w, ws, sh, false) → w.back = false → exec .unitDispatch s = .next (doPlace s w ws sh)) ∧
    (∀ w ws sh, nextUnit s = some (w, ws, sh, true) → w.back = false → exec .placementWaitExpiry s = .next (doPlace s w ws sh)) ∧
    (∀ w ws sh late, nextUnit s = some (w, ws, sh, late) → w.back = true → exec .cohortRestore s = .next (doPlace s w ws sh)) ∧
    (∀ w sh, placeAll s [w] sh = none → ¬ ∃ late, chooseShelf s w [w] = some (sh, late)) ∧
    (∀ w, prefShelf s w ≠ none → fixedShelf s w = none → (∀ sh, prefShelf s w = some sh → (placeAll s [w] sh).isSome = false) → s.clock < mget s.clock w.l.readyAt w.u + 1400 → chooseShelf s w [w] = none) ∧
    (∀ w sh, prefShelf s w = some sh → fixedShelf s w = none → (placeAll s [w] sh).isSome = true → s.clock ≤ mget s.clock w.l.readyAt w.u + 1400 → chooseShelf s w [w] = some (sh, false)) ∧
    (∀ w sh, fixedShelf s w = some sh → chooseShelf s w [w] = if (placeAll s [w] sh).isSome then some (sh, false) else none) ∧
    (∀ lid u, preemptNext s = some [(lid, u)] → ∃ t, exec .preempt s = .next t ∧ t = saveCohort s lid u) ∧
    (∀ c, mfind s.crews k = some c → let co := cohortOf s (teamAt s c.teamKey)
      let drained := fun (c : Crew) => ∃ b, c.saving = some b ∧ c.saved = false ∧ c.xir = none ∧ c.readySince ≤ s.clock ∧ (b + 14000 ≤ s.clock ∨ ∀ p ∈ c.pend, p.drains = false)
      let mates := (∀ p ∈ cohortCrews s c.lid co, p.2.saved = true ∨ drained p.2) ∧ copiesLand s c.lid co = false
      (drained c → c.alone = true ∨ mates → exec .saveDrainExpiry s = .next (saveNow s k)) ∧
      (¬ drained c ∨ (c.alone = false ∧ ¬ mates) → exec .saveDrainExpiry s = .next s)) ∧
    (mayReturn s k = true → exec .ctxswCrewReturn s = .next (restoreCrew s k (teamAt s (crewAt s k).teamKey).isle)) ∧
    (∀ c, mfind s.crews k = some c → c.readySince + 64 ≤ s.clock → exec .issueAgeExpiry s = .next { s with cur := k })

/-! ## The stack engine, bring-up and power (25_stack_engine_and_translation.md, 26_bringup_and_package.md) -/

/-- R253, R429, R430, R449 (with R428, R27, R435, R436, R437): a page walk that ends in a valid leaf adds it to the isle's and the atoll's TLB; the firmware frees a record that needs no answer, and answers a page's record: 2 where the page is
mapped already, which changes nothing, 3 where there is no backing table or pool, where no backing entry covers the page or the covering one breaks a rule, and where the pool is empty; else it takes the pool's next frame,
fills it with zeros or the source's bytes, builds the tables that are missing and writes the leaf, and answers 2. A page with a frame that awaits its retirement is not mapped before. A table it takes reads as zeros. What
the firmware does with a table or pool word that it cannot read is the model's choice (log entry 53), and is not stated. -/
def Obligations.WalksAndFirmwareMapping : Prop :=
  (∀ (s : State) (q : Part) (e size : Nat), Intact s → let i := s.arg.a % 256
    let x := fun (u : Nat) => (u, s.arg.c, s.arg.b / size * size, size, (BitVec.ofNat 64 e : Dword))
    mfind s.parts s.arg.c = some q → walkAt s (lowWater s) s.arg.b walkLevels 0 q.root = .leaf e size → fld e 63 63 = 0 → (∀ y ∈ s.tlbIsle, y.1 ≠ i) → (∀ y ∈ s.tlbAtoll, y.1 ≠ i / 4) →
    exec .pageWalk s = .next { s with tlbIsle := s.tlbIsle ++ [x i], tlbAtoll := s.tlbAtoll ++ [x (i / 4)] }) ∧
  (∀ (s : State) (r : FRec) (o : RecOwner), let n := s.arg.a
    let answered := fun (s : State) (st : Nat) => { s with mem := Memory.writes s.mem (recAddr s.faultq n + 60) (natBytes 4 st) }
    let num := fun (a w : Nat) => bytesNat (Memory.bytes s.mem a w)
    let va := r.addr.toNat
    let q := partOf s r.part
    mfind s.faultq.open_ n = some (r, o) → r.hw = true → num (recAddr s.faultq n + 60) 4 = 1 →
    (o = .nobody → exec .firmwareRecordFree s = .next (answered s 2)) ∧
    (Intact s → o ≠ .nobody → r.typ = 0x10 →
      ((∃ f ∈ pageFrames s r.part va, retiring s f = true) → exec .firmwarePageMap s = .next s) ∧
      ((∀ f ∈ pageFrames s r.part va, retiring s f = false) →
        (q.btab = 0 ∨ q.pool = 0 → exec .firmwarePageMap s = .next (answered s 3)) ∧
        (q.btab ≠ 0 → q.pool ≠ 0 →
          (∀ e size, walkAt s (lowWater s) va walkLevels 0 q.root = .leaf e size → exec .firmwarePageMap s = .next (answered s 2)) ∧
          (walkAt s (lowWater s) va walkLevels 0 q.root = .malformed → exec .firmwarePageMap s = .next (answered s 3)) ∧
          (walkAt s (lowWater s) va walkLevels 0 q.root = .absent → inMem q.btab 32 = true → let entry := fun (i : Nat) => Memory.bytes s.mem (q.btab + 32 + 32 * i) 32
            let meets := fun (i : Nat) => fld (at_ (entry i) 0 8) 55 16 * 65536 ≤ va ∧ va < fld (at_ (entry i) 0 8) 55 16 * 65536 + at_ (entry i) 8 8
            let count := num q.btab 4
            (4096 < count → exec .firmwarePageMap s = .next (answered s 3)) ∧
            (count ≤ 4096 → (∀ i < count, inMem (q.btab + 32 + 32 * i) 32 = true ∧ ¬ meets i) → exec .firmwarePageMap s = .next (answered s 3)) ∧
            (∀ i < count, count ≤ 4096 → meets i → (∀ j ≤ i, inMem (q.btab + 32 + 32 * j) 32 = true) → (∀ j < i, ¬ meets j) →
              (backingOk (entry i) = false → exec .firmwarePageMap s = .next (answered s 3)) ∧
              (backingOk (entry i) = true → inMem q.ptail 4 = true →
                (q.taken % 2 ^ 32 = num q.ptail 4 → exec .firmwarePageMap s = .next (answered s 3)) ∧
                (let slot := q.pool + q.taken % 2 ^ q.psize * 8
                 let f := fld (num slot 8) 51 16 * 65536
                 q.taken % 2 ^ 32 ≠ num q.ptail 4 → inMem q.phead 8 = true → inMem slot 8 = true → f + 65536 ≤ hbmSize → (∀ p ∈ s.badPages, p.1 ≠ f / 65536) →
                 ∀ T ok, buildWalk r.part va (at_ (entry i) 24 8 + f + 5) walkLevels 0 q.root (fillFrame { s with
                   parts := mmodify s.parts r.part (fun q => { q with taken := q.taken + 1 }), mem := Memory.writes s.mem q.phead (natBytes 8 ((q.taken + 1) % 2 ^ 32)) } (entry i) va f) = (T, ok) →
                 exec .firmwarePageMap s = .next (answered T (if ok then 2 else 3)))))))))) ∧
  (∀ (s : State) (b : List Byte) (va f : Nat), Intact s → Memory.wf s.mem = true → let from_ := fld (at_ b 16 8) 51 16 * 65536 + (va / 65536 * 65536 - at_ b 0 8)
    (2 ^ 63 ≤ at_ b 16 8 → ∀ j, Memory.read (fillFrame s b va f).mem j = if f ≤ j ∧ j < f + 65536 then 0 else Memory.read s.mem j) ∧
    (at_ b 16 8 < 2 ^ 63 → from_ + 65536 ≤ f ∨ f + 65536 ≤ from_ → ∀ j, Memory.read (fillFrame s b va f).mem j = if f ≤ j ∧ j < f + 65536 then Memory.read s.mem (from_ + (j - f)) else Memory.read s.mem j)) ∧
  (∀ (s : State) (p va leaf sh n l t : Nat) (r : List (Nat × Nat)), let ea := t + 8 * (va / 2 ^ sh % 2 ^ n)
    let e := bytesNat (Memory.bytes s.mem ea 8)
    let put := fun (s : State) (v : Nat) => { s with mem := Memory.writes s.mem ea (natBytes 8 v) }
    (l = 4 → buildWalk p va leaf ((sh, n) :: r) l t s = (put s leaf, true)) ∧
    (l ≠ 4 → e % 2 = 1 → buildWalk p va leaf ((sh, n) :: r) l t s = buildWalk p va leaf r (l + 1) (fld e 51 8 * 256) s) ∧
    (∀ sh' w r', l ≠ 4 → e % 2 = 0 → r = (sh', w) :: r' →
      (∀ S new, takeTable s p (8 * 2 ^ w) = (S, some new) → buildWalk p va leaf ((sh, n) :: r) l t s = buildWalk p va leaf r (l + 1) new (put S (new + 1))) ∧
      (∀ S, takeTable s p (8 * 2 ^ w) = (S, none) → buildWalk p va leaf ((sh, n) :: r) l t s = (S, false)))) ∧
  (∀ (s S : State) (p size t : Nat), takeTable s p size = (S, some t) → ∀ j, t ≤ j → j < t + size → Memory.read S.mem j = 0)

/-- R14, R436, R441, R442, R443, R444, R445, R446, R447, R448: the stages and what each change keeps: standby, verification by the checks of R444, which raises the counter, low-water service with its block and structures in frames of the
second tier that are not on the bad-page list, training, full service; an image that fails leaves the staging window open, and one staged there is checked and written to flash, where a write cut short leaves none that
passes; a cold reset and a loss of main power keep the second tier, the flash and the fused counter; a loss of standby power keeps the flash; the cap and the sensors throttle, and a trip stops every clock. Where the block
and the staging area lie (log entry 15), and that a throttle lasts from the reading above to the one below (log entry 44), are the model's choice. -/
def Obligations.StagesAndPower : Prop :=
  (∀ (s : State), let image := flashImage s
    let good := imageAccepted s image
    (s.stage = 0 → exec .standbyPowerGood s = .next { s with stage := 0x01 }) ∧
    (s.stage = 0x01 → exec .mainPowerGood s = .next { s with stage := 0x02 }) ∧
    (s.stage = 0x02 → good = true → ∃ t q, exec .mainPowerGood s = .next t ∧ t.stage = 0x04 ∧ mfind t.queues 0 = some q ∧ q.part = 0 ∧ q.physical = true ∧ q.stopped = 0 ∧
      (∀ j, j < 2 ^ 44 → Memory.read t.mem j = Memory.read s.mem j) ∧ let b := blockAt s
      bytesNat (Memory.bytes t.mem b 8) = 1 ∧ bytesNat (Memory.bytes t.mem (b + 8) 8) = q.base ∧ bytesNat (Memory.bytes t.mem (b + 16) 8) = q.tailw ∧ bytesNat (Memory.bytes t.mem (b + 24) 8) = q.headw ∧
      bytesNat (Memory.bytes t.mem (b + 32) 8) = t.faultq.base ∧ bytesNat (Memory.bytes t.mem (b + 40) 8) = t.faultq.log2 ∧ bytesNat (Memory.bytes t.mem (b + 48) 8) = t.watchRing.base ∧
      bytesNat (Memory.bytes t.mem (b + 56) 8) = t.watchRing.tailw ∧ bytesNat (Memory.bytes t.mem (b + 64) 8) = t.watchRing.headw ∧
      mfind t.windows 15 = some { en := true, rd := true, base := b, size := 65536, phys := true } ∧ t.svnFuse = max s.svnFuse (at_ image 8 8) ∧ t.mFw = sm3 image ∧ t.crews = s.crews) ∧
    (s.stage = 0x02 → good = false → ∃ t, exec .mainPowerGood s = .next t ∧ t.stage = 0x03 ∧ t.mem = s.mem ∧ t.flash = s.flash ∧ t.svnFuse = s.svnFuse ∧
      mfind t.windows 15 = some { en := true, wr := true, base := stageAt s, size := 33 * 2 ^ 20, phys := true }) ∧
    (2 ≤ s.stage.toNat → ∃ t, exec .coldReset s = .next t ∧ t.stage = 0x02 ∧ t.crews = [] ∧ t.launches = [] ∧ t.queues = [] ∧ t.parts = [] ∧ t.clock = 0 ∧ t.flash = s.flash ∧ t.svnFuse = s.svnFuse ∧
      t.powerCap = s.powerCap ∧ t.badPages = s.badPages ∧ ∀ j, Memory.read t.mem j = if 2 ^ 44 ≤ j ∧ j < 2 ^ 44 + 2 ^ 41 then Memory.read s.mem j else 0) ∧
    (s.stage ≠ 0 → ∃ t, exec .mainPowerLoss s = .next t ∧ t.stage = 0x01 ∧ t.crews = [] ∧ t.flash = s.flash ∧ t.svnFuse = s.svnFuse ∧
      ∀ j, Memory.read t.mem j = if 2 ^ 44 ≤ j ∧ j < 2 ^ 44 + 2 ^ 41 then Memory.read s.mem j else 0) ∧
    (∃ t, exec .standbyPowerLoss s = .next t ∧ t.stage = 0 ∧ t.mem = [] ∧ t.flash = s.flash ∧ t.svnFuse = s.svnFuse ∧ t.crews = [] ∧ t.queues = []) ∧
    (s.stage = 0x04 → exec .trainingComplete s = .next { s with stage := 0x05, began := s.clock }) ∧
    (s.stage = 0x05 → (∀ l ∈ s.launches, l.2.restored = true) → ∃ t, exec .fullServiceChangeover s = .next t ∧ t.stage = 0x06 ∧ (∀ l ∈ t.launches, l.2.restored = false) ∧ t.crews = s.crews ∧ t.mem = s.mem) ∧
    (s.stage = 0x05 → (∃ l ∈ s.launches, l.2.restored = false) → exec .fullServiceChangeover s = .next s) ∧
    (let flag := stageAt s + 33 * 2 ^ 20 - 4
     let staged := stagedImage s
     s.stage = 0x03 → bytesNat (Memory.bytes s.mem flag 4) = 1 →
      (imageAccepted s staged = false → exec .stagedImageFlag s = .next { s with mem := Memory.writes s.mem flag (natBytes 4 0) }) ∧
      (imageAccepted s staged = true → s.arg.b ≠ 1 → ∃ t, exec .stagedImageFlag s = .next t ∧ t.stage = 0x02 ∧ t.mem = s.mem ∧ mfind t.windows 15 = none ∧
        ∀ j < staged.length, mfind t.flash j = staged[j]?) ∧
      (imageAccepted s staged = true → s.arg.b = 1 → ∃ t, exec .stagedImageFlag s = .next t ∧ t.stage = 0x03 ∧ t.mem = s.mem ∧ imageAccepted t (flashImage t) = false ∧
        ∀ j < staged.length, 256 ≤ j → j < 256 + s.arg.c → mfind t.flash j = staged[j]?)) ∧
    (1000 ≤ s.arg.a → s.arg.a ≤ 1900 → exec .sidebandPowerCap s = .next { s with powerCap := s.arg.a, capThrottle := if s.arg.a < s.power then true else if s.power < s.arg.a then false else s.capThrottle }) ∧
    exec .powerCapThrottle s = .next { s with power := s.arg.a, capThrottle := if s.powerCap < s.arg.a then true else if s.arg.a < s.powerCap then false else s.capThrottle } ∧
    (let limits := fun (n : Nat) => (if n < 32 then (95, 110) else if n < 48 then (90, 105) else (85, 100) : Nat × Nat)
     let m := mset 0 s.temps s.arg.a s.arg.b
     let t := { s with temps := m, thermThrottle := m.any (fun p => (limits p.1).1 ≤ p.2) }
     exec .thermalThrottle s = .next t ∧ (2 ≤ s.stage.toNat → (limits s.arg.a).2 ≤ s.arg.b → exec .thermalTrip s = .next { t with stage := 0x07 }) ∧
     (s.arg.b < (limits s.arg.a).2 → exec .thermalTrip s = .next t))) ∧
  (∀ (s : State) (n : Nat), (s.badPages = [] → blockAt s = 2 ^ 44) ∧ (n < 6 → s.badPages.length ≤ 4096 → ∀ p ∈ s.badPages, p.1 ≠ placedAt s n / 65536)) ∧
  (∀ (s : State) (bs : List Byte), let f := at_ bs
    let part := fun (o n : Nat) => (bs.drop o).take n
    imageAccepted s bs = true ↔ f 0 4 = 0x46524448 ∧ f 20 12 = 0 ∧ f 192 32 = 0 ∧ f 224 32 = 0 ∧ f 16 4 % 4096 = 0 ∧ f 16 4 ≤ 2 ^ 25 ∧ bs.length = 256 + f 16 4 ∧ sm3 (part 64 64) = Config.signerHash ∧
      Config.sm2Verify (part 64 64) (part 128 64) (part 0 128) = true ∧ s.svnFuse ≤ f 8 8 ∧ sm3 (bs.drop 256) = BitVec.ofNat 256 (f 32 32))

/-- R163, R195, R223, R248: the step inside a WRSR to `exm` holds the active lanes left out, makes the held lanes named LIVE, and forms the split; a read of the clock's low half latches its high half for the next read of it; a loaded constant bank is
busy no more; an access that has performed or faulted in each lane leaves the count of 16, and its held faults may be delivered. -/
def Obligations.StepsInsideInstructions : Prop :=
  ∀ (s : State) (c : Crew), let k := s.arg.crew
    mfind s.crews k = some c →
    (let w : Mask := BitVec.ofNat 32 s.arg.a
     c.exm &&& w ≠ 0 → ∃ t c', exec .exmWrite s = .next t ∧ t = updCrew s k (fun _ => c') ∧ (∀ L < 32, frGet c'.fr L = if c.exm.getLsbD L = true ∧ w.getLsbD L = true then { st := .live, resume := c.pc + 4 }
       else if c.exm.getLsbD L then { st := .held, resume := c.pc + 4 } else if (frGet c.fr L).st = .held ∧ w.getLsbD L = true then { st := .live, resume := c.pc + 4 } else frGet c.fr L) ∧ AtSplit c' ∧ c' = { c with fr := c'.fr, pc := c'.pc, exm := c'.exm }) ∧
    exec .clockReadLatch s = .next (updCrew s k (fun c => { c with clockLatch := some (BitVec.ofNat 32 (s.clock / 2 ^ 32)) })) ∧
    (∀ b, c.ldcBusy.find? (fun b => b.1 == s.arg.a) = some b → c.held = [] → exec .ldcBankLoaded s = .next (updCrew s k (fun c => { c with
      ldcBusy := c.ldcBusy.erase b, counted := c.counted.filter (fun n => n != b.2) }))) ∧
    (stillOut s k c s.arg.a = false → c.held = [] → exec .countedAccessComplete s = .next (updCrew s k (fun c => { c with counted := c.counted.filter (fun n => n != s.arg.a) }))) ∧
    (∀ h, stillOut s k c s.arg.a = false → c.held = [h] → h.seq = s.arg.a → h.returning = false → c.exm ≠ 0 → (∃ L < 32, (frGet c.fr L).st = .live) →
      exec .countedAccessComplete s = .next (updCrew s k (fun c => { c with counted := c.counted.filter (fun n => n != s.arg.a), held := [{ h with due := true }] }))) ∧
    (stillOut s k c s.arg.a = true → exec .countedAccessComplete s = .next s)

/-! ## The machine as a whole -/

/-- R6, R14, R195, R329, R441 (a cold reset): the device stands at image verification with `clock` 0 and nothing resident, launched, declared or under way; no route lists a port; memory is in its canonical form. What
an unlisted byte of memory reads as, and the values of the fields that the spec gives no value for, are the model's choice (log entries 1 and 6). -/
def Obligations.ResetState : Prop :=
  let s := State.reset
  s.clock = 0 ∧ s.stage = 0x02 ∧ s.crews = [] ∧ s.teams = [] ∧ s.launches = [] ∧ s.timelines = [] ∧ s.queues = [] ∧ s.cmds = [] ∧ s.parts = [] ∧ s.ferries = [] ∧ s.comms = [] ∧ s.windows = [] ∧
  s.txSlots = [] ∧ s.rxSlots = [] ∧ s.pflags = [] ∧ s.reqs = [] ∧ s.copies = [] ∧ s.matq = [] ∧ s.wcb = [] ∧ s.tags = [] ∧ s.chans = [] ∧ s.tbufs = [] ∧ s.regions = [] ∧ s.brks = [] ∧ s.armed = [] ∧
  s.series.k = 0 ∧ s.agenda = [] ∧ (∀ d, portsOf s d = []) ∧ Memory.wf s.mem = true ∧ ∀ a, Memory.read s.mem a = 0

/-- R107, R110, R111, R112, R115, R116, R117, R132 (with R118, R119, R120): words written out field by field from the encodings, and the instructions that they stand for. -/
def Obligations.WordsDecode : Prop :=
  -- IADD v3, v1, s2: b 2, k 1, a 1, j 0, d 3, OP 0x00, M 0, bit 0 one
  decodeTableWord 32 0b000010_01_000001_00_000011_00000000_0_1 = some (.iadd { s2 := 2, k2 := 1, s1 := 1, k1 := 0, d := 3, e := none }) ∧
  -- IADD with its second source the extension word 0x12345678: b 32, k 3
  decodeTableWord 64 (0x12345678 * 2 ^ 32 + 0b100000_11_000001_00_000011_00000000_0_1) = some (.iadd { s2 := 32, k2 := 3, s1 := 1, k1 := 0, d := 3, e := some 0x12345678 }) ∧
  -- IADD.K v5, v5, v9: s 9, d 5, OP 1, M 0, bit 0 zero
  decodeTableWord 16 0b01001_00101_0001_0_0 = some (.kIadd { s := 9, d := 5 }) ∧
  -- RDSR v4, 0x031: imm 0x0031, d 4, OP 0x3E
  decodeTableWord 32 0b0000000000110001_000100_00111110_0_1 = some (.rdsr { imm := 0x31, d := 4 }) ∧
  -- LDW: os 2, sp 1, b 3, a 4, d 5, OP 0x84
  decodeTableWord 32 0b010_01_00011_000100_000101_10000100_0_1 = some (.ldw { os := 2, sp := 1, b := 3, a := 4, d := 5 }) ∧
  -- a NOP with its marker
  decodeTableWord 32 0b0000000000000000000000_11111000_1_1 = some .nop ∧
  -- an OP that is not assigned
  decodeTableWord 32 0b0000000000000000000000_01111101_0_1 = none

/-- R107 to R122 (their words): decoding the encoding of any well-formed instruction gives it back, with its marker and operands and with the bytes after it left over; and what decodes is well formed and its encoding
is exactly the bytes read, so that no two instructions share a word and no reserved field is dropped. -/
def Obligations.DecodeAndEncodeAgree : Prop :=
  (∀ (r : Fetched) (rest : List (BitVec 8)), r.wf = true → decode (encode r ++ rest) = .ok (r, rest)) ∧
  (∀ (bs rest : List (BitVec 8)) (r : Fetched), decode bs = .ok (r, rest) → r.wf = true ∧ encode r ++ rest = bs)

/-- R107, R108, R28, R44 (with R403): with no engine work due, a step of the device is the decoded instruction at the PC of the crew whose turn it is in its issue slot, issued by it; and a step whose agenda names an engine
step runs that step with its operands, once its delay has passed (log entry 3). -/
def Obligations.StepRunsTheDecodedInstruction : Prop :=
  (∀ (s T : State) (k : Nat) (c g : Crew) (bs rest : List Byte) (r : Fetched), s.agenda = [] → serves s = true → s.netIn = [] → dueNext s = none →
    let q := noteRoom (noteReady s)
    let s1 := if s.clock < s.polled + 64 ∧ crewReady s = true then q else { q with polled := s.clock }
    (cyclePicks s1).head? = some (k, g) → (isAged s1 g = false ∨ k = s.cur) → mfind s1.crews k = some c → c.xir = none → (brkHit s1 c = none ∨ c.stepping = 1) →
    fetchBytes s1 c c.pc = (T, .ok bs) → decode bs = .ok (r, rest) → step s = exec r.instr { takeGap T k c with cur := k, ir := { m := r.m, aux := r.aux, ext := r.ext } }) ∧
  (∀ (s : State) (d : Nat) (i : Instr) (a : EvArg) (rest : List AgendaItem), s.agenda = { delay := d, instr := some i, arg := a } :: rest →
    let S := { s with agenda := rest }
    step s = exec i { (if clocked s then tick S d else S) with arg := a })

/-- R1, R8, R426 (log entry 1): every step keeps memory in its canonical form: addresses strictly rising, and no entry equal to what an unlisted byte reads as, so that equal memories are equal data. -/
def Obligations.MemoryStaysCanonical : Prop :=
  ∀ (s t : State), Memory.wf s.mem = true → step s = .next t → Memory.wf t.mem = true
end

