-- ==== Sys2Proof/Laws/Maps.lean ====
section
/-! SUPPORT. Laws of maps: what a read gives after a write, and that the writes keep the canonical form. -/

namespace Sys2Proof.Machine

variable {α : Type}

theorem mfind_minsert (m : Map α) (k : Nat) (x : α) (j : Nat) : mfind (minsert m k x) j = if k = j then some x else mfind m j := by
  induction m with
  | nil => simp [minsert, mfind]
  | cons p r ih =>
    obtain ⟨i, y⟩ := p
    simp only [minsert]
    split
    · simp [mfind]
    · split
      · subst_vars; simp only [mfind]; split <;> rfl
      · simp only [mfind, ih]
        by_cases hi : i = j
        · subst hi; simp; intro h; omega
        · simp [hi]

theorem mfind_merase (m : Map α) (k j : Nat) : mfind (merase m k) j = if k = j then none else mfind m j := by
  induction m with
  | nil => simp [merase, mfind]
  | cons p r ih =>
    obtain ⟨i, y⟩ := p
    simp only [merase]
    by_cases hi : i = k
    · subst hi; simp only [if_true, ih, mfind]; split <;> rfl
    · simp only [if_neg hi, mfind, ih]
      by_cases hj : i = j
      · subst hj; simp [Ne.symm hi]
      · simp [hj]

theorem mfind_mmodify (m : Map α) (k : Nat) (g : α → α) (j : Nat) : mfind (mmodify m k g) j = if k = j then (mfind m j).map g else mfind m j := by
  induction m with
  | nil => simp [mmodify, mfind]
  | cons p r ih =>
    obtain ⟨i, y⟩ := p
    simp only [mmodify]
    by_cases hi : i = k
    · subst hi; simp only [if_true, mfind]; by_cases h : i = j <;> simp [h]
    · simp only [if_neg hi, mfind, ih]
      by_cases hj : i = j
      · subst hj; simp [Ne.symm hi]
      · simp [hj]

/-- A read after a write to a map with a default. -/
@[simp] theorem mget_mset [DecidableEq α] (d : α) (m : Map α) (k : Nat) (x : α) (j : Nat) :
    mget d (mset d m k x) j = if k = j then x else mget d m j := by
  unfold mset mget
  split
  · subst_vars; rw [mfind_merase]; split <;> rfl
  · rw [mfind_minsert]; split <;> rfl

@[simp] theorem mget_minsert (d : α) (m : Map α) (k : Nat) (x : α) (j : Nat) : mget d (minsert m k x) j = if k = j then x else mget d m j := by
  unfold mget; rw [mfind_minsert]; split <;> rfl

/-- Every key of a map is above `k`. -/
def above (k : Nat) (m : Map α) : Prop := ∀ p ∈ m, k < p.1

theorem mcanon_cons [DecidableEq α] (d : α) (k : Nat) (x : α) (r : Map α) :
    mcanon d ((k, x) :: r) = true ↔ above k r ∧ x ≠ d ∧ mcanon d r = true := by
  induction r generalizing k x with
  | nil => simp [mcanon, above]
  | cons q r ih =>
    obtain ⟨j, y⟩ := q
    have hj := ih j y
    simp only [mcanon, Bool.and_eq_true, decide_eq_true_eq, bne_iff_ne, above, List.mem_cons, forall_eq_or_imp]
    constructor
    · rintro ⟨⟨h1, h2⟩, h3⟩
      exact ⟨⟨h1, fun p hp => Nat.lt_trans h1 ((hj.mp h3).1 p hp)⟩, h2, h3⟩
    · rintro ⟨⟨h1, -⟩, h2, h3⟩
      exact ⟨⟨h1, h2⟩, h3⟩

theorem above_minsert (k : Nat) (m : Map α) (j : Nat) (x : α) (h : above k m) (hj : k < j) : above k (minsert m j x) := by
  induction m with
  | nil => simpa [minsert, above] using hj
  | cons p r ih =>
    obtain ⟨i, y⟩ := p
    have hr : above k r := fun q hq => h q (List.mem_cons_of_mem _ hq)
    have hi : k < i := h (i, y) List.mem_cons_self
    intro q hq
    simp only [minsert] at hq
    split at hq
    · simp at hq; rcases hq with rfl | rfl | hq
      · exact hj
      · exact hi
      · exact hr q hq
    · split at hq
      · simp at hq; rcases hq with rfl | hq
        · exact hj
        · exact hr q hq
      · simp at hq; rcases hq with rfl | hq
        · exact hi
        · exact ih hr q hq

theorem above_merase (k : Nat) (m : Map α) (j : Nat) (h : above k m) : above k (merase m j) := by
  induction m with
  | nil => simpa [merase] using h
  | cons p r ih =>
    obtain ⟨i, y⟩ := p
    have hr : above k r := fun q hq => h q (List.mem_cons_of_mem _ hq)
    simp only [merase]
    split
    · exact ih hr
    · intro q hq
      simp at hq; rcases hq with rfl | hq
      · exact h (i, y) List.mem_cons_self
      · exact ih hr q hq

theorem mcanon_minsert [DecidableEq α] (d : α) (m : Map α) (k : Nat) (x : α) (h : mcanon d m = true) (hx : x ≠ d) :
    mcanon d (minsert m k x) = true := by
  induction m with
  | nil => simp [minsert, mcanon, hx]
  | cons p r ih =>
    obtain ⟨i, y⟩ := p
    obtain ⟨ha, hy, hr⟩ := (mcanon_cons d i y r).mp h
    simp only [minsert]
    split
    · next hk => exact (mcanon_cons d k x _).mpr ⟨fun q hq => by
        simp at hq; rcases hq with rfl | hq
        · exact hk
        · exact Nat.lt_trans hk (ha q hq), hx, h⟩
    · split
      · next hk he => subst he; exact (mcanon_cons d i x r).mpr ⟨ha, hx, hr⟩
      · next hk he => exact (mcanon_cons d i y _).mpr ⟨above_minsert i r k x ha (by omega), hy, ih hr⟩

theorem mcanon_merase [DecidableEq α] (d : α) (m : Map α) (k : Nat) (h : mcanon d m = true) : mcanon d (merase m k) = true := by
  induction m with
  | nil => simpa [merase] using h
  | cons p r ih =>
    obtain ⟨i, y⟩ := p
    obtain ⟨ha, hy, hr⟩ := (mcanon_cons d i y r).mp h
    simp only [merase]
    split
    · exact ih hr
    · exact (mcanon_cons d i y _).mpr ⟨above_merase i r k ha, hy, ih hr⟩

/-- A write keeps the canonical form. -/
theorem mcanon_mset [DecidableEq α] (d : α) (m : Map α) (k : Nat) (x : α) (h : mcanon d m = true) : mcanon d (mset d m k x) = true := by
  unfold mset
  split
  · exact mcanon_merase d m k h
  · next hx => exact mcanon_minsert d m k x h hx

end Sys2Proof.Machine
end

