-- ==== Sys2Proof/Laws/State.lean ====
section
/-! SUPPORT. What the named updates of the state leave as it was: one lemma per field and update, each true by computation. -/

namespace Sys2Proof.Machine

@[simp] theorem updCrew_free (s : State) (k : Nat) (g : Crew → Crew) : (updCrew s k g).free = s.free := rfl
@[simp] theorem updCrew_agenda (s : State) (k : Nat) (g : Crew → Crew) : (updCrew s k g).agenda = s.agenda := rfl
@[simp] theorem updCrew_cur (s : State) (k : Nat) (g : Crew → Crew) : (updCrew s k g).cur = s.cur := rfl
@[simp] theorem updCrew_polled (s : State) (k : Nat) (g : Crew → Crew) : (updCrew s k g).polled = s.polled := rfl
@[simp] theorem updCrew_arg (s : State) (k : Nat) (g : Crew → Crew) : (updCrew s k g).arg = s.arg := rfl
@[simp] theorem updCrew_ir (s : State) (k : Nat) (g : Crew → Crew) : (updCrew s k g).ir = s.ir := rfl
@[simp] theorem updCrew_clock (s : State) (k : Nat) (g : Crew → Crew) : (updCrew s k g).clock = s.clock := rfl
@[simp] theorem updCrew_stage (s : State) (k : Nat) (g : Crew → Crew) : (updCrew s k g).stage = s.stage := rfl
@[simp] theorem updCrew_powerCap (s : State) (k : Nat) (g : Crew → Crew) : (updCrew s k g).powerCap = s.powerCap := rfl
@[simp] theorem updCrew_capThrottle (s : State) (k : Nat) (g : Crew → Crew) : (updCrew s k g).capThrottle = s.capThrottle := rfl
@[simp] theorem updCrew_thermThrottle (s : State) (k : Nat) (g : Crew → Crew) : (updCrew s k g).thermThrottle = s.thermThrottle := rfl
@[simp] theorem updCrew_svnFuse (s : State) (k : Nat) (g : Crew → Crew) : (updCrew s k g).svnFuse = s.svnFuse := rfl
@[simp] theorem updCrew_flash (s : State) (k : Nat) (g : Crew → Crew) : (updCrew s k g).flash = s.flash := rfl
@[simp] theorem updCrew_mLog (s : State) (k : Nat) (g : Crew → Crew) : (updCrew s k g).mLog = s.mLog := rfl
@[simp] theorem updCrew_mCount (s : State) (k : Nat) (g : Crew → Crew) : (updCrew s k g).mCount = s.mCount := rfl
@[simp] theorem updCrew_mFw (s : State) (k : Nat) (g : Crew → Crew) : (updCrew s k g).mFw = s.mFw := rfl
@[simp] theorem updCrew_mem (s : State) (k : Nat) (g : Crew → Crew) : (updCrew s k g).mem = s.mem := rfl
@[simp] theorem updCrew_poison (s : State) (k : Nat) (g : Crew → Crew) : (updCrew s k g).poison = s.poison := rfl
@[simp] theorem updCrew_corrCount (s : State) (k : Nat) (g : Crew → Crew) : (updCrew s k g).corrCount = s.corrCount := rfl
@[simp] theorem updCrew_ecc (s : State) (k : Nat) (g : Crew → Crew) : (updCrew s k g).ecc = s.ecc := rfl
@[simp] theorem updCrew_badPages (s : State) (k : Nat) (g : Crew → Crew) : (updCrew s k g).badPages = s.badPages := rfl
@[simp] theorem updCrew_tlbIsle (s : State) (k : Nat) (g : Crew → Crew) : (updCrew s k g).tlbIsle = s.tlbIsle := rfl
@[simp] theorem updCrew_tlbAtoll (s : State) (k : Nat) (g : Crew → Crew) : (updCrew s k g).tlbAtoll = s.tlbAtoll := rfl
@[simp] theorem updCrew_parts (s : State) (k : Nat) (g : Crew → Crew) : (updCrew s k g).parts = s.parts := rfl
@[simp] theorem updCrew_queues (s : State) (k : Nat) (g : Crew → Crew) : (updCrew s k g).queues = s.queues := rfl
@[simp] theorem updCrew_cmds (s : State) (k : Nat) (g : Crew → Crew) : (updCrew s k g).cmds = s.cmds := rfl
@[simp] theorem updCrew_launches (s : State) (k : Nat) (g : Crew → Crew) : (updCrew s k g).launches = s.launches := rfl
@[simp] theorem updCrew_accepts (s : State) (k : Nat) (g : Crew → Crew) : (updCrew s k g).accepts = s.accepts := rfl
@[simp] theorem updCrew_wrr (s : State) (k : Nat) (g : Crew → Crew) : (updCrew s k g).wrr = s.wrr := rfl
@[simp] theorem updCrew_nextDisp (s : State) (k : Nat) (g : Crew → Crew) : (updCrew s k g).nextDisp = s.nextDisp := rfl
@[simp] theorem updCrew_ghosts (s : State) (k : Nat) (g : Crew → Crew) : (updCrew s k g).ghosts = s.ghosts := rfl
@[simp] theorem updCrew_timelines (s : State) (k : Nat) (g : Crew → Crew) : (updCrew s k g).timelines = s.timelines := rfl
@[simp] theorem updCrew_teams (s : State) (k : Nat) (g : Crew → Crew) : (updCrew s k g).teams = s.teams := rfl
@[simp] theorem updCrew_tags (s : State) (k : Nat) (g : Crew → Crew) : (updCrew s k g).tags = s.tags := rfl
@[simp] theorem updCrew_chans (s : State) (k : Nat) (g : Crew → Crew) : (updCrew s k g).chans = s.chans := rfl
@[simp] theorem updCrew_copies (s : State) (k : Nat) (g : Crew → Crew) : (updCrew s k g).copies = s.copies := rfl
@[simp] theorem updCrew_nextCopy (s : State) (k : Nat) (g : Crew → Crew) : (updCrew s k g).nextCopy = s.nextCopy := rfl
@[simp] theorem updCrew_matq (s : State) (k : Nat) (g : Crew → Crew) : (updCrew s k g).matq = s.matq := rfl
@[simp] theorem updCrew_mldas (s : State) (k : Nat) (g : Crew → Crew) : (updCrew s k g).mldas = s.mldas := rfl
@[simp] theorem updCrew_nextGroup (s : State) (k : Nat) (g : Crew → Crew) : (updCrew s k g).nextGroup = s.nextGroup := rfl
@[simp] theorem updCrew_predictor (s : State) (k : Nat) (g : Crew → Crew) : (updCrew s k g).predictor = s.predictor := rfl
@[simp] theorem updCrew_lineOwner (s : State) (k : Nat) (g : Crew → Crew) : (updCrew s k g).lineOwner = s.lineOwner := rfl
@[simp] theorem updCrew_wcb (s : State) (k : Nat) (g : Crew → Crew) : (updCrew s k g).wcb = s.wcb := rfl
@[simp] theorem updCrew_deviceId (s : State) (k : Nat) (g : Crew → Crew) : (updCrew s k g).deviceId = s.deviceId := rfl
@[simp] theorem updCrew_routes (s : State) (k : Nat) (g : Crew → Crew) : (updCrew s k g).routes = s.routes := rfl
@[simp] theorem updCrew_managers (s : State) (k : Nat) (g : Crew → Crew) : (updCrew s k g).managers = s.managers := rfl
@[simp] theorem updCrew_windows (s : State) (k : Nat) (g : Crew → Crew) : (updCrew s k g).windows = s.windows := rfl
@[simp] theorem updCrew_txSlots (s : State) (k : Nat) (g : Crew → Crew) : (updCrew s k g).txSlots = s.txSlots := rfl
@[simp] theorem updCrew_rxSlots (s : State) (k : Nat) (g : Crew → Crew) : (updCrew s k g).rxSlots = s.rxSlots := rfl
@[simp] theorem updCrew_pflags (s : State) (k : Nat) (g : Crew → Crew) : (updCrew s k g).pflags = s.pflags := rfl
@[simp] theorem updCrew_reqs (s : State) (k : Nat) (g : Crew → Crew) : (updCrew s k g).reqs = s.reqs := rfl
@[simp] theorem updCrew_comb (s : State) (k : Nat) (g : Crew → Crew) : (updCrew s k g).comb = s.comb := rfl
@[simp] theorem updCrew_links (s : State) (k : Nat) (g : Crew → Crew) : (updCrew s k g).links = s.links := rfl
@[simp] theorem updCrew_netOut (s : State) (k : Nat) (g : Crew → Crew) : (updCrew s k g).netOut = s.netOut := rfl
@[simp] theorem updCrew_netIn (s : State) (k : Nat) (g : Crew → Crew) : (updCrew s k g).netIn = s.netIn := rfl
@[simp] theorem updCrew_discards (s : State) (k : Nat) (g : Crew → Crew) : (updCrew s k g).discards = s.discards := rfl
@[simp] theorem updCrew_comms (s : State) (k : Nat) (g : Crew → Crew) : (updCrew s k g).comms = s.comms := rfl
@[simp] theorem updCrew_lastComm (s : State) (k : Nat) (g : Crew → Crew) : (updCrew s k g).lastComm = s.lastComm := rfl
@[simp] theorem updCrew_ferries (s : State) (k : Nat) (g : Crew → Crew) : (updCrew s k g).ferries = s.ferries := rfl
@[simp] theorem updCrew_cycleRec (s : State) (k : Nat) (g : Crew → Crew) : (updCrew s k g).cycleRec = s.cycleRec := rfl
@[simp] theorem updCrew_regions (s : State) (k : Nat) (g : Crew → Crew) : (updCrew s k g).regions = s.regions := rfl
@[simp] theorem updCrew_brks (s : State) (k : Nat) (g : Crew → Crew) : (updCrew s k g).brks = s.brks := rfl
@[simp] theorem updCrew_armed (s : State) (k : Nat) (g : Crew → Crew) : (updCrew s k g).armed = s.armed := rfl
@[simp] theorem updCrew_isleStops (s : State) (k : Nat) (g : Crew → Crew) : (updCrew s k g).isleStops = s.isleStops := rfl
@[simp] theorem updCrew_stepReq (s : State) (k : Nat) (g : Crew → Crew) : (updCrew s k g).stepReq = s.stepReq := rfl
@[simp] theorem updCrew_tbufs (s : State) (k : Nat) (g : Crew → Crew) : (updCrew s k g).tbufs = s.tbufs := rfl
@[simp] theorem updCrew_series (s : State) (k : Nat) (g : Crew → Crew) : (updCrew s k g).series = s.series := rfl
@[simp] theorem updCrew_watchRing (s : State) (k : Nat) (g : Crew → Crew) : (updCrew s k g).watchRing = s.watchRing := rfl
@[simp] theorem updCrew_faultq (s : State) (k : Nat) (g : Crew → Crew) : (updCrew s k g).faultq = s.faultq := rfl
@[simp] theorem updCrew_ckpt (s : State) (k : Nat) (g : Crew → Crew) : (updCrew s k g).ckpt = s.ckpt := rfl
@[simp] theorem updCrew_snaps (s : State) (k : Nat) (g : Crew → Crew) : (updCrew s k g).snaps = s.snaps := rfl
@[simp] theorem updCrew_breaks (s : State) (k : Nat) (g : Crew → Crew) : (updCrew s k g).breaks = s.breaks := rfl
@[simp] theorem updCrew_counts (s : State) (k : Nat) (g : Crew → Crew) : (updCrew s k g).counts = s.counts := rfl
@[simp] theorem updCrew_lost (s : State) (k : Nat) (g : Crew → Crew) : (updCrew s k g).lost = s.lost := rfl
@[simp] theorem updCrew_ckptEarly (s : State) (k : Nat) (g : Crew → Crew) : (updCrew s k g).ckptEarly = s.ckptEarly := rfl
@[simp] theorem updCrew_power (s : State) (k : Nat) (g : Crew → Crew) : (updCrew s k g).power = s.power := rfl
@[simp] theorem updCrew_temps (s : State) (k : Nat) (g : Crew → Crew) : (updCrew s k g).temps = s.temps := rfl
@[simp] theorem updCrew_began (s : State) (k : Nat) (g : Crew → Crew) : (updCrew s k g).began = s.began := rfl
@[simp] theorem updCrew_reached (s : State) (k : Nat) (g : Crew → Crew) : (updCrew s k g).reached = s.reached := rfl
@[simp] theorem updCrew_countAt (s : State) (k : Nat) (g : Crew → Crew) : (updCrew s k g).countAt = s.countAt := rfl
@[simp] theorem updCrew_slotBusy (s : State) (k : Nat) (g : Crew → Crew) : (updCrew s k g).slotBusy = s.slotBusy := rfl
@[simp] theorem updCrew_tracePend (s : State) (k : Nat) (g : Crew → Crew) : (updCrew s k g).tracePend = s.tracePend := rfl
@[simp] theorem updCrew_flagArea (s : State) (k : Nat) (g : Crew → Crew) : (updCrew s k g).flagArea = s.flagArea := rfl

@[simp] theorem wrB_free (s : State) (pa : Nat) (bs : List Byte) : (wrB s pa bs).free = s.free := rfl
@[simp] theorem wrB_agenda (s : State) (pa : Nat) (bs : List Byte) : (wrB s pa bs).agenda = s.agenda := rfl
@[simp] theorem wrB_cur (s : State) (pa : Nat) (bs : List Byte) : (wrB s pa bs).cur = s.cur := rfl
@[simp] theorem wrB_polled (s : State) (pa : Nat) (bs : List Byte) : (wrB s pa bs).polled = s.polled := rfl
@[simp] theorem wrB_arg (s : State) (pa : Nat) (bs : List Byte) : (wrB s pa bs).arg = s.arg := rfl
@[simp] theorem wrB_ir (s : State) (pa : Nat) (bs : List Byte) : (wrB s pa bs).ir = s.ir := rfl
@[simp] theorem wrB_clock (s : State) (pa : Nat) (bs : List Byte) : (wrB s pa bs).clock = s.clock := rfl
@[simp] theorem wrB_stage (s : State) (pa : Nat) (bs : List Byte) : (wrB s pa bs).stage = s.stage := rfl
@[simp] theorem wrB_powerCap (s : State) (pa : Nat) (bs : List Byte) : (wrB s pa bs).powerCap = s.powerCap := rfl
@[simp] theorem wrB_capThrottle (s : State) (pa : Nat) (bs : List Byte) : (wrB s pa bs).capThrottle = s.capThrottle := rfl
@[simp] theorem wrB_thermThrottle (s : State) (pa : Nat) (bs : List Byte) : (wrB s pa bs).thermThrottle = s.thermThrottle := rfl
@[simp] theorem wrB_svnFuse (s : State) (pa : Nat) (bs : List Byte) : (wrB s pa bs).svnFuse = s.svnFuse := rfl
@[simp] theorem wrB_flash (s : State) (pa : Nat) (bs : List Byte) : (wrB s pa bs).flash = s.flash := rfl
@[simp] theorem wrB_mLog (s : State) (pa : Nat) (bs : List Byte) : (wrB s pa bs).mLog = s.mLog := rfl
@[simp] theorem wrB_mCount (s : State) (pa : Nat) (bs : List Byte) : (wrB s pa bs).mCount = s.mCount := rfl
@[simp] theorem wrB_mFw (s : State) (pa : Nat) (bs : List Byte) : (wrB s pa bs).mFw = s.mFw := rfl
@[simp] theorem wrB_poison (s : State) (pa : Nat) (bs : List Byte) : (wrB s pa bs).poison = s.poison := rfl
@[simp] theorem wrB_corrCount (s : State) (pa : Nat) (bs : List Byte) : (wrB s pa bs).corrCount = s.corrCount := rfl
@[simp] theorem wrB_ecc (s : State) (pa : Nat) (bs : List Byte) : (wrB s pa bs).ecc = s.ecc := rfl
@[simp] theorem wrB_badPages (s : State) (pa : Nat) (bs : List Byte) : (wrB s pa bs).badPages = s.badPages := rfl
@[simp] theorem wrB_tlbIsle (s : State) (pa : Nat) (bs : List Byte) : (wrB s pa bs).tlbIsle = s.tlbIsle := rfl
@[simp] theorem wrB_tlbAtoll (s : State) (pa : Nat) (bs : List Byte) : (wrB s pa bs).tlbAtoll = s.tlbAtoll := rfl
@[simp] theorem wrB_parts (s : State) (pa : Nat) (bs : List Byte) : (wrB s pa bs).parts = s.parts := rfl
@[simp] theorem wrB_queues (s : State) (pa : Nat) (bs : List Byte) : (wrB s pa bs).queues = s.queues := rfl
@[simp] theorem wrB_cmds (s : State) (pa : Nat) (bs : List Byte) : (wrB s pa bs).cmds = s.cmds := rfl
@[simp] theorem wrB_launches (s : State) (pa : Nat) (bs : List Byte) : (wrB s pa bs).launches = s.launches := rfl
@[simp] theorem wrB_accepts (s : State) (pa : Nat) (bs : List Byte) : (wrB s pa bs).accepts = s.accepts := rfl
@[simp] theorem wrB_wrr (s : State) (pa : Nat) (bs : List Byte) : (wrB s pa bs).wrr = s.wrr := rfl
@[simp] theorem wrB_nextDisp (s : State) (pa : Nat) (bs : List Byte) : (wrB s pa bs).nextDisp = s.nextDisp := rfl
@[simp] theorem wrB_ghosts (s : State) (pa : Nat) (bs : List Byte) : (wrB s pa bs).ghosts = s.ghosts := rfl
@[simp] theorem wrB_timelines (s : State) (pa : Nat) (bs : List Byte) : (wrB s pa bs).timelines = s.timelines := rfl
@[simp] theorem wrB_teams (s : State) (pa : Nat) (bs : List Byte) : (wrB s pa bs).teams = s.teams := rfl
@[simp] theorem wrB_crews (s : State) (pa : Nat) (bs : List Byte) : (wrB s pa bs).crews = s.crews := rfl
@[simp] theorem wrB_tags (s : State) (pa : Nat) (bs : List Byte) : (wrB s pa bs).tags = s.tags := rfl
@[simp] theorem wrB_chans (s : State) (pa : Nat) (bs : List Byte) : (wrB s pa bs).chans = s.chans := rfl
@[simp] theorem wrB_copies (s : State) (pa : Nat) (bs : List Byte) : (wrB s pa bs).copies = s.copies := rfl
@[simp] theorem wrB_nextCopy (s : State) (pa : Nat) (bs : List Byte) : (wrB s pa bs).nextCopy = s.nextCopy := rfl
@[simp] theorem wrB_matq (s : State) (pa : Nat) (bs : List Byte) : (wrB s pa bs).matq = s.matq := rfl
@[simp] theorem wrB_mldas (s : State) (pa : Nat) (bs : List Byte) : (wrB s pa bs).mldas = s.mldas := rfl
@[simp] theorem wrB_nextGroup (s : State) (pa : Nat) (bs : List Byte) : (wrB s pa bs).nextGroup = s.nextGroup := rfl
@[simp] theorem wrB_predictor (s : State) (pa : Nat) (bs : List Byte) : (wrB s pa bs).predictor = s.predictor := rfl
@[simp] theorem wrB_lineOwner (s : State) (pa : Nat) (bs : List Byte) : (wrB s pa bs).lineOwner = s.lineOwner := rfl
@[simp] theorem wrB_wcb (s : State) (pa : Nat) (bs : List Byte) : (wrB s pa bs).wcb = s.wcb := rfl
@[simp] theorem wrB_deviceId (s : State) (pa : Nat) (bs : List Byte) : (wrB s pa bs).deviceId = s.deviceId := rfl
@[simp] theorem wrB_routes (s : State) (pa : Nat) (bs : List Byte) : (wrB s pa bs).routes = s.routes := rfl
@[simp] theorem wrB_managers (s : State) (pa : Nat) (bs : List Byte) : (wrB s pa bs).managers = s.managers := rfl
@[simp] theorem wrB_windows (s : State) (pa : Nat) (bs : List Byte) : (wrB s pa bs).windows = s.windows := rfl
@[simp] theorem wrB_txSlots (s : State) (pa : Nat) (bs : List Byte) : (wrB s pa bs).txSlots = s.txSlots := rfl
@[simp] theorem wrB_rxSlots (s : State) (pa : Nat) (bs : List Byte) : (wrB s pa bs).rxSlots = s.rxSlots := rfl
@[simp] theorem wrB_pflags (s : State) (pa : Nat) (bs : List Byte) : (wrB s pa bs).pflags = s.pflags := rfl
@[simp] theorem wrB_reqs (s : State) (pa : Nat) (bs : List Byte) : (wrB s pa bs).reqs = s.reqs := rfl
@[simp] theorem wrB_comb (s : State) (pa : Nat) (bs : List Byte) : (wrB s pa bs).comb = s.comb := rfl
@[simp] theorem wrB_links (s : State) (pa : Nat) (bs : List Byte) : (wrB s pa bs).links = s.links := rfl
@[simp] theorem wrB_netOut (s : State) (pa : Nat) (bs : List Byte) : (wrB s pa bs).netOut = s.netOut := rfl
@[simp] theorem wrB_netIn (s : State) (pa : Nat) (bs : List Byte) : (wrB s pa bs).netIn = s.netIn := rfl
@[simp] theorem wrB_discards (s : State) (pa : Nat) (bs : List Byte) : (wrB s pa bs).discards = s.discards := rfl
@[simp] theorem wrB_comms (s : State) (pa : Nat) (bs : List Byte) : (wrB s pa bs).comms = s.comms := rfl
@[simp] theorem wrB_lastComm (s : State) (pa : Nat) (bs : List Byte) : (wrB s pa bs).lastComm = s.lastComm := rfl
@[simp] theorem wrB_ferries (s : State) (pa : Nat) (bs : List Byte) : (wrB s pa bs).ferries = s.ferries := rfl
@[simp] theorem wrB_cycleRec (s : State) (pa : Nat) (bs : List Byte) : (wrB s pa bs).cycleRec = s.cycleRec := rfl
@[simp] theorem wrB_regions (s : State) (pa : Nat) (bs : List Byte) : (wrB s pa bs).regions = s.regions := rfl
@[simp] theorem wrB_brks (s : State) (pa : Nat) (bs : List Byte) : (wrB s pa bs).brks = s.brks := rfl
@[simp] theorem wrB_armed (s : State) (pa : Nat) (bs : List Byte) : (wrB s pa bs).armed = s.armed := rfl
@[simp] theorem wrB_isleStops (s : State) (pa : Nat) (bs : List Byte) : (wrB s pa bs).isleStops = s.isleStops := rfl
@[simp] theorem wrB_stepReq (s : State) (pa : Nat) (bs : List Byte) : (wrB s pa bs).stepReq = s.stepReq := rfl
@[simp] theorem wrB_tbufs (s : State) (pa : Nat) (bs : List Byte) : (wrB s pa bs).tbufs = s.tbufs := rfl
@[simp] theorem wrB_series (s : State) (pa : Nat) (bs : List Byte) : (wrB s pa bs).series = s.series := rfl
@[simp] theorem wrB_watchRing (s : State) (pa : Nat) (bs : List Byte) : (wrB s pa bs).watchRing = s.watchRing := rfl
@[simp] theorem wrB_faultq (s : State) (pa : Nat) (bs : List Byte) : (wrB s pa bs).faultq = s.faultq := rfl
@[simp] theorem wrB_ckpt (s : State) (pa : Nat) (bs : List Byte) : (wrB s pa bs).ckpt = s.ckpt := rfl
@[simp] theorem wrB_snaps (s : State) (pa : Nat) (bs : List Byte) : (wrB s pa bs).snaps = s.snaps := rfl
@[simp] theorem wrB_breaks (s : State) (pa : Nat) (bs : List Byte) : (wrB s pa bs).breaks = s.breaks := rfl
@[simp] theorem wrB_counts (s : State) (pa : Nat) (bs : List Byte) : (wrB s pa bs).counts = s.counts := rfl
@[simp] theorem wrB_lost (s : State) (pa : Nat) (bs : List Byte) : (wrB s pa bs).lost = s.lost := rfl
@[simp] theorem wrB_ckptEarly (s : State) (pa : Nat) (bs : List Byte) : (wrB s pa bs).ckptEarly = s.ckptEarly := rfl
@[simp] theorem wrB_power (s : State) (pa : Nat) (bs : List Byte) : (wrB s pa bs).power = s.power := rfl
@[simp] theorem wrB_temps (s : State) (pa : Nat) (bs : List Byte) : (wrB s pa bs).temps = s.temps := rfl
@[simp] theorem wrB_began (s : State) (pa : Nat) (bs : List Byte) : (wrB s pa bs).began = s.began := rfl
@[simp] theorem wrB_reached (s : State) (pa : Nat) (bs : List Byte) : (wrB s pa bs).reached = s.reached := rfl
@[simp] theorem wrB_countAt (s : State) (pa : Nat) (bs : List Byte) : (wrB s pa bs).countAt = s.countAt := rfl
@[simp] theorem wrB_slotBusy (s : State) (pa : Nat) (bs : List Byte) : (wrB s pa bs).slotBusy = s.slotBusy := rfl
@[simp] theorem wrB_tracePend (s : State) (pa : Nat) (bs : List Byte) : (wrB s pa bs).tracePend = s.tracePend := rfl
@[simp] theorem wrB_flagArea (s : State) (pa : Nat) (bs : List Byte) : (wrB s pa bs).flagArea = s.flagArea := rfl

@[simp] theorem scW_free (s : State) (tk off : Nat) (bs : List Byte) : (scW s tk off bs).free = s.free := rfl
@[simp] theorem scW_agenda (s : State) (tk off : Nat) (bs : List Byte) : (scW s tk off bs).agenda = s.agenda := rfl
@[simp] theorem scW_cur (s : State) (tk off : Nat) (bs : List Byte) : (scW s tk off bs).cur = s.cur := rfl
@[simp] theorem scW_polled (s : State) (tk off : Nat) (bs : List Byte) : (scW s tk off bs).polled = s.polled := rfl
@[simp] theorem scW_arg (s : State) (tk off : Nat) (bs : List Byte) : (scW s tk off bs).arg = s.arg := rfl
@[simp] theorem scW_ir (s : State) (tk off : Nat) (bs : List Byte) : (scW s tk off bs).ir = s.ir := rfl
@[simp] theorem scW_clock (s : State) (tk off : Nat) (bs : List Byte) : (scW s tk off bs).clock = s.clock := rfl
@[simp] theorem scW_stage (s : State) (tk off : Nat) (bs : List Byte) : (scW s tk off bs).stage = s.stage := rfl
@[simp] theorem scW_powerCap (s : State) (tk off : Nat) (bs : List Byte) : (scW s tk off bs).powerCap = s.powerCap := rfl
@[simp] theorem scW_capThrottle (s : State) (tk off : Nat) (bs : List Byte) : (scW s tk off bs).capThrottle = s.capThrottle := rfl
@[simp] theorem scW_thermThrottle (s : State) (tk off : Nat) (bs : List Byte) : (scW s tk off bs).thermThrottle = s.thermThrottle := rfl
@[simp] theorem scW_svnFuse (s : State) (tk off : Nat) (bs : List Byte) : (scW s tk off bs).svnFuse = s.svnFuse := rfl
@[simp] theorem scW_flash (s : State) (tk off : Nat) (bs : List Byte) : (scW s tk off bs).flash = s.flash := rfl
@[simp] theorem scW_mLog (s : State) (tk off : Nat) (bs : List Byte) : (scW s tk off bs).mLog = s.mLog := rfl
@[simp] theorem scW_mCount (s : State) (tk off : Nat) (bs : List Byte) : (scW s tk off bs).mCount = s.mCount := rfl
@[simp] theorem scW_mFw (s : State) (tk off : Nat) (bs : List Byte) : (scW s tk off bs).mFw = s.mFw := rfl
@[simp] theorem scW_mem (s : State) (tk off : Nat) (bs : List Byte) : (scW s tk off bs).mem = s.mem := rfl
@[simp] theorem scW_poison (s : State) (tk off : Nat) (bs : List Byte) : (scW s tk off bs).poison = s.poison := rfl
@[simp] theorem scW_corrCount (s : State) (tk off : Nat) (bs : List Byte) : (scW s tk off bs).corrCount = s.corrCount := rfl
@[simp] theorem scW_ecc (s : State) (tk off : Nat) (bs : List Byte) : (scW s tk off bs).ecc = s.ecc := rfl
@[simp] theorem scW_badPages (s : State) (tk off : Nat) (bs : List Byte) : (scW s tk off bs).badPages = s.badPages := rfl
@[simp] theorem scW_tlbIsle (s : State) (tk off : Nat) (bs : List Byte) : (scW s tk off bs).tlbIsle = s.tlbIsle := rfl
@[simp] theorem scW_tlbAtoll (s : State) (tk off : Nat) (bs : List Byte) : (scW s tk off bs).tlbAtoll = s.tlbAtoll := rfl
@[simp] theorem scW_parts (s : State) (tk off : Nat) (bs : List Byte) : (scW s tk off bs).parts = s.parts := rfl
@[simp] theorem scW_queues (s : State) (tk off : Nat) (bs : List Byte) : (scW s tk off bs).queues = s.queues := rfl
@[simp] theorem scW_cmds (s : State) (tk off : Nat) (bs : List Byte) : (scW s tk off bs).cmds = s.cmds := rfl
@[simp] theorem scW_launches (s : State) (tk off : Nat) (bs : List Byte) : (scW s tk off bs).launches = s.launches := rfl
@[simp] theorem scW_accepts (s : State) (tk off : Nat) (bs : List Byte) : (scW s tk off bs).accepts = s.accepts := rfl
@[simp] theorem scW_wrr (s : State) (tk off : Nat) (bs : List Byte) : (scW s tk off bs).wrr = s.wrr := rfl
@[simp] theorem scW_nextDisp (s : State) (tk off : Nat) (bs : List Byte) : (scW s tk off bs).nextDisp = s.nextDisp := rfl
@[simp] theorem scW_ghosts (s : State) (tk off : Nat) (bs : List Byte) : (scW s tk off bs).ghosts = s.ghosts := rfl
@[simp] theorem scW_timelines (s : State) (tk off : Nat) (bs : List Byte) : (scW s tk off bs).timelines = s.timelines := rfl
@[simp] theorem scW_crews (s : State) (tk off : Nat) (bs : List Byte) : (scW s tk off bs).crews = s.crews := rfl
@[simp] theorem scW_tags (s : State) (tk off : Nat) (bs : List Byte) : (scW s tk off bs).tags = s.tags := rfl
@[simp] theorem scW_chans (s : State) (tk off : Nat) (bs : List Byte) : (scW s tk off bs).chans = s.chans := rfl
@[simp] theorem scW_copies (s : State) (tk off : Nat) (bs : List Byte) : (scW s tk off bs).copies = s.copies := rfl
@[simp] theorem scW_nextCopy (s : State) (tk off : Nat) (bs : List Byte) : (scW s tk off bs).nextCopy = s.nextCopy := rfl
@[simp] theorem scW_matq (s : State) (tk off : Nat) (bs : List Byte) : (scW s tk off bs).matq = s.matq := rfl
@[simp] theorem scW_mldas (s : State) (tk off : Nat) (bs : List Byte) : (scW s tk off bs).mldas = s.mldas := rfl
@[simp] theorem scW_nextGroup (s : State) (tk off : Nat) (bs : List Byte) : (scW s tk off bs).nextGroup = s.nextGroup := rfl
@[simp] theorem scW_predictor (s : State) (tk off : Nat) (bs : List Byte) : (scW s tk off bs).predictor = s.predictor := rfl
@[simp] theorem scW_lineOwner (s : State) (tk off : Nat) (bs : List Byte) : (scW s tk off bs).lineOwner = s.lineOwner := rfl
@[simp] theorem scW_wcb (s : State) (tk off : Nat) (bs : List Byte) : (scW s tk off bs).wcb = s.wcb := rfl
@[simp] theorem scW_deviceId (s : State) (tk off : Nat) (bs : List Byte) : (scW s tk off bs).deviceId = s.deviceId := rfl
@[simp] theorem scW_routes (s : State) (tk off : Nat) (bs : List Byte) : (scW s tk off bs).routes = s.routes := rfl
@[simp] theorem scW_managers (s : State) (tk off : Nat) (bs : List Byte) : (scW s tk off bs).managers = s.managers := rfl
@[simp] theorem scW_windows (s : State) (tk off : Nat) (bs : List Byte) : (scW s tk off bs).windows = s.windows := rfl
@[simp] theorem scW_txSlots (s : State) (tk off : Nat) (bs : List Byte) : (scW s tk off bs).txSlots = s.txSlots := rfl
@[simp] theorem scW_rxSlots (s : State) (tk off : Nat) (bs : List Byte) : (scW s tk off bs).rxSlots = s.rxSlots := rfl
@[simp] theorem scW_pflags (s : State) (tk off : Nat) (bs : List Byte) : (scW s tk off bs).pflags = s.pflags := rfl
@[simp] theorem scW_reqs (s : State) (tk off : Nat) (bs : List Byte) : (scW s tk off bs).reqs = s.reqs := rfl
@[simp] theorem scW_comb (s : State) (tk off : Nat) (bs : List Byte) : (scW s tk off bs).comb = s.comb := rfl
@[simp] theorem scW_links (s : State) (tk off : Nat) (bs : List Byte) : (scW s tk off bs).links = s.links := rfl
@[simp] theorem scW_netOut (s : State) (tk off : Nat) (bs : List Byte) : (scW s tk off bs).netOut = s.netOut := rfl
@[simp] theorem scW_netIn (s : State) (tk off : Nat) (bs : List Byte) : (scW s tk off bs).netIn = s.netIn := rfl
@[simp] theorem scW_discards (s : State) (tk off : Nat) (bs : List Byte) : (scW s tk off bs).discards = s.discards := rfl
@[simp] theorem scW_comms (s : State) (tk off : Nat) (bs : List Byte) : (scW s tk off bs).comms = s.comms := rfl
@[simp] theorem scW_lastComm (s : State) (tk off : Nat) (bs : List Byte) : (scW s tk off bs).lastComm = s.lastComm := rfl
@[simp] theorem scW_ferries (s : State) (tk off : Nat) (bs : List Byte) : (scW s tk off bs).ferries = s.ferries := rfl
@[simp] theorem scW_cycleRec (s : State) (tk off : Nat) (bs : List Byte) : (scW s tk off bs).cycleRec = s.cycleRec := rfl
@[simp] theorem scW_regions (s : State) (tk off : Nat) (bs : List Byte) : (scW s tk off bs).regions = s.regions := rfl
@[simp] theorem scW_brks (s : State) (tk off : Nat) (bs : List Byte) : (scW s tk off bs).brks = s.brks := rfl
@[simp] theorem scW_armed (s : State) (tk off : Nat) (bs : List Byte) : (scW s tk off bs).armed = s.armed := rfl
@[simp] theorem scW_isleStops (s : State) (tk off : Nat) (bs : List Byte) : (scW s tk off bs).isleStops = s.isleStops := rfl
@[simp] theorem scW_stepReq (s : State) (tk off : Nat) (bs : List Byte) : (scW s tk off bs).stepReq = s.stepReq := rfl
@[simp] theorem scW_tbufs (s : State) (tk off : Nat) (bs : List Byte) : (scW s tk off bs).tbufs = s.tbufs := rfl
@[simp] theorem scW_series (s : State) (tk off : Nat) (bs : List Byte) : (scW s tk off bs).series = s.series := rfl
@[simp] theorem scW_watchRing (s : State) (tk off : Nat) (bs : List Byte) : (scW s tk off bs).watchRing = s.watchRing := rfl
@[simp] theorem scW_faultq (s : State) (tk off : Nat) (bs : List Byte) : (scW s tk off bs).faultq = s.faultq := rfl
@[simp] theorem scW_ckpt (s : State) (tk off : Nat) (bs : List Byte) : (scW s tk off bs).ckpt = s.ckpt := rfl
@[simp] theorem scW_snaps (s : State) (tk off : Nat) (bs : List Byte) : (scW s tk off bs).snaps = s.snaps := rfl
@[simp] theorem scW_breaks (s : State) (tk off : Nat) (bs : List Byte) : (scW s tk off bs).breaks = s.breaks := rfl
@[simp] theorem scW_counts (s : State) (tk off : Nat) (bs : List Byte) : (scW s tk off bs).counts = s.counts := rfl
@[simp] theorem scW_lost (s : State) (tk off : Nat) (bs : List Byte) : (scW s tk off bs).lost = s.lost := rfl
@[simp] theorem scW_ckptEarly (s : State) (tk off : Nat) (bs : List Byte) : (scW s tk off bs).ckptEarly = s.ckptEarly := rfl
@[simp] theorem scW_power (s : State) (tk off : Nat) (bs : List Byte) : (scW s tk off bs).power = s.power := rfl
@[simp] theorem scW_temps (s : State) (tk off : Nat) (bs : List Byte) : (scW s tk off bs).temps = s.temps := rfl
@[simp] theorem scW_began (s : State) (tk off : Nat) (bs : List Byte) : (scW s tk off bs).began = s.began := rfl
@[simp] theorem scW_reached (s : State) (tk off : Nat) (bs : List Byte) : (scW s tk off bs).reached = s.reached := rfl
@[simp] theorem scW_countAt (s : State) (tk off : Nat) (bs : List Byte) : (scW s tk off bs).countAt = s.countAt := rfl
@[simp] theorem scW_slotBusy (s : State) (tk off : Nat) (bs : List Byte) : (scW s tk off bs).slotBusy = s.slotBusy := rfl
@[simp] theorem scW_tracePend (s : State) (tk off : Nat) (bs : List Byte) : (scW s tk off bs).tracePend = s.tracePend := rfl
@[simp] theorem scW_flagArea (s : State) (tk off : Nat) (bs : List Byte) : (scW s tk off bs).flagArea = s.flagArea := rfl

end Sys2Proof.Machine
end

