-- ==== Sys2Proof/Laws/Issue.lean ====
section
/-! SUPPORT. Laws of issue: what an instruction that nothing turns away comes to, and what the machine is after it. -/

namespace Sys2Proof.Machine

/-! ## One crew's update -/

@[simp] theorem mfind_updCrew (s : State) (k : Nat) (g : Crew → Crew) (j : Nat) :
    mfind (updCrew s k g).crews j = if k = j then (mfind s.crews j).map g else mfind s.crews j := mfind_mmodify s.crews k g j

theorem mmodify_mmodify {α : Type} (m : Map α) (k : Nat) (f g : α → α) : mmodify (mmodify m k f) k g = mmodify m k (fun x => g (f x)) := by
  induction m with
  | nil => rfl
  | cons p r ih =>
    obtain ⟨i, y⟩ := p
    by_cases h : i = k <;> simp [mmodify, h, ih]

/-- Two updates of one crew are one. -/
@[simp] theorem updCrew_updCrew (s : State) (k : Nat) (f g : Crew → Crew) : updCrew (updCrew s k f) k g = updCrew s k (fun c => g (f c)) := by
  unfold updCrew; simp [mmodify_mmodify]

theorem crewAt_of (s : State) (k : Nat) (c : Crew) (h : mfind s.crews k = some c) : crewAt s k = c := by
  simp [crewAt, mget, h]

/-! ## The state in which an instruction runs, and the crew after it -/

/-- What `settle` makes of the crew. -/
def settled (s : State) (cyc : Nat) (c : Crew) : Crew :=
  numbered s cyc (if s.ir.m == 1 then drained { c with markerWait := true } else c)

theorem settle_eq (s : State) (k cyc : Nat) : settle s k cyc = updCrew s k (settled s cyc) := rfl

/-- An instruction that nothing turns away has its own effect. -/
theorem issue_clear (i : Instr) (o : Core) (s : State) (c : Crew) (h : Clear s c i o.uses) (hill : o.illop c s = false)
    (hp : o.priv = true → c.tdepth ≠ 0) (hq : o.privIf c s = false) (hc : o.counts = true → atLimit c = false)
    (hb : o.cbank = true → c.ldcBusy.any (fun b => b.1 == c.cbank.toNat) = false) (hh : o.hold (ctxOf s c i) s = none) :
    issue i o s = .next (finish (ctxOf s c i) o.cyc (o.run (ctxOf s c i) (started s c)) (started s c)) := by
  unfold issue
  rw [h.here]
  simp only
  unfold issueCrew
  have h1 : traceFirst s s.cur = s := by simp [traceFirst, crewAt_of s s.cur c h.here, h.untraced]
  have h2 : illegalFor i o c s = false := by
    unfold illegalFor
    rcases h.served with hs | hs <;> simp [h.wf, h.fits, hill, hs]
  have h3 : (o.priv && c.tdepth == 0 || o.privIf c s) = false := by
    rw [hq, Bool.or_false]
    cases hpp : o.priv
    · rfl
    · simpa using hp hpp
  have h4 : (if hazardOn c then hazardOf c (ctxOf s c i).id o.uses else none) = none := by
    split
    · next hz => exact h.hazard hz
    · rfl
  have h5 : (o.counts && atLimit c) = false := by
    cases hcc : o.counts
    · rfl
    · simp [hc hcc]
  have h6 : (acqHold s (ctxOf s c i).k && acqStops i) = false := by
    show (acqHold s s.cur && acqStops i) = false
    rcases h.acq with ha | ha <;> simp [ha]
  have h7 : (o.cbank && c.ldcBusy.any (fun b => b.1 == c.cbank.toNat)) = false := by
    cases hcb : o.cbank
    · rfl
    · simpa using hb hcb
  have h8 : blockedBy i o (ctxOf s c i) c s = none := by
    unfold blockedBy
    simp only [h5, h6, h7, Bool.false_eq_true, if_false, hh]
  have h9 : c.xir.isSome = false := by simp [h.whole]
  simp only [h2, h3, h4, h8, h9, h1, Bool.false_eq_true, if_false]
  rfl

/-- The trace writes nothing for a crew that is not traced. -/
theorem traceFlow_untraced (s : State) (k : Nat) (nx : BitVec 56) (m : Mask) (h : (crewAt s k).trace.traced = false) : traceFlow s k nx m = s := by
  simp [traceFlow, h]

@[simp] theorem sendLanes_trace (c : Crew) (m : Mask) (t : Nat → BitVec 56) : (sendLanes c m t).trace = c.trace := by
  unfold sendLanes reform
  dsimp only
  split <;> split <;> rfl

theorem mfind_started (s : State) (c : Crew) (hc : mfind s.crews s.cur = some c) : mfind (started s c).crews s.cur = some (unwait c) := by
  show mfind (updCrew s s.cur unwait).crews s.cur = _
  rw [mfind_updCrew]; simp [hc]

/-- An instruction that only updates its crew and goes on to the next. -/
theorem finish_done (s : State) (c : Crew) (x : Ctx) (cyc : Nat) (g : Crew → Crew) (s0 : State) (hx : x.k = s.cur)
    (hc : mfind s.crews s.cur = some c) (ht : (g (unwait c)).trace.traced = false) :
    OnlyCrew s (finish x cyc (.done (updCrew (started s c) x.k g)) s0) (settled s cyc (sendLanes (g (unwait c)) x.m (fun _ => x.nx))) := by
  have hs : mfind (started s c).crews s.cur = some (unwait c) := mfind_started s c hc
  have hk : (crewAt (updCrew (updCrew (started s c) x.k g) x.k (fun c => sendLanes c x.m (fun _ => x.nx))) x.k).trace.traced = false := by
    rw [crewAt_of _ _ (sendLanes (g (unwait c)) x.m (fun _ => x.nx))]
    · rw [sendLanes_trace]; exact ht
    · rw [updCrew_updCrew, mfind_updCrew, hx, hs]; simp
  have hf : finish x cyc (.done (updCrew (started s c) x.k g)) s0 =
      updCrew (started s c) s.cur (fun c => settled s cyc (sendLanes (g c) x.m (fun _ => x.nx))) := by
    show settle (traceFlow _ x.k x.nx x.m) x.k cyc = _
    rw [traceFlow_untraced _ _ _ _ hk, settle_eq, updCrew_updCrew, updCrew_updCrew, hx]
    rfl
  rw [hf]
  refine ⟨?_, ?_, rfl, fun a => rfl⟩
  · show mfind (updCrew (started s c) s.cur _).crews s.cur = _
    rw [mfind_updCrew, hs]; simp
  · intro k hk'
    show mfind (updCrew (started s c) s.cur _).crews k = _
    rw [mfind_updCrew, if_neg (Ne.symm hk')]
    show mfind (updCrew s s.cur unwait).crews k = _
    rw [mfind_updCrew, if_neg (Ne.symm hk')]

end Sys2Proof.Machine
end

