-- ==== Sys2Proof/Laws/Crew.lean ====
section
/-! SUPPORT. Laws of one crew: masks and lanes, the frontier (R161, R162), and its registers. -/

namespace Sys2Proof.Machine

/-! ## Masks -/

theorem bit_getLsbD (i L : Nat) (h : i < 32) : (bit i).getLsbD L = decide (i = L) := by
  unfold bit
  rw [BitVec.getLsbD_ofNat, Nat.testBit_two_pow]
  by_cases he : i = L
  · subst he; simp [h]
  · simp [he]

theorem maskFold_getLsbD (p : Nat → Bool) (l : List Nat) (hl : ∀ i ∈ l, i < 32) (m : Mask) (L : Nat) :
    (l.foldl (fun m i => if p i then m ||| bit i else m) m).getLsbD L = (m.getLsbD L || (decide (L ∈ l) && p L)) := by
  induction l generalizing m with
  | nil => simp
  | cons i r ih =>
    have hi : i < 32 := hl i List.mem_cons_self
    rw [List.foldl_cons, ih (fun j hj => hl j (List.mem_cons_of_mem _ hj))]
    by_cases hp : p i
    · simp only [hp, if_true, BitVec.getLsbD_or, bit_getLsbD i L hi]
      by_cases he : i = L
      · subst he; simp [hp]
      · simp [he, Ne.symm he]
    · simp only [hp]
      by_cases he : i = L
      · subst he; simp [hp]
      · simp [Ne.symm he]

/-- The lanes of a mask made of a predicate. -/
@[simp] theorem maskOf_getLsbD (p : Nat → Bool) (L : Nat) : (maskOf p).getLsbD L = (decide (L < 32) && p L) := by
  unfold maskOf
  rw [maskFold_getLsbD p _ (fun i hi => List.mem_range.mp hi)]
  simp

theorem mask_eq_zero (m : Mask) (h : ∀ L, L < 32 → m.getLsbD L = false) : m = 0 := by
  apply BitVec.eq_of_getLsbD_eq
  intro i hi
  simp [h i hi]

@[simp] theorem mem_lanes (m : Mask) (L : Nat) : L ∈ lanes m ↔ L < 32 ∧ m.getLsbD L = true := by
  simp [lanes]

/-! ## The frontier -/

@[simp] theorem frGet_frSet (m : Map LaneEntry) (L : Nat) (e : LaneEntry) (j : Nat) : frGet (frSet m L e) j = if L = j then e else frGet m j :=
  mget_mset _ m L e j

theorem frGet_fold (l : List Nat) (e : Nat → LaneEntry) (m : Map LaneEntry) (j : Nat) :
    frGet (l.foldl (fun fr L => frSet fr L (e L)) m) j = if j ∈ l then e j else frGet m j := by
  induction l generalizing m with
  | nil => simp
  | cons i r ih =>
    rw [List.foldl_cons, ih]
    by_cases hr : j ∈ r
    · simp [hr]
    · by_cases he : i = j
      · subst he; simp [hr]
      · simp [hr, he, Ne.symm he]

/-- Forming the next split leaves the frontier alone while some lane is LIVE. -/
theorem reform_fr (c : Crew) (h : lanesIn c.fr .live ≠ 0) : (reform c).fr = c.fr := by
  unfold reform
  have h1 : (lanesIn c.fr .live == 0 && lanesIn c.fr .held != 0) = false := by rw [beq_eq_false_iff_ne.mpr h]; rfl
  simp only [h1, Bool.false_eq_true, if_false]
  split <;> rfl

/-- `least` finds an entry of the list with the least key. -/
theorem least_spec {α : Type} (key : α → Nat) (l : List α) :
    match least key l with
    | none => l = []
    | some x => x ∈ l ∧ ∀ y ∈ l, key x ≤ key y := by
  induction l with
  | nil => rfl
  | cons a r ih =>
    unfold least
    cases h : least key r with
    | none => rw [h] at ih; subst ih; simp
    | some y =>
      rw [h] at ih
      obtain ⟨hy, hle⟩ := ih
      by_cases hk : key y < key a
      · simp only [hk, if_true]
        refine ⟨List.mem_cons_of_mem _ hy, fun z hz => ?_⟩
        rcases List.mem_cons.mp hz with rfl | hz
        · omega
        · exact hle z hz
      · simp only [hk, if_false]
        refine ⟨List.mem_cons_self, fun z hz => ?_⟩
        rcases List.mem_cons.mp hz with rfl | hz
        · omega
        · have := hle z hz; omega

theorem lanesIn_getLsbD (m : Map LaneEntry) (st : LaneState) (L : Nat) : (lanesIn m st).getLsbD L = (decide (L < 32) && (frGet m L).st == st) := by
  unfold lanesIn; rw [maskOf_getLsbD]

/-- A crew with a LIVE lane stands, after `reform`, at the split that its frontier forms (R162). -/
theorem atSplit_reform (c : Crew) (h : lanesIn c.fr .live ≠ 0) : AtSplit (reform c) := by
  have hl : ∀ L, L ∈ lanes (lanesIn c.fr .live) ↔ L < 32 ∧ (frGet c.fr L).st = .live := by
    intro L; rw [mem_lanes, lanesIn_getLsbD]; simp
  have hfr := reform_fr c h
  unfold AtSplit LiveAt
  rw [hfr]
  have e : reform c = match least (fun L => (frGet c.fr L).resume.toNat) (lanes (lanesIn c.fr .live)) with
      | none => { c with exm := 0 }
      | some L => { c with pc := (frGet c.fr L).resume, exm := maskOf (fun K => (frGet c.fr K).st == .live && (frGet c.fr K).resume == (frGet c.fr L).resume) } := by
    unfold reform
    have h1 : (lanesIn c.fr .live == 0 && lanesIn c.fr .held != 0) = false := by rw [beq_eq_false_iff_ne.mpr h]; rfl
    simp only [h1, Bool.false_eq_true, if_false] <;> (split <;> simp_all)
  have hs := least_spec (fun L => (frGet c.fr L).resume.toNat) (lanes (lanesIn c.fr .live))
  rw [e]
  cases hm : least (fun L => (frGet c.fr L).resume.toNat) (lanes (lanesIn c.fr .live)) with
  | none =>
    rw [hm] at hs
    exact absurd (mask_eq_zero _ (fun L hL => by
      cases hb : (lanesIn c.fr .live).getLsbD L
      · rfl
      · have : L ∈ lanes (lanesIn c.fr .live) := (mem_lanes _ _).mpr ⟨hL, hb⟩
        rw [hs] at this; exact absurd this (List.not_mem_nil))) h
  | some L =>
    rw [hm] at hs
    obtain ⟨hm1, hm2⟩ := hs
    have hL := (hl L).mp hm1
    refine ⟨⟨L, hL.1, ?_⟩, ?_, ?_⟩
    · show frGet c.fr L = { st := .live, resume := (frGet c.fr L).resume }
      rw [← hL.2]
    · rintro K a ⟨hK, ha⟩
      have : K ∈ lanes (lanesIn c.fr .live) := (hl K).mpr ⟨hK, by rw [ha]⟩
      have := hm2 K this
      rw [ha] at this
      exact this
    · intro K hK
      simp only [maskOf_getLsbD, hK, decide_true, Bool.true_and, Bool.and_eq_true, beq_iff_eq, true_and]
      constructor
      · rintro ⟨h1, h2⟩
        rw [← h1, ← h2]
      · intro h1
        rw [h1]; exact ⟨rfl, rfl⟩

theorem atSplit_congr {c d : Crew} (h : AtSplit c) (h1 : d.fr = c.fr) (h2 : d.pc = c.pc) (h3 : d.exm = c.exm) : AtSplit d := by
  obtain ⟨⟨L, hL⟩, h5, h6⟩ := h
  unfold LiveAt at *
  refine ⟨⟨L, ?_⟩, fun K a hK => ?_, fun K hK => ?_⟩
  · unfold LiveAt; rw [h1, h2]; exact hL
  · unfold LiveAt at hK; rw [h1] at hK; rw [h2]; exact h5 K a hK
  · unfold LiveAt; rw [h1, h2, h3]; exact h6 K hK

theorem live_ne_zero (c : Crew) (m : Mask) (t : Nat → BitVec 56) (hm : m ≠ 0) :
    lanesIn ((lanes m).foldl (fun fr L => frSet fr L { st := .live, resume := t L }) c.fr) .live ≠ 0 := by
  intro h0
  apply hm
  apply mask_eq_zero
  intro i hi
  have : (lanesIn ((lanes m).foldl (fun fr L => frSet fr L { st := .live, resume := t L }) c.fr) .live).getLsbD i = false := by
    rw [h0]; simp
  unfold lanesIn at this
  rw [maskOf_getLsbD, frGet_fold] at this
  cases hb : m.getLsbD i
  · rfl
  · simp [hi, hb] at this

/-- After an instruction each lane it acted for is LIVE at its target, and every other lane is as before (R162). -/
theorem frGet_sendLanes (c : Crew) (m : Mask) (t : Nat → BitVec 56) (hm : m ≠ 0) (L : Nat) (hL : L < 32) :
    frGet (sendLanes c m t).fr L = if m.getLsbD L then { st := .live, resume := t L } else frGet c.fr L := by
  have h := live_ne_zero c m t hm
  have e := frGet_fold (lanes m) (fun L => { st := .live, resume := t L }) c.fr L
  unfold sendLanes
  generalize (lanes m).foldl (fun fr L => frSet fr L { st := .live, resume := t L }) c.fr = fr at h e ⊢
  rw [reform_fr { c with fr := fr } h]
  show frGet fr L = _
  rw [e]
  simp [hL]

/-- After an instruction the crew stands at the split that its lanes form. -/
theorem atSplit_sendLanes (c : Crew) (m : Mask) (t : Nat → BitVec 56) (hm : m ≠ 0) : AtSplit (sendLanes c m t) := by
  have h := live_ne_zero c m t hm
  unfold sendLanes
  generalize (lanes m).foldl (fun fr L => frSet fr L { st := .live, resume := t L }) c.fr = fr at h ⊢
  exact atSplit_reform { c with fr := fr } h

/-- `reform` changes the frontier and the split alone. -/
theorem reform_frame (c : Crew) : reform c = { c with fr := (reform c).fr, pc := (reform c).pc, exm := (reform c).exm } := by
  unfold reform
  dsimp only
  split <;> split <;> rfl

theorem sendLanes_frame (c : Crew) (m : Mask) (t : Nat → BitVec 56) :
    sendLanes c m t = { c with fr := (sendLanes c m t).fr, pc := (sendLanes c m t).pc, exm := (sendLanes c m t).exm } := by
  unfold sendLanes
  exact reform_frame _

theorem drained_frame (c : Crew) : drained c = { c with markerWait := (drained c).markerWait, held := (drained c).held } := by
  unfold drained
  split <;> rfl

/-- `settle` changes the marker wait, the held faults, the number, the clocks of this issue and the next, and the step. -/
theorem settled_frame (s : State) (cyc : Nat) (c : Crew) : settled s cyc c =
    { c with markerWait := (settled s cyc c).markerWait, held := (settled s cyc c).held, seq := c.seq + 1, readySince := (settled s cyc c).readySince, issuedAt := (settled s cyc c).issuedAt, stepping := (settled s cyc c).stepping } := by
  unfold settled numbered heldSlot
  split
  · rw [drained_frame]
  · rfl

/-! ## Registers -/

theorem contend_frame (c : Crew) (f : RegFile) (r L : Nat) : contend c f r L = { c with pend := (contend c f r L).pend } := by
  unfold contend
  split <;> rfl

/-- What a lane of a vector register reads after a write. -/
theorem vget_vset (c : Crew) (r L : Nat) (x : Word) (r' L' : Nat) (hL : L < 32) (hL' : L' < 32) :
    vget (vset c r L x) r' L' = if r = r' ∧ L = L' then x else vget c r' L' := by
  unfold vget vset
  dsimp only
  rw [mget_mset]
  have : (contend c .vector r L).v = c.v := by rw [contend_frame]
  rw [this]
  by_cases h : r = r' ∧ L = L'
  · obtain ⟨rfl, rfl⟩ := h; simp
  · rw [if_neg h, if_neg (by omega)]

theorem vset_frame (c : Crew) (r L : Nat) (x : Word) : vset c r L x = { c with v := (vset c r L x).v, pend := (vset c r L x).pend } := by
  unfold vset
  dsimp only
  rw [contend_frame]

/-- What a scalar register reads after a write. -/
theorem sget_sset (c : Crew) (r : Nat) (x : Word) (r' : Nat) : sget (sset c r x) r' = if r = r' then x else sget c r' := by
  unfold sget sset
  dsimp only
  rw [mget_mset]
  have : (contend c .scalar r 0).sreg = c.sreg := by rw [contend_frame]
  rw [this]

theorem sset_frame (c : Crew) (r : Nat) (x : Word) : sset c r x = { c with sreg := (sset c r x).sreg, pend := (sset c r x).pend } := by
  unfold sset
  dsimp only
  rw [contend_frame]

theorem putRegs_frame (ws : List Word) (c : Crew) (r L : Nat) : putRegs c r L ws = { c with v := (putRegs c r L ws).v, pend := (putRegs c r L ws).pend } := by
  induction ws generalizing c r with
  | nil => rfl
  | cons w ws ih =>
    rw [putRegs, ih, vset_frame]

/-- Consecutive registers written in a lane. -/
theorem vget_putRegs (ws : List Word) (c : Crew) (r L r' L' : Nat) (hL : L < 32) (hL' : L' < 32) :
    vget (putRegs c r L ws) r' L' = if L = L' ∧ r ≤ r' ∧ r' < r + ws.length then ws.getD (r' - r) 0 else vget c r' L' := by
  induction ws generalizing c r with
  | nil => simp [putRegs]
  | cons w ws ih =>
    rw [putRegs, ih, vget_vset _ _ _ _ _ _ hL hL']
    by_cases h1 : L = L' ∧ r + 1 ≤ r' ∧ r' < r + 1 + ws.length
    · rw [if_pos h1, if_pos (by simp; omega)]
      have : r' - r = (r' - (r + 1)) + 1 := by omega
      rw [this]; simp
    · rw [if_neg h1]
      by_cases h2 : r = r' ∧ L = L'
      · obtain ⟨rfl, rfl⟩ := h2
        rw [if_pos ⟨rfl, rfl⟩, if_pos (by simp)]
        simp
      · rw [if_neg h2, if_neg]
        simp; omega

theorem raiseFlags_frame (c : Crew) (L : Nat) (w : Word) : raiseFlags c L w = { c with fflags := (raiseFlags c L w).fflags } := by
  unfold raiseFlags
  split <;> rfl

/-- Flags raised in a lane are or'ed in, and those of other lanes stay (R66). -/
theorem flagsOf_raiseFlags (c : Crew) (L : Nat) (w : Word) (j : Nat) :
    flagsOf (raiseFlags c L w) j = if L = j then flagsOf c j ||| (w &&& 0x1F) else flagsOf c j := by
  unfold raiseFlags
  by_cases h : w = 0
  · subst h; simp
  · have : (w == 0) = false := beq_eq_false_iff_ne.mpr h
    simp only [this, Bool.false_eq_true, if_false]
    unfold flagsOf
    dsimp only
    rw [mget_mset]
    split
    · subst_vars; rfl
    · rfl

/-- The registers and flags that a per-lane instruction writes, lane by lane. -/
def writeLanes (ls : List Nat) (d : Nat) (g : Nat → List Word × Word) (c : Crew) : Crew :=
  ls.foldl (fun c L => raiseFlags (putRegs c d L (g L).1) L (g L).2) c

theorem writeLanes_frame (ls : List Nat) (d : Nat) (g : Nat → List Word × Word) (c : Crew) :
    writeLanes ls d g c = { c with v := (writeLanes ls d g c).v, pend := (writeLanes ls d g c).pend, fflags := (writeLanes ls d g c).fflags } := by
  unfold writeLanes
  induction ls generalizing c with
  | nil => rfl
  | cons i r ih =>
    rw [List.foldl_cons, ih, raiseFlags_frame, putRegs_frame]

theorem vget_raiseFlags (c : Crew) (L : Nat) (w : Word) (r j : Nat) : vget (raiseFlags c L w) r j = vget c r j := by
  rw [raiseFlags_frame]; rfl

theorem flagsOf_putRegs (ws : List Word) (c : Crew) (r L j : Nat) : flagsOf (putRegs c r L ws) j = flagsOf c j := by
  rw [putRegs_frame]; rfl

theorem vget_writeLanes (ls : List Nat) (hn : ls.Nodup) (hl : ∀ L ∈ ls, L < 32) (d : Nat) (g : Nat → List Word × Word) (c : Crew) (r L : Nat) (hL : L < 32) :
    vget (writeLanes ls d g c) r L = if L ∈ ls ∧ d ≤ r ∧ r < d + (g L).1.length then (g L).1.getD (r - d) 0 else vget c r L := by
  unfold writeLanes
  induction ls generalizing c with
  | nil => simp
  | cons i t ih =>
    have hi : i < 32 := hl i List.mem_cons_self
    rw [List.foldl_cons, ih (List.nodup_cons.mp hn).2 (fun j hj => hl j (List.mem_cons_of_mem _ hj)), vget_raiseFlags, vget_putRegs _ _ _ _ _ _ hi hL]
    by_cases hm : L ∈ t
    · have hne : i ≠ L := fun e => (List.nodup_cons.mp hn).1 (e ▸ hm)
      simp [hm, hne]
    · by_cases he : i = L
      · subst he; simp [hm]
      · simp [hm, he, Ne.symm he]

theorem flagsOf_writeLanes (ls : List Nat) (hn : ls.Nodup) (d : Nat) (g : Nat → List Word × Word) (c : Crew) (L : Nat) :
    flagsOf (writeLanes ls d g c) L = if L ∈ ls then flagsOf c L ||| ((g L).2 &&& 0x1F) else flagsOf c L := by
  unfold writeLanes
  induction ls generalizing c with
  | nil => simp
  | cons i t ih =>
    rw [List.foldl_cons, ih (List.nodup_cons.mp hn).2, flagsOf_raiseFlags, flagsOf_putRegs]
    by_cases hm : L ∈ t
    · have hne : i ≠ L := fun e => (List.nodup_cons.mp hn).1 (e ▸ hm)
      simp [hm, hne]
    · by_cases he : i = L
      · subst he; simp [hm]
      · simp [hm, he, Ne.symm he]

theorem lanes_nodup (m : Mask) : (lanes m).Nodup := List.Nodup.filter _ List.nodup_range
theorem lanes_lt (m : Mask) : ∀ L ∈ lanes m, L < 32 := fun L h => ((mem_lanes m L).mp h).1

end Sys2Proof.Machine
end

