-- ==== Sys2Proof/Laws/Lane.lean ====
section
/-! SUPPORT. What the shared forms of the arithmetic instructions come to: per-lane, cross-lane and scalar-destination instructions. -/

namespace Sys2Proof.Machine

/-- `c` with its waits ended and these registers. -/
def regsOf (c : Crew) (v sr ff : Map Word) (pd : List Pend) : Crew := { unwait c with v := v, sreg := sr, fflags := ff, pend := pd }

/-- A crew of which an instruction has changed only registers, settled after its lanes went on. -/
theorem settled_regs (s : State) (cyc : Nat) (c : Crew) (v sr ff : Map Word) (pd : List Pend) (m : Mask) (t : Nat → BitVec 56) :
    ∃ w : Moved, settled s cyc (sendLanes (regsOf c v sr ff pd) m t) = { after c w with v := v, sreg := sr, fflags := ff } ∧
      w.fr = (sendLanes (regsOf c v sr ff pd) m t).fr ∧ w.pc = (sendLanes (regsOf c v sr ff pd) m t).pc ∧ w.exm = (sendLanes (regsOf c v sr ff pd) m t).exm := by
  obtain ⟨fr, pc, exm, e⟩ : ∃ fr pc exm, sendLanes (regsOf c v sr ff pd) m t = { regsOf c v sr ff pd with fr := fr, pc := pc, exm := exm } :=
    ⟨_, _, _, sendLanes_frame _ m t⟩
  rw [e]
  obtain ⟨mw, h, rs, is, st, e2⟩ : ∃ mw h rs is st, settled s cyc { regsOf c v sr ff pd with fr := fr, pc := pc, exm := exm } =
      { regsOf c v sr ff pd with fr := fr, pc := pc, exm := exm, markerWait := mw, held := h, seq := c.seq + 1, readySince := rs, issuedAt := is, stepping := st } :=
    ⟨_, _, _, _, _, settled_frame s cyc _⟩
  rw [e2]
  exact ⟨⟨fr, pc, exm, pd, h, mw, rs, is, st⟩, rfl, rfl, rfl, rfl⟩

theorem frGet_settled (s : State) (cyc : Nat) (c : Crew) (L : Nat) : frGet (settled s cyc c).fr L = frGet c.fr L := by
  rw [settled_frame]

/-- An instruction that issues, updates registers of its crew with `g`, and goes on. -/
theorem issue_regs (i : Instr) (o : Core) (s : State) (c : Crew) (g : Crew → Crew) (h : Clear s c i o.uses) (hill : o.illop c s = false)
    (hp : o.priv = true → c.tdepth ≠ 0) (hq : o.privIf c s = false) (hc : o.counts = true → atLimit c = false)
    (hb : o.cbank = true → c.ldcBusy.any (fun b => b.1 == c.cbank.toNat) = false) (hh : o.hold (ctxOf s c i) s = none)
    (hr : o.run (ctxOf s c i) (started s c) = .done (updCrew (started s c) s.cur g))
    (v sr ff : Map Word) (pd : List Pend) (hg : g (unwait c) = regsOf c v sr ff pd) :
    ∃ t w, issue i o s = .next t ∧ OnlyCrew s t { after c w with v := v, sreg := sr, fflags := ff } ∧
      LanesGoTo c { after c w with v := v, sreg := sr, fflags := ff } (nextPc s c i) := by
  have hi := issue_clear i o s c h hill hp hq hc hb hh
  rw [hr] at hi
  have ht : (g (unwait c)).trace.traced = false := by rw [hg]; exact h.untraced
  have hf := finish_done s c (ctxOf s c i) o.cyc g (started s c) rfl h.here ht
  rw [hg] at hf
  obtain ⟨w, e, hw, hpc, hexm⟩ := settled_regs s o.cyc c v sr ff pd (ctxOf s c i).m (fun _ => (ctxOf s c i).nx)
  rw [e] at hf
  refine ⟨_, w, hi, hf, ?_, atSplit_congr (atSplit_sendLanes (regsOf c v sr ff pd) (ctxOf s c i).m (fun _ => (ctxOf s c i).nx) h.active) hw hpc hexm⟩
  intro L hL
  show frGet w.fr L = _
  rw [hw, frGet_sendLanes _ (ctxOf s c i).m _ h.active L hL]
  rfl

/-- A per-lane or cross-lane instruction whose run writes registers lane by lane. -/
theorem issue_lanes (i : Instr) (o : Core) (s : State) (c : Crew) (d : Nat) (g : Nat → List Word × Word) (h : Clear s c i o.uses)
    (hill : o.illop c s = false) (hp : o.priv = false) (hq : o.privIf c s = false) (hc : o.counts = false)
    (hb : o.cbank = true → c.ldcBusy.any (fun b => b.1 == c.cbank.toNat) = false) (hh : o.hold (ctxOf s c i) s = none)
    (hr : o.run (ctxOf s c i) (started s c) = .done (updCrew (started s c) s.cur (writeLanes (lanes c.exm) d g))) :
    ∃ t, issue i o s = .next t ∧ VectorResult s t c (nextPc s c i) d g := by
  obtain ⟨v, pd, ff, hg⟩ : ∃ v pd ff, writeLanes (lanes c.exm) d g (unwait c) = { unwait c with v := v, pend := pd, fflags := ff } :=
    ⟨_, _, _, writeLanes_frame (lanes c.exm) d g (unwait c)⟩
  obtain ⟨t, w, h1, h2, h3⟩ := issue_regs i o s c (writeLanes (lanes c.exm) d g) h hill (by simp [hp]) hq (by simp [hc]) hb hh hr v c.sreg ff pd hg
  refine ⟨t, h1, w, v, ff, h2, h3, ?_⟩
  intro L hL
  constructor
  · intro r
    have e := vget_writeLanes (lanes c.exm) (lanes_nodup _) (lanes_lt _) d g (unwait c) r L hL
    rw [hg] at e
    simp only [mem_lanes, hL, true_and] at e
    exact e
  · have e := flagsOf_writeLanes (lanes c.exm) (lanes_nodup _) d g (unwait c) L
    rw [hg] at e
    simp only [mem_lanes, hL, true_and] at e
    exact e

/-- A per-lane T instruction. -/
theorem issue_laneCore (i : Instr) (f : TF) (n1 n2 nd : Nat) (d3 : Bool) (cyc : Nat) (g : Crew → Nat → List Word × Word) (s : State) (c : Crew)
    (h : Clear s c i (tUses f n1 n2 nd d3)) (hb : BankIdle c f) (ho : oddConst f.k1 f.s1 n1 = false) (ho2 : oddConst f.k2 f.s2 n2 = false) :
    ∃ t, issue i (laneCore f n1 n2 nd d3 cyc g) s = .next t ∧ VectorResult s t c (nextPc s c i) f.d.toNat (g (seen s c)) :=
  issue_lanes i (laneCore f n1 n2 nd d3 cyc g) s c f.d.toNat (g (seen s c)) h (by simp [laneCore, ho, ho2]) rfl rfl rfl
    (fun hk => hb (by simpa [laneCore] using hk)) rfl rfl

/-- A cross-lane T instruction. -/
theorem issue_crossCore (i : Instr) (f : TF) (n2 nd cyc : Nat) (g : Crew → Mask → Nat → List Word × Word) (s : State) (c : Crew) (bad : Bool)
    (h : Clear s c i (tUses f 1 n2 nd false)) (hb : BankIdle c f) (hbad : bad = false) :
    ∃ t, issue i (crossCore f n2 nd cyc bad g) s = .next t ∧ VectorResult s t c (nextPc s c i) f.d.toNat (g (seen s c) c.exm) :=
  issue_lanes i (crossCore f n2 nd cyc bad g) s c f.d.toNat (g (seen s c) c.exm) h (by simpa [crossCore] using hbad) rfl rfl rfl
    (fun hk => hb (by simpa [crossCore] using hk)) rfl rfl

theorem raiseFold_frame (ls : List Nat) (fl : Nat → Word) (c : Crew) :
    ls.foldl (fun c L => raiseFlags c L (fl L)) c = { c with fflags := (ls.foldl (fun c L => raiseFlags c L (fl L)) c).fflags } := by
  induction ls generalizing c with
  | nil => rfl
  | cons i r ih => rw [List.foldl_cons, ih, raiseFlags_frame]

theorem flagsOf_raiseFold (ls : List Nat) (hn : ls.Nodup) (fl : Nat → Word) (c : Crew) (L : Nat) :
    flagsOf (ls.foldl (fun c L => raiseFlags c L (fl L)) c) L = if L ∈ ls then flagsOf c L ||| (fl L &&& 0x1F) else flagsOf c L := by
  induction ls generalizing c with
  | nil => simp
  | cons i t ih =>
    rw [List.foldl_cons, ih (List.nodup_cons.mp hn).2, flagsOf_raiseFlags]
    by_cases hm : L ∈ t
    · have hne : i ≠ L := fun e => (List.nodup_cons.mp hn).1 (e ▸ hm)
      simp [hm, hne]
    · by_cases he : i = L
      · subst he; simp [hm]
      · simp [hm, he, Ne.symm he]

/-- A T instruction with a scalar destination. -/
theorem issue_scalarCore (i : Instr) (f : TF) (n2 : Nat) (g : Crew → Mask → Word) (fl : Crew → Nat → Word) (s : State) (c : Crew)
    (h : Clear s c i (tUsesS f n2)) (hb : BankIdle c f) :
    ∃ t, issue i (scalarCore f n2 g fl) s = .next t ∧ ScalarResult s t c (nextPc s c i) f.d.toNat (g (seen s c) c.exm) (fl (seen s c)) := by
  let u : Crew → Crew := fun c1 => sset ((lanes c.exm).foldl (fun c1 L => raiseFlags c1 L (fl (seen s c) L)) c1) f.d.toNat (g (seen s c) c.exm)
  obtain ⟨ff, h0⟩ : ∃ ff, (lanes c.exm).foldl (fun c1 L => raiseFlags c1 L (fl (seen s c) L)) (unwait c) = { unwait c with fflags := ff } :=
    ⟨_, raiseFold_frame _ _ _⟩
  have hs : ∃ sr pd, u (unwait c) = { unwait c with fflags := ff, sreg := sr, pend := pd } ∧
      ∀ r, mget 0 sr r = if r = f.d.toNat then g (seen s c) c.exm else sget c r := by
    have hu : u (unwait c) = sset { unwait c with fflags := ff } f.d.toNat (g (seen s c) c.exm) := by
      show sset _ _ _ = _
      rw [h0]
    refine ⟨_, _, hu.trans (sset_frame _ _ _), ?_⟩
    intro r
    show sget (sset _ _ _) r = _
    rw [sget_sset]
    by_cases hr : r = f.d.toNat
    · simp [hr]
    · rw [if_neg hr, if_neg (fun e => hr e.symm)]; rfl
  obtain ⟨sr, pd, hg, hsr⟩ := hs
  obtain ⟨t, w, h1, h2, h3⟩ := issue_regs i (scalarCore f n2 g fl) s c u h rfl (by simp [scalarCore]) rfl (by simp [scalarCore])
    (fun hk => hb (by simpa [scalarCore] using hk)) rfl rfl c.v sr ff pd hg
  refine ⟨t, h1, w, sr, ff, h2, h3, hsr, ?_⟩
  intro L hL
  have e := flagsOf_raiseFold (lanes c.exm) (lanes_nodup _) (fl (seen s c)) (unwait c) L
  rw [h0] at e
  simp only [mem_lanes, hL, true_and] at e
  exact e

/-- Only the words and flags of the active lanes matter. -/
theorem vectorResult_congr {s t : State} {c : Crew} {nx : BitVec 56} {d : Nat} {g g' : Nat → List Word × Word} (h : VectorResult s t c nx d g)
    (hg : ∀ L, L < 32 → c.exm.getLsbD L = true → g L = g' L) : VectorResult s t c nx d g' := by
  obtain ⟨w, v, ff, h1, h2, h3⟩ := h
  refine ⟨w, v, ff, h1, h2, fun L hL => ?_⟩
  have := h3 L hL
  by_cases hb : c.exm.getLsbD L = true
  · rw [← hg L hL hb]; exact this
  · simp only [hb] at this ⊢; simpa using this

theorem oddConst_one (k : BitVec 2) (x : BitVec 6) : oddConst k x 1 = false := by simp [oddConst]
theorem oddConst_zero (k : BitVec 2) (x : BitVec 6) : oddConst k x 0 = false := by simp [oddConst]

/-- An instruction whose meaning is a per-lane form. -/
theorem exec_laneCore {i : Instr} {f : TF} {s : State} {c : Crew} {n1 n2 nd : Nat} {d3 : Bool} {cyc : Nat} {g : Crew → Nat → List Word × Word}
    (g' : Nat → List Word × Word) (he : exec i s = issue i (laneCore f n1 n2 nd d3 cyc g) s)
    (h : Clear s c i (tUses f n1 n2 nd d3)) (hb : BankIdle c f) (ho : oddConst f.k1 f.s1 n1 = false) (ho2 : oddConst f.k2 f.s2 n2 = false)
    (hg : ∀ L, L < 32 → c.exm.getLsbD L = true → g (seen s c) L = g' L) :
    ∃ t, exec i s = .next t ∧ VectorResult s t c (nextPc s c i) f.d.toNat g' := by
  obtain ⟨t, h1, h2⟩ := issue_laneCore i f n1 n2 nd d3 cyc g s c h hb ho ho2
  exact ⟨t, he.trans h1, vectorResult_congr h2 hg⟩

/-- An instruction whose meaning is a cross-lane form. -/
theorem exec_crossCore {i : Instr} {f : TF} {s : State} {c : Crew} {n2 nd : Nat} {cyc : Nat} {bad : Bool} {g : Crew → Mask → Nat → List Word × Word}
    (g' : Nat → List Word × Word) (he : exec i s = issue i (crossCore f n2 nd cyc bad g) s)
    (h : Clear s c i (tUses f 1 n2 nd false)) (hb : BankIdle c f) (hbad : bad = false)
    (hg : ∀ L, L < 32 → c.exm.getLsbD L = true → g (seen s c) c.exm L = g' L) :
    ∃ t, exec i s = .next t ∧ VectorResult s t c (nextPc s c i) f.d.toNat g' := by
  obtain ⟨t, h1, h2⟩ := issue_crossCore i f n2 nd cyc g s c bad h hb hbad
  exact ⟨t, he.trans h1, vectorResult_congr h2 hg⟩

/-- An instruction whose meaning is a form with a scalar destination. -/
theorem exec_scalarCore {i : Instr} {f : TF} {s : State} {c : Crew} {n2 : Nat} {g : Crew → Mask → Word} {fl : Crew → Nat → Word}
    (he : exec i s = issue i (scalarCore f n2 g fl) s) (h : Clear s c i (tUsesS f n2)) (hb : BankIdle c f) :
    ∃ t, exec i s = .next t ∧ ScalarResult s t c (nextPc s c i) f.d.toNat (g (seen s c) c.exm) (fl (seen s c)) := by
  obtain ⟨t, h1, h2⟩ := issue_scalarCore i f n2 g fl s c h hb
  exact ⟨t, he.trans h1, h2⟩

end Sys2Proof.Machine
end

