-- ==== Sys2Proof/Laws/Memory.lean ====
section
/-! SUPPORT. Laws of memory: every operation keeps the canonical form, a read after a write gives what was written, and a write leaves every
other address alone. -/

namespace Sys2Proof.Machine

theorem Memory.wf_empty : Memory.wf [] = true := rfl

theorem Memory.wf_write (m : Map Byte) (a : Nat) (b : Byte) (h : Memory.wf m = true) : Memory.wf (Memory.write m a b) = true :=
  mcanon_mset _ m a b h

theorem Memory.wf_writes (m : Map Byte) (a : Nat) (bs : List Byte) (h : Memory.wf m = true) : Memory.wf (Memory.writes m a bs) = true := by
  induction bs generalizing m a with
  | nil => exact h
  | cons b r ih => exact ih _ _ (Memory.wf_write m a b h)

@[simp] theorem Memory.read_write (m : Map Byte) (a : Nat) (b : Byte) (j : Nat) :
    Memory.read (Memory.write m a b) j = if a = j then b else Memory.read m j := mget_mset _ m a b j

/-- A write of bytes: what each address reads as afterwards. -/
theorem Memory.read_writes (m : Map Byte) (a : Nat) (bs : List Byte) (j : Nat) :
    Memory.read (Memory.writes m a bs) j = if a ≤ j ∧ j < a + bs.length then bs.getD (j - a) 0 else Memory.read m j := by
  induction bs generalizing m a with
  | nil => simp [Memory.writes]
  | cons b r ih =>
    rw [Memory.writes, ih, Memory.read_write]
    by_cases h : a = j
    · subst h; simp
    · by_cases h2 : a + 1 ≤ j ∧ j < a + 1 + r.length
      · have h3 : a ≤ j ∧ j < a + (b :: r).length := by simp; omega
        rw [if_pos h2, if_pos h3]
        have : j - a = (j - (a + 1)) + 1 := by omega
        rw [this]; simp
      · have h3 : ¬(a ≤ j ∧ j < a + (b :: r).length) := by simp; omega
        rw [if_neg h2, if_neg h3, if_neg h]

/-- A write leaves every address outside it alone. -/
theorem Memory.read_writes_outside (m : Map Byte) (a : Nat) (bs : List Byte) (j : Nat) (h : j < a ∨ a + bs.length ≤ j) :
    Memory.read (Memory.writes m a bs) j = Memory.read m j := by
  rw [Memory.read_writes, if_neg (by omega)]

/-- Reading back the bytes written. -/
theorem Memory.bytes_writes (m : Map Byte) (a : Nat) (bs : List Byte) : Memory.bytes (Memory.writes m a bs) a bs.length = bs := by
  apply List.ext_getElem
  · simp [Memory.bytes]
  · intro i h1 h2
    simp [Memory.bytes, Memory.read_writes]
    rw [if_pos h2, List.getElem?_eq_getElem h2]; rfl

/-- Reading bytes that a write does not touch. -/
theorem Memory.bytes_writes_outside (m : Map Byte) (a : Nat) (bs : List Byte) (b n : Nat) (h : b + n ≤ a ∨ a + bs.length ≤ b) :
    Memory.bytes (Memory.writes m a bs) b n = Memory.bytes m b n := by
  unfold Memory.bytes
  apply List.map_congr_left
  intro k hk
  rw [List.mem_range] at hk
  exact Memory.read_writes_outside m a bs (b + k) (by omega)

/-- Physical writes keep the canonical form of memory. -/
theorem wrB_wf (s : State) (pa : Nat) (bs : List Byte) (h : Memory.wf s.mem = true) : Memory.wf (wrB s pa bs).mem = true :=
  Memory.wf_writes s.mem pa bs h

theorem wrN_wf (s : State) (pa n x : Nat) (h : Memory.wf s.mem = true) : Memory.wf (wrN s pa n x).mem = true :=
  wrB_wf s pa (natBytes n x) h

theorem natBytes_length (n x : Nat) : (natBytes n x).length = n := by
  induction n generalizing x with
  | zero => rfl
  | succ n ih => simp [natBytes, ih]

/-- The bytes of a number give the number back. -/
theorem bytesNat_natBytes (n x : Nat) : bytesNat (natBytes n x) = x % 256 ^ n := by
  induction n generalizing x with
  | zero => simp [natBytes, bytesNat, Nat.mod_one]
  | succ n ih =>
    simp only [natBytes, bytesNat, ih, BitVec.toNat_ofNat]
    have : (256 : Nat) ^ (n + 1) = 256 * 256 ^ n := by rw [Nat.pow_succ, Nat.mul_comm]
    rw [this, Nat.mod_mul]

/-- A number written to memory reads back. -/
theorem rdN_wrN (s : State) (pa n x : Nat) : rdN (wrN s pa n x) pa n = x % 256 ^ n := by
  have h := Memory.bytes_writes s.mem pa (natBytes n x)
  rw [natBytes_length] at h
  unfold rdN rdB wrN wrB
  rw [h, bytesNat_natBytes]

end Sys2Proof.Machine
end

