-- ==== Sys2Proof/Laws/Run.lean ====
section
/-! SUPPORT. What an instruction comes to whose effect leaves a state `S1`: its crew has gone on, and the rest is `S1`. -/

namespace Sys2Proof.Machine

/-- A crew whose lanes went on, settled. -/
theorem settled_sent (s : State) (cyc : Nat) (c1 : Crew) (m : Mask) (t : Nat → BitVec 56) :
    ∃ fr pc exm mw h rs is st, settled s cyc (sendLanes c1 m t) =
        { c1 with fr := fr, pc := pc, exm := exm, markerWait := mw, held := h, seq := c1.seq + 1, readySince := rs, issuedAt := is, stepping := st } ∧
      fr = (sendLanes c1 m t).fr ∧ pc = (sendLanes c1 m t).pc ∧ exm = (sendLanes c1 m t).exm := by
  rw [settled_frame, sendLanes_frame]
  exact ⟨_, _, _, _, _, _, _, _, rfl, rfl, rfl, rfl⟩

theorem crewAt_upd (s : State) (k : Nat) (c : Crew) (g : Crew → Crew) (h : mfind s.crews k = some c) : crewAt (updCrew s k g) k = g c := by
  apply crewAt_of; rw [mfind_updCrew]; simp [h]

/-- The end of an instruction whose effect left `S1` and whose lanes go to `t`. -/
theorem finish_go (x : Ctx) (cyc : Nat) (s0 S1 : State) (c1 : Crew) (t : Nat → BitVec 56) (h1 : mfind S1.crews x.k = some c1) (ht : c1.trace.traced = false) :
    finish x cyc (.goto S1 t) s0 = updCrew S1 x.k (fun c => settled S1 cyc (sendLanes c x.m t)) := by
  have hk : (crewAt (updCrew S1 x.k (fun c => sendLanes c x.m t)) x.k).trace.traced = false := by
    rw [crewAt_upd _ _ _ _ h1, sendLanes_trace]; exact ht
  show settle (traceFlow _ x.k x.nx x.m) x.k cyc = _
  rw [traceFlow_untraced _ _ _ _ hk, settle_eq, updCrew_updCrew]
  rfl

/-- `.done` sends every lane to the next instruction. -/
theorem finish_done_goto (x : Ctx) (cyc : Nat) (s0 S1 : State) : finish x cyc (.done S1) s0 = finish x cyc (.goto S1 (fun _ => x.nx)) s0 := rfl

/-- What is left after an instruction whose effect left `S1` and whose lanes go to `t`, beside a state `S` that differs from `S1` in crews and free count alone. -/
theorem finish_frame (x : Ctx) (cyc : Nat) (s0 S S1 : State) (c c1 : Crew) (t : Nat → BitVec 56) (g : Crew → Crew) (pd : List Pend)
    (hx : x.k = S.cur) (hm : x.m = c.exm) (ha : c.exm ≠ 0) (h1 : mfind S1.crews x.k = some c1) (ht : c1.trace.traced = false) (hfr : c1.fr = c.fr)
    (hg : ∀ fr pc exm mw h rs is st, { c1 with fr := fr, pc := pc, exm := exm, markerWait := mw, held := h, seq := c1.seq + 1, readySince := rs, issuedAt := is, stepping := st } =
      g (after c ⟨fr, pc, exm, pd, h, mw, rs, is, st⟩))
    (hf : ∀ w, (g (after c w)).fr = w.fr ∧ (g (after c w)).pc = w.pc ∧ (g (after c w)).exm = w.exm)
    (ho : ∀ k, k ≠ S.cur → mfind S1.crews k = mfind S.crews k) (hr : S1 = { S with crews := S1.crews, free := S1.free }) :
    ∃ w : Moved, w.pend = pd ∧ OnlyCrew S (finish x cyc (.goto S1 t) s0) (g (after c w)) ∧ LanesGo c (g (after c w)) t := by
  rw [finish_go x cyc s0 S1 c1 t h1 ht]
  obtain ⟨fr, pc, exm, mw, h, rs, is, st, e, e1, e2, e3⟩ := settled_sent S1 cyc c1 x.m t
  refine ⟨⟨fr, pc, exm, pd, h, mw, rs, is, st⟩, rfl, ⟨?_, ?_, ?_, ?_⟩, ?_, ?_⟩
  · show mfind (updCrew S1 x.k _).crews S.cur = _
    rw [mfind_updCrew, if_pos hx, ← hx, h1, Option.map_some, e, hg]
  · intro k hk
    show mfind (updCrew S1 x.k _).crews k = _
    rw [mfind_updCrew, if_neg (by rw [hx]; exact fun e => hk e.symm)]
    exact ho k hk
  · generalize (fun c => settled S1 cyc (sendLanes c x.m t)) = u
    conv_lhs => rw [hr]
    rfl
  · intro a
    show Memory.read S1.mem a = _
    rw [hr]
  · intro L hL
    rw [(hf _).1]
    show frGet fr L = _
    rw [e1, frGet_sendLanes c1 x.m t (by rw [hm]; exact ha) L hL, hm, hfr]
  · exact atSplit_congr (atSplit_sendLanes c1 x.m t (by rw [hm]; exact ha)) ((hf _).1.trans e1) ((hf _).2.1.trans e2) ((hf _).2.2.trans e3)

/-- An instruction that nothing turns away and whose effect leaves `S1`: the crew has gone on, and all else is as in `S`. -/
theorem exec_goesOn {i : Instr} {o : Core} {s : State} {c : Crew} (S S1 : State) (c1 : Crew) (g : Crew → Crew) (pd : List Pend)
    (he : exec i s = issue i o s) (h : Clear s c i o.uses) (hill : o.illop c s = false)
    (hp : o.priv = true → c.tdepth ≠ 0) (hq : o.privIf c s = false) (hc : o.counts = true → atLimit c = false)
    (hb : o.cbank = true → c.ldcBusy.any (fun b => b.1 == c.cbank.toNat) = false) (hh : o.hold (ctxOf s c i) s = none)
    (hrun : o.run (ctxOf s c i) (started s c) = .done S1) (hcur : S.cur = s.cur)
    (h1 : mfind S1.crews s.cur = some c1) (ht : c1.trace.traced = false) (hfr : c1.fr = c.fr)
    (hg : ∀ fr pc exm mw h rs is st, { c1 with fr := fr, pc := pc, exm := exm, markerWait := mw, held := h, seq := c1.seq + 1, readySince := rs, issuedAt := is, stepping := st } =
      g (after c ⟨fr, pc, exm, pd, h, mw, rs, is, st⟩))
    (hf : ∀ w, (g (after c w)).fr = w.fr ∧ (g (after c w)).pc = w.pc ∧ (g (after c w)).exm = w.exm)
    (ho : ∀ k, k ≠ s.cur → mfind S1.crews k = mfind S.crews k) (hr : S1 = { S with crews := S1.crews, free := S1.free }) :
    ∃ t, exec i s = .next t ∧ GoesOn S t c (nextPc s c i) pd g := by
  have hi := issue_clear i o s c h hill hp hq hc hb hh
  rw [hrun, finish_done_goto] at hi
  refine ⟨_, he.trans hi, ?_⟩
  exact finish_frame (ctxOf s c i) o.cyc (started s c) S S1 c c1 _ g pd hcur.symm rfl h.active h1 ht hfr hg hf (by rw [hcur]; exact ho) hr

/-- The crews but the one in turn stand in `started` as they stood. -/
theorem started_others (s : State) (c : Crew) (k : Nat) (hk : k ≠ s.cur) : mfind (started s c).crews k = mfind s.crews k := by
  show mfind (updCrew s s.cur unwait).crews k = _
  rw [mfind_updCrew, if_neg (Ne.symm hk)]

/-- An instruction whose effect changes its crew alone, with `u`. -/
theorem exec_crewOnly {i : Instr} {o : Core} {s : State} {c : Crew} (u g : Crew → Crew) (pd : List Pend)
    (he : exec i s = issue i o s) (h : Clear s c i o.uses) (hill : o.illop c s = false)
    (hp : o.priv = true → c.tdepth ≠ 0) (hq : o.privIf c s = false) (hc : o.counts = true → atLimit c = false)
    (hb : o.cbank = true → c.ldcBusy.any (fun b => b.1 == c.cbank.toNat) = false) (hh : o.hold (ctxOf s c i) s = none)
    (hrun : o.run (ctxOf s c i) (started s c) = .done (updCrew (started s c) s.cur u))
    (ht : (u (unwait c)).trace.traced = false) (hfr : (u (unwait c)).fr = c.fr)
    (hg : ∀ fr pc exm mw h rs is st, { u (unwait c) with fr := fr, pc := pc, exm := exm, markerWait := mw, held := h, seq := (u (unwait c)).seq + 1, readySince := rs, issuedAt := is, stepping := st } =
      g (after c ⟨fr, pc, exm, pd, h, mw, rs, is, st⟩))
    (hf : ∀ w, (g (after c w)).fr = w.fr ∧ (g (after c w)).pc = w.pc ∧ (g (after c w)).exm = w.exm) :
    ∃ t, exec i s = .next t ∧ GoesOn s t c (nextPc s c i) pd g := by
  refine exec_goesOn s _ (u (unwait c)) g pd he h hill hp hq hc hb hh hrun rfl ?_ ht hfr hg hf ?_ rfl
  · rw [mfind_updCrew, if_pos rfl, mfind_started s c h.here]; rfl
  · intro k hk
    rw [mfind_updCrew, if_neg (Ne.symm hk)]
    exact started_others s c k hk

/-- An instruction whose effect leaves its crew alone (but for the end of its wait at issue). -/
theorem exec_still {i : Instr} {o : Core} {s : State} {c : Crew} (he : exec i s = issue i o s) (h : Clear s c i o.uses) (hill : o.illop c s = false)
    (hp : o.priv = true → c.tdepth ≠ 0) (hq : o.privIf c s = false) (hc : o.counts = true → atLimit c = false)
    (hb : o.cbank = true → c.ldcBusy.any (fun b => b.1 == c.cbank.toNat) = false) (hh : o.hold (ctxOf s c i) s = none)
    (hrun : o.run (ctxOf s c i) (started s c) = .done (started s c)) : ∃ t, exec i s = .next t ∧ GoesOn s t c (nextPc s c i) c.pend id := by
  refine exec_goesOn s _ (unwait c) id c.pend he h hill hp hq hc hb hh hrun rfl (mfind_started s c h.here) h.untraced rfl ?_ ?_ (started_others s c) rfl
  · intros; rfl
  · intro w; exact ⟨rfl, rfl, rfl⟩

/-- One outstanding target changes the registers alone. -/
theorem viewTarget_frame (f : Nat) (c : Crew) (t : PTarget) :
    viewTarget f c t = { c with v := (viewTarget f c t).v, sreg := (viewTarget f c t).sreg, bcast := (viewTarget f c t).bcast } := by
  unfold viewTarget
  split
  · split <;> rfl
  · generalize (List.foldl _ c.bcast (List.range 32)) = b
    split <;> rfl
  · rfl

/-- The crew as its reads see it differs from the crew in its registers, and in what its lanes read of a scalar, alone (R127). -/
theorem seen_frame (s : State) (c : Crew) : ∃ v sr b, seen s c = { c with v := v, sreg := sr, bcast := b } := by
  suffices h : ∀ (l : List (PTarget × Nat)) (d : Crew), (∃ v sr b, d = { c with v := v, sreg := sr, bcast := b }) →
      ∃ v sr b, l.foldl (fun c x => viewTarget (s.free + viewStep * x.2) c x.1) d = { c with v := v, sreg := sr, bcast := b } from
    h (viewTargets c).zipIdx c ⟨c.v, c.sreg, c.bcast, rfl⟩
  intro l
  induction l with
  | nil => intro d hd; exact hd
  | cons x r ih =>
    rintro d ⟨v, sr, b, rfl⟩
    rw [List.foldl_cons]
    refine ih _ ?_
    generalize s.free + viewStep * x.2 = n
    exact ⟨_, _, _, viewTarget_frame n { c with v := v, sreg := sr, bcast := b } x.1⟩

/-- A crew without an outstanding result reads its registers as they are (R127). -/
theorem seen_idle (s : State) (c : Crew) (h : c.pend = []) : seen s c = c := by
  simp [seen, viewOf, viewTargets, h]

end Sys2Proof.Machine
end

