-- ==== Sys2Proof/Tests/Slice0.lean ====
section
/-! SUPPORT. The model's own tests: ill-formed terms that the checks refuse, a word of every encoded row and the instruction it stands for, a witness of the hypotheses of each
statement, and what some instructions do. -/

namespace Sys2Proof.Tests

open Sys2Proof Sys2Proof.Machine

set_option Elab.async false

/-! ## Well-formedness: for each check, terms that it refuses (R114, R122) -/

theorem test_illformed_t_1 : ∀ k ∈ ([.iadd, .isub, .imul, .imulh, .umulh, .imad, .imin, .imax, .umin, .umax, .idiv, .udiv, .irem, .urem, .iadds, .and, .or, .xor, .andn, .shl, .shr, .sar, .rotl, .bfx, .bfi, .sel, .iseteq, .isetne, .isetlt, .isetle, .usetlt, .usetle, .mskeq, .mskne, .msklt, .mskle, .umsklt, .iadd64, .isub64, .imul64, .lea, .ksumf, .ksum, .fadd, .fsub, .fmul, .fma, .fmin, .fmax, .fdiv, .fseteq, .fsetlt, .fsetle, .fsetun, .fmskeq, .fmsklt, .fmskle, .fmskun, .ferradd, .ferrmul, .dadd, .dsub, .dmul, .dfma, .dmin, .dmax, .ddiv, .dsetlt, .dseteq, .dsetle, .packh, .packb, .bfpdec, .hfma2, .bfma2, .hadd2, .hmul2, .svc] : List (TF → Instr)), ∀ f ∈ ([
    { s2 := 0, k2 := 0, s1 := 0, k1 := 0, d := 0, e := some 7 },
    { s2 := 0, k2 := 0, s1 := 32, k1 := 3, d := 0, e := none },
    { s2 := 32, k2 := 3, s1 := 0, k1 := 0, d := 0, e := none },
    { s2 := 32, k2 := 3, s1 := 32, k1 := 3, d := 0, e := some 7 }] : List TF), (k f).wf = false := by decide +kernel

theorem test_illformed_t_2 : ∀ k ∈ ([.iabs, .popc, .clz, .brev, .mov, .movs, .ballot, .redadd, .redmin, .redmax, .argmin, .argmax, .scanadd, .confl, .fabs, .fneg, .fsqrt, .frcp, .frsq, .fexp2, .flog2, .fsin, .fcos, .fclass, .frint, .ffloor, .fceil, .ftrunc, .fredx, .dsqrt, .dabs, .icvtf, .ucvtf, .fcvti, .fcvtn, .dcvtf, .fcvtd, .unpkh, .unpkb, .bara] : List (TF → Instr)), ∀ f ∈ ([
    { s2 := 0, k2 := 0, s1 := 0, k1 := 0, d := 0, e := some 7 },
    { s2 := 0, k2 := 0, s1 := 32, k1 := 3, d := 0, e := none },
    { s2 := 1, k2 := 0, s1 := 0, k1 := 0, d := 0, e := none },
    { s2 := 32, k2 := 0, s1 := 0, k1 := 0, d := 0, e := none },
    { s2 := 0, k2 := 1, s1 := 0, k1 := 0, d := 0, e := none },
    { s2 := 0, k2 := 2, s1 := 0, k1 := 0, d := 0, e := none }] : List TF), (k f).wf = false := by decide +kernel

theorem test_illformed_t_3 : ∀ k ∈ ([.shfl, .shflx, .bcast, .bfpenc] : List (TF → Instr)), ∀ f ∈ ([
    { s2 := 0, k2 := 0, s1 := 0, k1 := 0, d := 0, e := some 7 },
    { s2 := 32, k2 := 3, s1 := 0, k1 := 0, d := 0, e := none },
    { s2 := 0, k2 := 0, s1 := 0, k1 := 1, d := 0, e := none },
    { s2 := 0, k2 := 0, s1 := 0, k1 := 2, d := 0, e := none }] : List TF), (k f).wf = false := by decide +kernel

theorem test_illformed_i_4 : ∀ k ∈ ([.rdsr, .wrsr] : List (IF → Instr)), ∀ f ∈ ([
    { imm := 4096, d := 0 },
    { imm := 32768, d := 0 }] : List IF), (k f).wf = false := by decide +kernel

theorem test_illformed_t_5 : ∀ k ∈ ([.cvt] : List (TF → Instr)), ∀ f ∈ ([
    { s2 := 0, k2 := 3, s1 := 0, k1 := 0, d := 0, e := some 7 },
    { s2 := 0, k2 := 3, s1 := 32, k1 := 3, d := 0, e := none },
    { s2 := 32, k2 := 3, s1 := 0, k1 := 0, d := 0, e := none },
    { s2 := 32, k2 := 3, s1 := 32, k1 := 3, d := 0, e := some 7 },
    { s2 := 0, k2 := 1, s1 := 0, k1 := 0, d := 0, e := none },
    { s2 := 0, k2 := 2, s1 := 0, k1 := 0, d := 0, e := none }] : List TF), (k f).wf = false := by decide +kernel

theorem test_illformed_k_6 : ∀ k ∈ ([.kLdw] : List (KF → Instr)), ∀ f ∈ ([
    { s := 1, d := 0 }] : List KF), (k f).wf = false := by decide +kernel

theorem test_illformed_m_7 : ∀ k ∈ ([.ldf, .stf, .ldg, .stg, .ldgf] : List (MF → Instr)), ∀ f ∈ ([
    { os := 0, sp := 1, b := 0, a := 0, d := 0 },
    { os := 0, sp := 2, b := 0, a := 0, d := 0 }] : List MF), (k f).wf = false := by decide +kernel

theorem test_illformed_m_8 : ∀ k ∈ ([.stb, .sth, .stw, .std, .stq, .aadd, .aaddf, .aaddd, .amin, .amax, .aumin, .aumax, .aand, .aor, .axor, .axchg, .acas, .aincw, .aaddn, .aaddfn] : List (MF → Instr)), ∀ f ∈ ([
    { os := 0, sp := 2, b := 0, a := 0, d := 0 }] : List MF), (k f).wf = false := by decide +kernel

theorem test_illformed_m_9 : ∀ k ∈ ([.tlook, .tset] : List (MF → Instr)), ∀ f ∈ ([
    { os := 1, sp := 1, b := 31, a := 0, d := 0 },
    { os := 4, sp := 1, b := 31, a := 0, d := 0 },
    { os := 0, sp := 0, b := 31, a := 0, d := 0 },
    { os := 0, sp := 3, b := 31, a := 0, d := 0 },
    { os := 0, sp := 1, b := 15, a := 0, d := 0 },
    { os := 0, sp := 1, b := 30, a := 0, d := 0 }] : List MF), (k f).wf = false := by decide +kernel

theorem test_illformed_m_10 : ∀ k ∈ ([.tdrop] : List (MF → Instr)), ∀ f ∈ ([
    { os := 1, sp := 1, b := 31, a := 0, d := 0 },
    { os := 4, sp := 1, b := 31, a := 0, d := 0 },
    { os := 0, sp := 0, b := 31, a := 0, d := 0 },
    { os := 0, sp := 3, b := 31, a := 0, d := 0 },
    { os := 0, sp := 1, b := 15, a := 0, d := 0 },
    { os := 0, sp := 1, b := 30, a := 0, d := 0 },
    { os := 0, sp := 1, b := 31, a := 0, d := 1 },
    { os := 0, sp := 1, b := 31, a := 0, d := 32 }] : List MF), (k f).wf = false := by decide +kernel

theorem test_illformed_m_11 : ∀ k ∈ ([.ldc] : List (MF → Instr)), ∀ f ∈ ([
    { os := 1, sp := 0, b := 0, a := 0, d := 0 },
    { os := 4, sp := 0, b := 0, a := 0, d := 0 },
    { os := 0, sp := 2, b := 0, a := 0, d := 0 },
    { os := 0, sp := 0, b := 0, a := 1, d := 0 },
    { os := 0, sp := 0, b := 0, a := 32, d := 0 },
    { os := 0, sp := 0, b := 0, a := 0, d := 16 },
    { os := 0, sp := 0, b := 0, a := 0, d := 32 }] : List MF), (k f).wf = false := by decide +kernel

theorem test_illformed_b_12 : ∀ k ∈ ([.bra] : List (BF → Instr)), ∀ f ∈ ([
    { off := 0, c := 1 },
    { off := 0, c := 32 }] : List BF), (k f).wf = false := by decide +kernel

theorem test_illformed_t_13 : ∀ k ∈ ([.brx, .bar, .barc, .trap] : List (TF → Instr)), ∀ f ∈ ([
    { s2 := 0, k2 := 0, s1 := 0, k1 := 0, d := 0, e := some 7 },
    { s2 := 0, k2 := 0, s1 := 32, k1 := 3, d := 0, e := none },
    { s2 := 1, k2 := 0, s1 := 0, k1 := 0, d := 0, e := none },
    { s2 := 32, k2 := 0, s1 := 0, k1 := 0, d := 0, e := none },
    { s2 := 0, k2 := 1, s1 := 0, k1 := 0, d := 0, e := none },
    { s2 := 0, k2 := 2, s1 := 0, k1 := 0, d := 0, e := none },
    { s2 := 0, k2 := 0, s1 := 0, k1 := 0, d := 1, e := none },
    { s2 := 0, k2 := 0, s1 := 0, k1 := 0, d := 32, e := none }] : List TF), (k f).wf = false := by decide +kernel

theorem test_illformed_t_14 : ∀ k ∈ ([.ret, .xir] : List (TF → Instr)), ∀ f ∈ ([
    { s2 := 0, k2 := 0, s1 := 0, k1 := 0, d := 0, e := some 7 },
    { s2 := 1, k2 := 0, s1 := 0, k1 := 0, d := 0, e := none },
    { s2 := 32, k2 := 0, s1 := 0, k1 := 0, d := 0, e := none },
    { s2 := 0, k2 := 1, s1 := 0, k1 := 0, d := 0, e := none },
    { s2 := 0, k2 := 2, s1 := 0, k1 := 0, d := 0, e := none },
    { s2 := 0, k2 := 0, s1 := 0, k1 := 1, d := 0, e := none },
    { s2 := 0, k2 := 0, s1 := 0, k1 := 2, d := 0, e := none },
    { s2 := 0, k2 := 0, s1 := 0, k1 := 0, d := 1, e := none },
    { s2 := 0, k2 := 0, s1 := 0, k1 := 0, d := 32, e := none }] : List TF), (k f).wf = false := by decide +kernel

theorem test_illformed_t_15 : ∀ k ∈ ([.barw] : List (TF → Instr)), ∀ f ∈ ([
    { s2 := 0, k2 := 0, s1 := 0, k1 := 0, d := 0, e := some 7 },
    { s2 := 0, k2 := 0, s1 := 32, k1 := 3, d := 0, e := none },
    { s2 := 32, k2 := 3, s1 := 0, k1 := 0, d := 0, e := none },
    { s2 := 32, k2 := 3, s1 := 32, k1 := 3, d := 0, e := some 7 },
    { s2 := 0, k2 := 0, s1 := 0, k1 := 0, d := 1, e := none },
    { s2 := 0, k2 := 0, s1 := 0, k1 := 0, d := 32, e := none }] : List TF), (k f).wf = false := by decide +kernel

theorem test_illformed_t_16 : ∀ k ∈ ([.bari] : List (TF → Instr)), ∀ f ∈ ([
    { s2 := 0, k2 := 0, s1 := 0, k1 := 0, d := 0, e := some 7 },
    { s2 := 0, k2 := 0, s1 := 32, k1 := 3, d := 0, e := none },
    { s2 := 32, k2 := 3, s1 := 0, k1 := 0, d := 0, e := none },
    { s2 := 32, k2 := 3, s1 := 32, k1 := 3, d := 0, e := some 7 },
    { s2 := 0, k2 := 0, s1 := 0, k1 := 0, d := 2, e := none },
    { s2 := 0, k2 := 0, s1 := 0, k1 := 0, d := 32, e := none }] : List TF), (k f).wf = false := by decide +kernel

theorem test_illformed_s_17 : ∀ k ∈ ([.sleep] : List (SF → Instr)), ∀ f ∈ ([
    { code := 1, d := 0 },
    { code := 32768, d := 0 }] : List SF), (k f).wf = false := by decide +kernel

theorem test_illformed_s_18 : ∀ k ∈ ([.sleepClk] : List (SF → Instr)), ∀ f ∈ ([
    { code := 4097, d := 0 },
    { code := 36864, d := 0 }] : List SF), (k f).wf = false := by decide +kernel

theorem test_illformed_s_19 : ∀ k ∈ ([.sleepCount] : List (SF → Instr)), ∀ f ∈ ([
    { code := 12288, d := 0 },
    { code := 40960, d := 0 },
    { code := 8192, d := 1 },
    { code := 8192, d := 32 }] : List SF), (k f).wf = false := by decide +kernel

theorem test_illformed_x_20 : ∀ k ∈ ([.mmasp] : List (XF → Instr)), ∀ f ∈ ([
    { fm := 0, b := 0, bs := 0, a := 0, ash := 0, acc := 0 }] : List XF), (k f).wf = false := by decide +kernel

theorem test_illformed_x_21 : ∀ k ∈ ([.mzero] : List (XF → Instr)), ∀ f ∈ ([
    { fm := 1, b := 0, bs := 0, a := 0, ash := 0, acc := 0 },
    { fm := 16, b := 0, bs := 0, a := 0, ash := 0, acc := 0 },
    { fm := 0, b := 1, bs := 0, a := 0, ash := 0, acc := 0 },
    { fm := 0, b := 32, bs := 0, a := 0, ash := 0, acc := 0 },
    { fm := 0, b := 0, bs := 1, a := 0, ash := 0, acc := 0 },
    { fm := 0, b := 0, bs := 0, a := 1, ash := 0, acc := 0 },
    { fm := 0, b := 0, bs := 0, a := 32, ash := 0, acc := 0 },
    { fm := 0, b := 0, bs := 0, a := 0, ash := 1, acc := 0 }] : List XF), (k f).wf = false := by decide +kernel

theorem test_illformed_x_22 : ∀ k ∈ ([.mlda] : List (XF → Instr)), ∀ f ∈ ([
    { fm := 16, b := 0, bs := 0, a := 0, ash := 0, acc := 0 },
    { fm := 0, b := 1, bs := 0, a := 0, ash := 0, acc := 0 },
    { fm := 0, b := 32, bs := 0, a := 0, ash := 0, acc := 0 },
    { fm := 0, b := 0, bs := 1, a := 0, ash := 0, acc := 0 },
    { fm := 0, b := 0, bs := 0, a := 0, ash := 1, acc := 0 }] : List XF), (k f).wf = false := by decide +kernel

theorem test_illformed_x_23 : ∀ k ∈ ([.mwaitc, .mwaitd] : List (XF → Instr)), ∀ f ∈ ([
    { fm := 1, b := 0, bs := 0, a := 0, ash := 0, acc := 0 },
    { fm := 16, b := 0, bs := 0, a := 0, ash := 0, acc := 0 },
    { fm := 0, b := 2, bs := 0, a := 0, ash := 0, acc := 0 },
    { fm := 0, b := 32, bs := 0, a := 0, ash := 0, acc := 0 },
    { fm := 0, b := 0, bs := 0, a := 0, ash := 1, acc := 0 },
    { fm := 0, b := 0, bs := 0, a := 0, ash := 0, acc := 1 },
    { fm := 0, b := 0, bs := 0, a := 0, ash := 0, acc := 4 }] : List XF), (k f).wf = false := by decide +kernel

theorem test_illformed_q_24 : ∀ k ∈ ([.cpy, .rload] : List (QF → Instr)), ∀ f ∈ ([
    { sub := 8, p2 := 0, p1 := 0, d := 0 }] : List QF), (k f).wf = false := by decide +kernel

theorem test_illformed_q_25 : ∀ k ∈ ([.cpyk, .cpyt, .cpywt] : List (QF → Instr)), ∀ f ∈ ([
    { sub := 1, p2 := 0, p1 := 0, d := 0 },
    { sub := 8, p2 := 0, p1 := 0, d := 0 },
    { sub := 0, p2 := 0, p1 := 0, d := 1 },
    { sub := 0, p2 := 0, p1 := 0, d := 32 }] : List QF), (k f).wf = false := by decide +kernel

theorem test_illformed_q_26 : ∀ k ∈ ([.permit, .cpyc, .evpost, .ratomAdd, .ropen, .qsend, .qrecv, .qtryRecv] : List (QF → Instr)), ∀ f ∈ ([
    { sub := 1, p2 := 0, p1 := 0, d := 0 },
    { sub := 8, p2 := 0, p1 := 0, d := 0 }] : List QF), (k f).wf = false := by decide +kernel

theorem test_illformed_q_27 : ∀ k ∈ ([.permitRel, .collDef] : List (QF → Instr)), ∀ f ∈ ([
    { sub := 0, p2 := 0, p1 := 0, d := 0 },
    { sub := 9, p2 := 0, p1 := 0, d := 0 },
    { sub := 1, p2 := 1, p1 := 0, d := 0 },
    { sub := 1, p2 := 32, p1 := 0, d := 0 }] : List QF), (k f).wf = false := by decide +kernel

theorem test_illformed_q_28 : ∀ k ∈ ([.cpycPull, .ratomAdd64, .qtrySend] : List (QF → Instr)), ∀ f ∈ ([
    { sub := 0, p2 := 0, p1 := 0, d := 0 },
    { sub := 9, p2 := 0, p1 := 0, d := 0 }] : List QF), (k f).wf = false := by decide +kernel

theorem test_illformed_q_29 : ∀ k ∈ ([.evpostN] : List (QF → Instr)), ∀ f ∈ ([
    { sub := 0, p2 := 0, p1 := 0, d := 0 },
    { sub := 9, p2 := 0, p1 := 0, d := 0 },
    { sub := 1, p2 := 0, p1 := 0, d := 1 },
    { sub := 1, p2 := 0, p1 := 0, d := 32 }] : List QF), (k f).wf = false := by decide +kernel

theorem test_illformed_q_30 : ∀ k ∈ ([.evcan, .evkey, .coll] : List (QF → Instr)), ∀ f ∈ ([
    { sub := 1, p2 := 0, p1 := 0, d := 0 },
    { sub := 8, p2 := 0, p1 := 0, d := 0 },
    { sub := 0, p2 := 1, p1 := 0, d := 0 },
    { sub := 0, p2 := 32, p1 := 0, d := 0 }] : List QF), (k f).wf = false := by decide +kernel

theorem test_illformed_q_31 : ∀ k ∈ ([.evkeySelf, .rdrainS] : List (QF → Instr)), ∀ f ∈ ([
    { sub := 0, p2 := 0, p1 := 0, d := 0 },
    { sub := 9, p2 := 0, p1 := 0, d := 0 },
    { sub := 1, p2 := 1, p1 := 0, d := 0 },
    { sub := 1, p2 := 32, p1 := 0, d := 0 },
    { sub := 1, p2 := 0, p1 := 1, d := 0 },
    { sub := 1, p2 := 0, p1 := 32, d := 0 }] : List QF), (k f).wf = false := by decide +kernel

theorem test_illformed_q_32 : ∀ k ∈ ([.ratomAddf] : List (QF → Instr)), ∀ f ∈ ([
    { sub := 3, p2 := 0, p1 := 0, d := 0 },
    { sub := 10, p2 := 0, p1 := 0, d := 0 }] : List QF), (k f).wf = false := by decide +kernel

theorem test_illformed_q_33 : ∀ k ∈ ([.ratomAddd] : List (QF → Instr)), ∀ f ∈ ([
    { sub := 2, p2 := 0, p1 := 0, d := 0 },
    { sub := 11, p2 := 0, p1 := 0, d := 0 }] : List QF), (k f).wf = false := by decide +kernel

theorem test_illformed_q_34 : ∀ k ∈ ([.ratomMin] : List (QF → Instr)), ∀ f ∈ ([
    { sub := 5, p2 := 0, p1 := 0, d := 0 },
    { sub := 12, p2 := 0, p1 := 0, d := 0 }] : List QF), (k f).wf = false := by decide +kernel

theorem test_illformed_q_35 : ∀ k ∈ ([.ratomMax] : List (QF → Instr)), ∀ f ∈ ([
    { sub := 4, p2 := 0, p1 := 0, d := 0 },
    { sub := 13, p2 := 0, p1 := 0, d := 0 }] : List QF), (k f).wf = false := by decide +kernel

theorem test_illformed_q_36 : ∀ k ∈ ([.ratomUmin] : List (QF → Instr)), ∀ f ∈ ([
    { sub := 7, p2 := 0, p1 := 0, d := 0 },
    { sub := 14, p2 := 0, p1 := 0, d := 0 }] : List QF), (k f).wf = false := by decide +kernel

theorem test_illformed_q_37 : ∀ k ∈ ([.ratomUmax] : List (QF → Instr)), ∀ f ∈ ([
    { sub := 6, p2 := 0, p1 := 0, d := 0 },
    { sub := 15, p2 := 0, p1 := 0, d := 0 }] : List QF), (k f).wf = false := by decide +kernel

theorem test_illformed_q_38 : ∀ k ∈ ([.ratomAnd] : List (QF → Instr)), ∀ f ∈ ([
    { sub := 0, p2 := 0, p1 := 0, d := 0 },
    { sub := 9, p2 := 0, p1 := 0, d := 0 }] : List QF), (k f).wf = false := by decide +kernel

theorem test_illformed_q_39 : ∀ k ∈ ([.ratomOr] : List (QF → Instr)), ∀ f ∈ ([
    { sub := 1, p2 := 0, p1 := 0, d := 0 },
    { sub := 8, p2 := 0, p1 := 0, d := 0 }] : List QF), (k f).wf = false := by decide +kernel

theorem test_illformed_q_40 : ∀ k ∈ ([.ratomXor] : List (QF → Instr)), ∀ f ∈ ([
    { sub := 2, p2 := 0, p1 := 0, d := 0 },
    { sub := 11, p2 := 0, p1 := 0, d := 0 }] : List QF), (k f).wf = false := by decide +kernel

theorem test_illformed_q_41 : ∀ k ∈ ([.ratomXchg] : List (QF → Instr)), ∀ f ∈ ([
    { sub := 3, p2 := 0, p1 := 0, d := 0 },
    { sub := 10, p2 := 0, p1 := 0, d := 0 }] : List QF), (k f).wf = false := by decide +kernel

theorem test_illformed_q_42 : ∀ k ∈ ([.ratomCas] : List (QF → Instr)), ∀ f ∈ ([
    { sub := 4, p2 := 0, p1 := 0, d := 0 },
    { sub := 13, p2 := 0, p1 := 0, d := 0 }] : List QF), (k f).wf = false := by decide +kernel

theorem test_illformed_q_43 : ∀ k ∈ ([.ratomIncw] : List (QF → Instr)), ∀ f ∈ ([
    { sub := 5, p2 := 0, p1 := 0, d := 0 },
    { sub := 12, p2 := 0, p1 := 0, d := 0 }] : List QF), (k f).wf = false := by decide +kernel

theorem test_illformed_q_44 : ∀ k ∈ ([.rflag] : List (QF → Instr)), ∀ f ∈ ([
    { sub := 2, p2 := 0, p1 := 0, d := 0 },
    { sub := 8, p2 := 0, p1 := 0, d := 0 }] : List QF), (k f).wf = false := by decide +kernel

theorem test_illformed_q_45 : ∀ k ∈ ([.rflagAdd] : List (QF → Instr)), ∀ f ∈ ([
    { sub := 0, p2 := 0, p1 := 0, d := 0 },
    { sub := 10, p2 := 0, p1 := 0, d := 0 }] : List QF), (k f).wf = false := by decide +kernel

theorem test_illformed_q_46 : ∀ k ∈ ([.collUndef] : List (QF → Instr)), ∀ f ∈ ([
    { sub := 3, p2 := 0, p1 := 0, d := 0 },
    { sub := 10, p2 := 0, p1 := 0, d := 0 },
    { sub := 2, p2 := 1, p1 := 0, d := 0 },
    { sub := 2, p2 := 32, p1 := 0, d := 0 }] : List QF), (k f).wf = false := by decide +kernel

theorem test_illformed_q_47 : ∀ k ∈ ([.rclose] : List (QF → Instr)), ∀ f ∈ ([
    { sub := 1, p2 := 0, p1 := 0, d := 0 },
    { sub := 8, p2 := 0, p1 := 0, d := 0 },
    { sub := 0, p2 := 1, p1 := 0, d := 0 },
    { sub := 0, p2 := 32, p1 := 0, d := 0 },
    { sub := 0, p2 := 0, p1 := 1, d := 0 },
    { sub := 0, p2 := 0, p1 := 32, d := 0 }] : List QF), (k f).wf = false := by decide +kernel

theorem test_illformed_s_48 : ∀ k ∈ ([.watchset] : List (SF → Instr)), ∀ f ∈ ([
    { code := 8, d := 0 },
    { code := 32768, d := 0 }] : List SF), (k f).wf = false := by decide +kernel

/-! ## Decoding: a word for every instruction, written out field by field from the encodings of R110 to R120 and the opcode map of R132 -/

theorem test_words_t_1 : ∀ p ∈ ([
    (0b010101_01_011010_11_000100_00000000_0_1, .iadd { s2 := 21, k2 := 1, s1 := 26, k1 := 3, d := 4, e := none }),
    (0b110101_11_000111_10_100110_00000001_0_1, .isub { s2 := 53, k2 := 3, s1 := 7, k1 := 2, d := 38, e := none }),
    (0b111011_11_001110_01_000110_00000010_1_1, .imul { s2 := 59, k2 := 3, s1 := 14, k1 := 1, d := 6, e := none }),
    (0b011011_01_010000_01_100100_00000011_1_1, .imulh { s2 := 27, k2 := 1, s1 := 16, k1 := 1, d := 36, e := none }),
    (0b000100_11_001000_01_101001_00000100_0_1, .umulh { s2 := 4, k2 := 3, s1 := 8, k1 := 1, d := 41, e := none }),
    (0b100101_11_011010_01_111111_00000101_0_1, .imad { s2 := 37, k2 := 3, s1 := 26, k1 := 1, d := 63, e := none }),
    (0b000011_11_110111_01_010011_00000110_1_1, .imin { s2 := 3, k2 := 3, s1 := 55, k1 := 1, d := 19, e := none }),
    (0b001010_11_001000_11_010100_00000111_0_1, .imax { s2 := 10, k2 := 3, s1 := 8, k1 := 3, d := 20, e := none }),
    (0b000111_11_100101_11_001101_00001000_1_1, .umin { s2 := 7, k2 := 3, s1 := 37, k1 := 3, d := 13, e := none }),
    (0b000111_11_101110_01_100101_00001001_0_1, .umax { s2 := 7, k2 := 3, s1 := 46, k1 := 1, d := 37, e := none }),
    (0b000000_00_101000_01_101100_00001010_1_1, .iabs { s2 := 0, k2 := 0, s1 := 40, k1 := 1, d := 44, e := none }),
    (0b110010_10_011110_11_111100_00001011_1_1, .idiv { s2 := 50, k2 := 2, s1 := 30, k1 := 3, d := 60, e := none }),
    (0b011000_10_010000_01_101101_00001100_0_1, .udiv { s2 := 24, k2 := 2, s1 := 16, k1 := 1, d := 45, e := none }),
    (0b000110_11_010100_11_111001_00001101_1_1, .irem { s2 := 6, k2 := 3, s1 := 20, k1 := 3, d := 57, e := none }),
    (0b101111_10_010011_11_111111_00001110_0_1, .urem { s2 := 47, k2 := 2, s1 := 19, k1 := 3, d := 63, e := none }),
    (0b001000_11_011011_01_110001_00001111_1_1, .iadds { s2 := 8, k2 := 3, s1 := 27, k1 := 1, d := 49, e := none }),
    (0b001010_10_011011_01_111110_00010000_0_1, .and { s2 := 10, k2 := 2, s1 := 27, k1 := 1, d := 62, e := none }),
    (0b110001_11_100101_10_010110_00010001_1_1, .or { s2 := 49, k2 := 3, s1 := 37, k1 := 2, d := 22, e := none }),
    (0b100111_10_100110_10_000101_00010010_0_1, .xor { s2 := 39, k2 := 2, s1 := 38, k1 := 2, d := 5, e := none }),
    (0b111101_10_011111_11_101011_00010011_0_1, .andn { s2 := 61, k2 := 2, s1 := 31, k1 := 3, d := 43, e := none }),
    (0b000100_11_101101_10_101010_00010100_1_1, .shl { s2 := 4, k2 := 3, s1 := 45, k1 := 2, d := 42, e := none }),
    (0b010011_11_011001_11_010111_00010101_0_1, .shr { s2 := 19, k2 := 3, s1 := 25, k1 := 3, d := 23, e := none }),
    (0b111101_10_010111_01_101000_00010110_0_1, .sar { s2 := 61, k2 := 2, s1 := 23, k1 := 1, d := 40, e := none }),
    (0b000100_01_110010_10_001001_00010111_0_1, .rotl { s2 := 4, k2 := 1, s1 := 50, k1 := 2, d := 9, e := none }),
    (0b000000_00_011010_10_111011_00011000_1_1, .popc { s2 := 0, k2 := 0, s1 := 26, k1 := 2, d := 59, e := none }),
    (0b000000_00_000110_01_011101_00011001_1_1, .clz { s2 := 0, k2 := 0, s1 := 6, k1 := 1, d := 29, e := none }),
    (0b000000_00_100100_10_111001_00011010_0_1, .brev { s2 := 0, k2 := 0, s1 := 36, k1 := 2, d := 57, e := none }),
    (0b110101_10_111000_11_010010_00011011_1_1, .bfx { s2 := 53, k2 := 2, s1 := 56, k1 := 3, d := 18, e := none }),
    (0b010111_11_111001_10_111110_00011100_0_1, .bfi { s2 := 23, k2 := 3, s1 := 57, k1 := 2, d := 62, e := none }),
    (0b001010_01_001100_01_001111_00011101_0_1, .sel { s2 := 10, k2 := 1, s1 := 12, k1 := 1, d := 15, e := none })] : List (Nat × Instr)), decodeTableWord 32 p.1 = some p.2 := by decide +kernel

theorem test_words_t_2 : ∀ p ∈ ([
    (0b000000_00_000001_10_110110_00011110_0_1, .mov { s2 := 0, k2 := 0, s1 := 1, k1 := 2, d := 54, e := none }),
    (0b000000_00_010001_10_000001_00011111_0_1, .movs { s2 := 0, k2 := 0, s1 := 17, k1 := 2, d := 1, e := none }),
    (0b011011_11_011000_11_100101_00100000_1_1, .iseteq { s2 := 27, k2 := 3, s1 := 24, k1 := 3, d := 37, e := none }),
    (0b111101_01_101101_11_111101_00100001_0_1, .isetne { s2 := 61, k2 := 1, s1 := 45, k1 := 3, d := 61, e := none }),
    (0b011110_11_110100_11_011010_00100010_1_1, .isetlt { s2 := 30, k2 := 3, s1 := 52, k1 := 3, d := 26, e := none }),
    (0b011010_10_000111_10_101001_00100011_1_1, .isetle { s2 := 26, k2 := 2, s1 := 7, k1 := 2, d := 41, e := none }),
    (0b000100_01_000101_01_011101_00100100_0_1, .usetlt { s2 := 4, k2 := 1, s1 := 5, k1 := 1, d := 29, e := none }),
    (0b001000_10_100111_01_000111_00100101_0_1, .usetle { s2 := 8, k2 := 2, s1 := 39, k1 := 1, d := 7, e := none }),
    (0b100101_01_100011_01_111101_00100110_1_1, .mskeq { s2 := 37, k2 := 1, s1 := 35, k1 := 1, d := 61, e := none }),
    (0b101000_01_000101_01_101000_00100111_1_1, .mskne { s2 := 40, k2 := 1, s1 := 5, k1 := 1, d := 40, e := none }),
    (0b001010_11_010001_10_100111_00101000_1_1, .msklt { s2 := 10, k2 := 3, s1 := 17, k1 := 2, d := 39, e := none }),
    (0b011111_01_001000_10_111111_00101001_1_1, .mskle { s2 := 31, k2 := 1, s1 := 8, k1 := 2, d := 63, e := none }),
    (0b011111_10_010100_01_001010_00101010_0_1, .umsklt { s2 := 31, k2 := 2, s1 := 20, k1 := 1, d := 10, e := none }),
    (0b000000_00_110000_10_110000_00101011_1_1, .ballot { s2 := 0, k2 := 0, s1 := 48, k1 := 2, d := 48, e := none }),
    (0b011111_11_001011_11_000010_00101100_0_1, .iadd64 { s2 := 31, k2 := 3, s1 := 11, k1 := 3, d := 2, e := none }),
    (0b111101_11_011000_01_101101_00101101_0_1, .isub64 { s2 := 61, k2 := 3, s1 := 24, k1 := 1, d := 45, e := none }),
    (0b110001_11_010100_11_111000_00101110_0_1, .imul64 { s2 := 49, k2 := 3, s1 := 20, k1 := 3, d := 56, e := none }),
    (0b101101_10_100010_10_111011_00101111_0_1, .lea { s2 := 45, k2 := 2, s1 := 34, k1 := 2, d := 59, e := none }),
    (0b010111_01_100011_00_100011_00110000_1_1, .shfl { s2 := 23, k2 := 1, s1 := 35, k1 := 0, d := 35, e := none }),
    (0b101001_01_101000_00_110100_00110001_0_1, .shflx { s2 := 41, k2 := 1, s1 := 40, k1 := 0, d := 52, e := none }),
    (0b110100_01_110101_00_011010_00110010_0_1, .bcast { s2 := 52, k2 := 1, s1 := 53, k1 := 0, d := 26, e := none }),
    (0b000000_00_001101_11_010111_00110011_0_1, .redadd { s2 := 0, k2 := 0, s1 := 13, k1 := 3, d := 23, e := none }),
    (0b000000_00_000010_10_011111_00110100_1_1, .redmin { s2 := 0, k2 := 0, s1 := 2, k1 := 2, d := 31, e := none }),
    (0b000000_00_001101_11_100111_00110101_1_1, .redmax { s2 := 0, k2 := 0, s1 := 13, k1 := 3, d := 39, e := none }),
    (0b000000_00_011101_11_010111_00110110_1_1, .argmin { s2 := 0, k2 := 0, s1 := 29, k1 := 3, d := 23, e := none }),
    (0b000000_00_000110_01_000111_00110111_0_1, .argmax { s2 := 0, k2 := 0, s1 := 6, k1 := 1, d := 7, e := none }),
    (0b000000_00_011111_01_010110_00111000_0_1, .scanadd { s2 := 0, k2 := 0, s1 := 31, k1 := 1, d := 22, e := none }),
    (0b000000_00_011111_11_111010_00111001_0_1, .confl { s2 := 0, k2 := 0, s1 := 31, k1 := 3, d := 58, e := none }),
    (0b011111_11_010111_11_000110_00111010_0_1, .ksumf { s2 := 31, k2 := 3, s1 := 23, k1 := 3, d := 6, e := none }),
    (0b111011_10_110011_11_110001_00111011_0_1, .ksum { s2 := 59, k2 := 2, s1 := 51, k1 := 3, d := 49, e := none })] : List (Nat × Instr)), decodeTableWord 32 p.1 = some p.2 := by decide +kernel

theorem test_words_t_3 : ∀ p ∈ ([
    (0b101111_01_001011_01_000010_01000000_0_1, .fadd { s2 := 47, k2 := 1, s1 := 11, k1 := 1, d := 2, e := none }),
    (0b100110_10_110100_11_001010_01000001_1_1, .fsub { s2 := 38, k2 := 2, s1 := 52, k1 := 3, d := 10, e := none }),
    (0b101011_10_001010_11_100100_01000010_0_1, .fmul { s2 := 43, k2 := 2, s1 := 10, k1 := 3, d := 36, e := none }),
    (0b000010_01_110100_11_101010_01000011_0_1, .fma { s2 := 2, k2 := 1, s1 := 52, k1 := 3, d := 42, e := none }),
    (0b100010_11_111100_01_011100_01000100_0_1, .fmin { s2 := 34, k2 := 3, s1 := 60, k1 := 1, d := 28, e := none }),
    (0b110101_01_000010_10_001110_01000101_1_1, .fmax { s2 := 53, k2 := 1, s1 := 2, k1 := 2, d := 14, e := none }),
    (0b000000_00_100001_01_110001_01000110_1_1, .fabs { s2 := 0, k2 := 0, s1 := 33, k1 := 1, d := 49, e := none }),
    (0b000000_00_010001_11_011011_01000111_0_1, .fneg { s2 := 0, k2 := 0, s1 := 17, k1 := 3, d := 27, e := none }),
    (0b000100_11_010111_10_101011_01001000_1_1, .fdiv { s2 := 4, k2 := 3, s1 := 23, k1 := 2, d := 43, e := none }),
    (0b000000_00_110101_11_001001_01001001_0_1, .fsqrt { s2 := 0, k2 := 0, s1 := 53, k1 := 3, d := 9, e := none }),
    (0b000000_00_100010_11_000010_01001010_1_1, .frcp { s2 := 0, k2 := 0, s1 := 34, k1 := 3, d := 2, e := none }),
    (0b000000_00_110010_01_100111_01001011_0_1, .frsq { s2 := 0, k2 := 0, s1 := 50, k1 := 1, d := 39, e := none }),
    (0b000000_00_110010_01_001100_01001100_0_1, .fexp2 { s2 := 0, k2 := 0, s1 := 50, k1 := 1, d := 12, e := none }),
    (0b000000_00_011111_11_101111_01001101_0_1, .flog2 { s2 := 0, k2 := 0, s1 := 31, k1 := 3, d := 47, e := none }),
    (0b000000_00_100100_01_010101_01001110_1_1, .fsin { s2 := 0, k2 := 0, s1 := 36, k1 := 1, d := 21, e := none }),
    (0b000000_00_110011_01_111001_01001111_0_1, .fcos { s2 := 0, k2 := 0, s1 := 51, k1 := 1, d := 57, e := none }),
    (0b010000_01_010010_01_110010_01010000_0_1, .fseteq { s2 := 16, k2 := 1, s1 := 18, k1 := 1, d := 50, e := none }),
    (0b100001_10_100100_01_110001_01010001_0_1, .fsetlt { s2 := 33, k2 := 2, s1 := 36, k1 := 1, d := 49, e := none }),
    (0b011101_10_101000_11_100111_01010010_0_1, .fsetle { s2 := 29, k2 := 2, s1 := 40, k1 := 3, d := 39, e := none }),
    (0b101101_10_011101_11_100011_01010011_1_1, .fsetun { s2 := 45, k2 := 2, s1 := 29, k1 := 3, d := 35, e := none }),
    (0b100001_01_101101_11_111001_01010100_1_1, .fmskeq { s2 := 33, k2 := 1, s1 := 45, k1 := 3, d := 57, e := none }),
    (0b111100_11_111010_01_110110_01010101_1_1, .fmsklt { s2 := 60, k2 := 3, s1 := 58, k1 := 1, d := 54, e := none }),
    (0b001001_10_001000_10_011101_01010110_1_1, .fmskle { s2 := 9, k2 := 2, s1 := 8, k1 := 2, d := 29, e := none }),
    (0b000101_11_010000_10_000101_01010111_0_1, .fmskun { s2 := 5, k2 := 3, s1 := 16, k1 := 2, d := 5, e := none }),
    (0b000000_00_101011_10_110011_01011000_0_1, .fclass { s2 := 0, k2 := 0, s1 := 43, k1 := 2, d := 51, e := none }),
    (0b000000_00_111010_01_111101_01011001_1_1, .frint { s2 := 0, k2 := 0, s1 := 58, k1 := 1, d := 61, e := none }),
    (0b000000_00_001010_10_111001_01011010_0_1, .ffloor { s2 := 0, k2 := 0, s1 := 10, k1 := 2, d := 57, e := none }),
    (0b000000_00_111110_10_001111_01011011_0_1, .fceil { s2 := 0, k2 := 0, s1 := 62, k1 := 2, d := 15, e := none }),
    (0b000000_00_011010_10_001011_01011100_0_1, .ftrunc { s2 := 0, k2 := 0, s1 := 26, k1 := 2, d := 11, e := none }),
    (0b001011_11_011100_11_011010_01011101_1_1, .ferradd { s2 := 11, k2 := 3, s1 := 28, k1 := 3, d := 26, e := none })] : List (Nat × Instr)), decodeTableWord 32 p.1 = some p.2 := by decide +kernel

theorem test_words_t_4 : ∀ p ∈ ([
    (0b011011_01_010111_10_000110_01011110_1_1, .ferrmul { s2 := 27, k2 := 1, s1 := 23, k1 := 2, d := 6, e := none }),
    (0b000000_00_000010_10_100100_01011111_1_1, .fredx { s2 := 0, k2 := 0, s1 := 2, k1 := 2, d := 36, e := none }),
    (0b011101_11_000010_10_010110_01100000_1_1, .dadd { s2 := 29, k2 := 3, s1 := 2, k1 := 2, d := 22, e := none }),
    (0b100001_01_001000_01_111111_01100001_0_1, .dsub { s2 := 33, k2 := 1, s1 := 8, k1 := 1, d := 63, e := none }),
    (0b000110_10_010010_01_111010_01100010_0_1, .dmul { s2 := 6, k2 := 2, s1 := 18, k1 := 1, d := 58, e := none }),
    (0b010010_01_110101_10_110111_01100011_1_1, .dfma { s2 := 18, k2 := 1, s1 := 53, k1 := 2, d := 55, e := none }),
    (0b011010_01_100011_11_100101_01100100_1_1, .dmin { s2 := 26, k2 := 1, s1 := 35, k1 := 3, d := 37, e := none }),
    (0b101101_10_000110_10_000100_01100101_0_1, .dmax { s2 := 45, k2 := 2, s1 := 6, k1 := 2, d := 4, e := none }),
    (0b011100_01_010010_01_101001_01100110_0_1, .ddiv { s2 := 28, k2 := 1, s1 := 18, k1 := 1, d := 41, e := none }),
    (0b000000_00_110100_10_000110_01100111_0_1, .dsqrt { s2 := 0, k2 := 0, s1 := 52, k1 := 2, d := 6, e := none }),
    (0b000101_10_111000_01_011110_01101000_0_1, .dsetlt { s2 := 5, k2 := 2, s1 := 56, k1 := 1, d := 30, e := none }),
    (0b010110_11_011011_10_101000_01101001_0_1, .dseteq { s2 := 22, k2 := 3, s1 := 27, k1 := 2, d := 40, e := none }),
    (0b000011_11_101110_01_111101_01101010_0_1, .dsetle { s2 := 3, k2 := 3, s1 := 46, k1 := 1, d := 61, e := none }),
    (0b000000_00_111111_01_010001_01101011_0_1, .dabs { s2 := 0, k2 := 0, s1 := 63, k1 := 1, d := 17, e := none }),
    (0b001100_11_001101_10_101001_01101100_1_1, .cvt { s2 := 12, k2 := 3, s1 := 13, k1 := 2, d := 41, e := none }),
    (0b000000_00_100010_01_010011_01101101_1_1, .icvtf { s2 := 0, k2 := 0, s1 := 34, k1 := 1, d := 19, e := none }),
    (0b000000_00_100001_11_001100_01101110_1_1, .ucvtf { s2 := 0, k2 := 0, s1 := 33, k1 := 3, d := 12, e := none }),
    (0b000000_00_010111_01_010001_01101111_0_1, .fcvti { s2 := 0, k2 := 0, s1 := 23, k1 := 1, d := 17, e := none }),
    (0b000000_00_000001_01_101111_01110000_0_1, .fcvtn { s2 := 0, k2 := 0, s1 := 1, k1 := 1, d := 47, e := none }),
    (0b000000_00_100001_10_010000_01110001_1_1, .dcvtf { s2 := 0, k2 := 0, s1 := 33, k1 := 2, d := 16, e := none }),
    (0b000000_00_000111_11_110101_01110010_1_1, .fcvtd { s2 := 0, k2 := 0, s1 := 7, k1 := 3, d := 53, e := none }),
    (0b101011_10_100011_10_111111_01110011_1_1, .packh { s2 := 43, k2 := 2, s1 := 35, k1 := 2, d := 63, e := none }),
    (0b101101_01_111111_01_010110_01110100_0_1, .packb { s2 := 45, k2 := 1, s1 := 63, k1 := 1, d := 22, e := none }),
    (0b000000_00_110110_11_101111_01110101_0_1, .unpkh { s2 := 0, k2 := 0, s1 := 54, k1 := 3, d := 47, e := none }),
    (0b000000_00_011010_10_111111_01110110_0_1, .unpkb { s2 := 0, k2 := 0, s1 := 26, k1 := 2, d := 63, e := none }),
    (0b110110_01_000001_00_000101_01110111_1_1, .bfpenc { s2 := 54, k2 := 1, s1 := 1, k1 := 0, d := 5, e := none }),
    (0b011100_01_000100_01_101011_01111000_1_1, .bfpdec { s2 := 28, k2 := 1, s1 := 4, k1 := 1, d := 43, e := none }),
    (0b111000_11_101011_10_100111_01111001_0_1, .hfma2 { s2 := 56, k2 := 3, s1 := 43, k1 := 2, d := 39, e := none }),
    (0b101101_10_000011_10_001100_01111010_0_1, .bfma2 { s2 := 45, k2 := 2, s1 := 3, k1 := 2, d := 12, e := none }),
    (0b010010_10_000001_10_011000_01111011_1_1, .hadd2 { s2 := 18, k2 := 2, s1 := 1, k1 := 2, d := 24, e := none })] : List (Nat × Instr)), decodeTableWord 32 p.1 = some p.2 := by decide +kernel

theorem test_words_t_5 : ∀ p ∈ ([
    (0b111111_11_010101_01_000011_01111100_1_1, .hmul2 { s2 := 63, k2 := 3, s1 := 21, k1 := 1, d := 3, e := none }),
    (0b000000_00_100100_01_000000_10110100_1_1, .brx { s2 := 0, k2 := 0, s1 := 36, k1 := 1, d := 0, e := none }),
    (0b000000_00_011100_00_000000_10110110_0_1, .ret { s2 := 0, k2 := 0, s1 := 28, k1 := 0, d := 0, e := none }),
    (0b000000_00_010000_01_000000_10111000_0_1, .bar { s2 := 0, k2 := 0, s1 := 16, k1 := 1, d := 0, e := none }),
    (0b000000_00_010110_11_000110_10111001_1_1, .bara { s2 := 0, k2 := 0, s1 := 22, k1 := 3, d := 6, e := none }),
    (0b010000_10_010001_11_000000_10111010_0_1, .barw { s2 := 16, k2 := 2, s1 := 17, k1 := 3, d := 0, e := none }),
    (0b000000_00_111001_01_000000_10111011_1_1, .barc { s2 := 0, k2 := 0, s1 := 57, k1 := 1, d := 0, e := none }),
    (0b011001_10_110000_11_000000_10111100_1_1, .bari { s2 := 25, k2 := 2, s1 := 48, k1 := 3, d := 0, e := none }),
    (0b000000_00_000110_01_000000_11111001_1_1, .trap { s2 := 0, k2 := 0, s1 := 6, k1 := 1, d := 0, e := none }),
    (0b000000_00_000010_00_000000_11111100_1_1, .xir { s2 := 0, k2 := 0, s1 := 2, k1 := 0, d := 0, e := none }),
    (0b010000_11_110010_10_000011_11111101_1_1, .svc { s2 := 16, k2 := 3, s1 := 50, k1 := 2, d := 3, e := none })] : List (Nat × Instr)), decodeTableWord 32 p.1 = some p.2 := by decide +kernel

theorem test_words_i : ∀ p ∈ ([
    (0b0111101001100001_111001_00111100_0_1, .ldi { imm := 31329, d := 57 }),
    (0b0110111100010110_110011_00111101_1_1, .ldih { imm := 28438, d := 51 }),
    (0b0000000101100100_110100_00111110_1_1, .rdsr { imm := 356, d := 52 }),
    (0b0000011101101010_011010_00111111_0_1, .wrsr { imm := 1898, d := 26 })] : List (Nat × Instr)), decodeTableWord 32 p.1 = some p.2 := by decide +kernel

theorem test_words_k : ∀ p ∈ ([
    (0b00111_01100_0000_0_0, .kMov { s := 7, d := 12 }),
    (0b00001_01011_0001_1_0, .kIadd { s := 1, d := 11 }),
    (0b00011_10000_0010_1_0, .kIsub { s := 3, d := 16 }),
    (0b10001_10101_0011_0_0, .kAnd { s := 17, d := 21 }),
    (0b01000_10001_0100_0_0, .kOr { s := 8, d := 17 }),
    (0b00011_01001_0101_0_0, .kXor { s := 3, d := 9 }),
    (0b00101_01101_0110_0_0, .kShli { s := 5, d := 13 }),
    (0b01101_00001_0111_1_0, .kShri { s := 13, d := 1 }),
    (0b01010_10101_1000_0_0, .kIaddi { s := 10, d := 21 }),
    (0b00011_10011_1001_0_0, .kFadd { s := 3, d := 19 }),
    (0b10110_11101_1010_1_0, .kFsub { s := 22, d := 29 }),
    (0b11001_01011_1011_1_0, .kFmul { s := 25, d := 11 }),
    (0b00101_01010_1100_0_0, .kFmax { s := 5, d := 10 }),
    (0b00010_11011_1101_1_0, .kFmin { s := 2, d := 27 }),
    (0b11000_10111_1110_0_0, .kLdw { s := 24, d := 23 })] : List (Nat × Instr)), decodeTableWord 16 p.1 = some p.2 := by decide +kernel

theorem test_words_k_nop : ∀ p ∈ ([
    (0b0000000000_1111_0_0, .kNop)] : List (Nat × Instr)), decodeTableWord 16 p.1 = some p.2 := by decide +kernel

theorem test_words_m_1 : ∀ p ∈ ([
    (0b111_11_10011_110100_111010_10000000_0_1, .ldbs { os := 7, sp := 3, b := 19, a := 52, d := 58 }),
    (0b001_01_00010_001001_101001_10000001_1_1, .ldbz { os := 1, sp := 1, b := 2, a := 9, d := 41 }),
    (0b001_10_11011_011101_100100_10000010_0_1, .ldhs { os := 1, sp := 2, b := 27, a := 29, d := 36 }),
    (0b110_01_10101_100011_101100_10000011_0_1, .ldhz { os := 6, sp := 1, b := 21, a := 35, d := 44 }),
    (0b100_10_00001_011110_110100_10000100_0_1, .ldw { os := 4, sp := 2, b := 1, a := 30, d := 52 }),
    (0b110_11_11101_100011_000110_10000101_0_1, .ldd { os := 6, sp := 3, b := 29, a := 35, d := 6 }),
    (0b110_11_10000_010001_110100_10000110_0_1, .ldq { os := 6, sp := 3, b := 16, a := 17, d := 52 }),
    (0b111_00_01001_010000_101111_10000111_0_1, .ldf { os := 7, sp := 0, b := 9, a := 16, d := 47 }),
    (0b010_01_10000_110111_011001_10001000_0_1, .stb { os := 2, sp := 1, b := 16, a := 55, d := 25 }),
    (0b100_01_11001_000011_101000_10001001_0_1, .sth { os := 4, sp := 1, b := 25, a := 3, d := 40 }),
    (0b001_00_01011_010001_101010_10001010_1_1, .stw { os := 1, sp := 0, b := 11, a := 17, d := 42 }),
    (0b101_00_00001_011111_000100_10001011_1_1, .std { os := 5, sp := 0, b := 1, a := 31, d := 4 }),
    (0b011_00_10111_001110_101100_10001100_1_1, .stq { os := 3, sp := 0, b := 23, a := 14, d := 44 }),
    (0b011_00_10111_100010_010011_10001101_1_1, .stf { os := 3, sp := 0, b := 23, a := 34, d := 19 }),
    (0b100_00_01111_110010_001000_10001110_0_1, .ldg { os := 4, sp := 0, b := 15, a := 50, d := 8 }),
    (0b011_00_00011_111100_011111_10001111_0_1, .stg { os := 3, sp := 0, b := 3, a := 60, d := 31 }),
    (0b011_00_01111_000101_110101_10010000_1_1, .ldgf { os := 3, sp := 0, b := 15, a := 5, d := 53 }),
    (0b000_01_11111_100110_000110_10010011_0_1, .tlook { os := 0, sp := 1, b := 31, a := 38, d := 6 }),
    (0b000_01_11111_110000_100010_10010100_1_1, .tset { os := 0, sp := 1, b := 31, a := 48, d := 34 }),
    (0b000_01_11111_111101_000000_10010101_1_1, .tdrop { os := 0, sp := 1, b := 31, a := 61, d := 0 }),
    (0b000_01_01000_000000_001000_10011001_1_1, .ldc { os := 0, sp := 1, b := 8, a := 0, d := 8 }),
    (0b100_00_00110_000001_111101_10100000_1_1, .aadd { os := 4, sp := 0, b := 6, a := 1, d := 61 }),
    (0b110_01_01101_010100_101111_10100001_0_1, .aaddf { os := 6, sp := 1, b := 13, a := 20, d := 47 }),
    (0b100_01_01101_010101_001000_10100010_1_1, .aaddd { os := 4, sp := 1, b := 13, a := 21, d := 8 }),
    (0b001_01_11001_010110_110110_10100011_1_1, .amin { os := 1, sp := 1, b := 25, a := 22, d := 54 }),
    (0b001_00_10111_000001_111010_10100100_1_1, .amax { os := 1, sp := 0, b := 23, a := 1, d := 58 }),
    (0b011_01_00011_011010_011001_10100101_0_1, .aumin { os := 3, sp := 1, b := 3, a := 26, d := 25 }),
    (0b011_01_11001_010010_110111_10100110_0_1, .aumax { os := 3, sp := 1, b := 25, a := 18, d := 55 }),
    (0b011_00_00010_110110_101011_10100111_1_1, .aand { os := 3, sp := 0, b := 2, a := 54, d := 43 }),
    (0b110_00_01000_111111_010010_10101000_1_1, .aor { os := 6, sp := 0, b := 8, a := 63, d := 18 })] : List (Nat × Instr)), decodeTableWord 32 p.1 = some p.2 := by decide +kernel

theorem test_words_m_2 : ∀ p ∈ ([
    (0b101_01_00111_110010_011000_10101001_1_1, .axor { os := 5, sp := 1, b := 7, a := 50, d := 24 }),
    (0b001_01_11110_111001_111101_10101010_0_1, .axchg { os := 1, sp := 1, b := 30, a := 57, d := 61 }),
    (0b110_00_00010_111100_101111_10101011_1_1, .acas { os := 6, sp := 0, b := 2, a := 60, d := 47 }),
    (0b100_00_10101_111000_010011_10101100_1_1, .aincw { os := 4, sp := 0, b := 21, a := 56, d := 19 }),
    (0b001_00_00110_011111_011011_10101101_1_1, .aaddn { os := 1, sp := 0, b := 6, a := 31, d := 27 }),
    (0b011_01_01001_110000_110000_10101110_1_1, .aaddfn { os := 3, sp := 1, b := 9, a := 48, d := 48 })] : List (Nat × Instr)), decodeTableWord 32 p.1 = some p.2 := by decide +kernel

theorem test_words_plain : ∀ p ∈ ([
    (0b0000001001011001000000_10010001_0_1, .pfetch),
    (0b0100000000000000000000_10010010_0_1, .fence),
    (0b0000111111000000000000_10010110_0_1, .tinv),
    (0b0000000000000000000000_10010111_1_1, .tokw),
    (0b0000000000000000000000_10011000_0_1, .tokp),
    (0b0000000000000000000000_10110111_0_1, .exit),
    (0b0000000000000000000000_10111101_1_1, .yield),
    (0b0000000000000000000000_11100010_0_1, .evend),
    (0b0000000000000000000000_11101100_0_1, .rdrain),
    (0b0110101110010010000000_11110100_0_1, .brk),
    (0b0000000000000000000000_11111000_1_1, .nop),
    (0b0000001100000000000000_11111010_0_1, .rett),
    (0b0000011100000000000000_11111010_1_1, .rettSkip),
    (0b1000111000110110011000_11111011_1_1, .ill),
    (0b0000001100000000000000_11111110_0_1, .ctxsw),
    (0b0000011100000000000000_11111110_1_1, .ctxswHalt)] : List (Nat × Instr)), decodeTableWord 32 p.1 = some p.2 := by decide +kernel

theorem test_words_b : ∀ p ∈ ([
    (0b0110011111111110_000000_10110000_0_1, .bra { off := 26622, c := 0 }),
    (0b0100110100000100_011111_10110001_1_1, .brz { off := 19716, c := 31 }),
    (0b0001111010101000_001011_10110010_0_1, .bru { off := 7848, c := 11 }),
    (0b0001001100111111_001110_10110011_1_1, .brs { off := 4927, c := 14 }),
    (0b1110100000000001_010110_10110101_1_1, .call { off := 59393, c := 22 })] : List (Nat × Instr)), decodeTableWord 32 p.1 = some p.2 := by decide +kernel

theorem test_words_s : ∀ p ∈ ([
    (0b0000000000000000_010110_10111110_0_1, .sleep { code := 0, d := 22 }),
    (0b0001000000000000_100000_10111110_1_1, .sleepClk { code := 4096, d := 32 }),
    (0b0010100100110001_000000_10111110_1_1, .sleepCount { code := 10545, d := 0 }),
    (0b0100011110100010_000110_11110011_1_1, .tmark { code := 18338, d := 6 }),
    (0b1000111110100111_111110_11110101_0_1, .pmark { code := 36775, d := 62 }),
    (0b0000000000000100_010111_11110110_1_1, .watchset { code := 4, d := 23 })] : List (Nat × Instr)), decodeTableWord 32 p.1 = some p.2 := by decide +kernel

theorem test_words_x : ∀ p ∈ ([
    (0b00101_101100_0_000110_1_010_11000000_1_1, .mma { fm := 5, b := 44, bs := 0, a := 6, ash := 1, acc := 2 }),
    (0b01101_101010_1_011100_1_011_11000001_0_1, .mmasp { fm := 13, b := 42, bs := 1, a := 28, ash := 1, acc := 3 }),
    (0b00000_000000_0_000000_0_010_11000010_0_1, .mzero { fm := 0, b := 0, bs := 0, a := 0, ash := 0, acc := 2 }),
    (0b00111_000000_0_101110_0_111_11000011_1_1, .mlda { fm := 7, b := 0, bs := 0, a := 46, ash := 0, acc := 7 }),
    (0b00000_000001_1_111000_0_000_11000100_1_1, .mwaitc { fm := 0, b := 1, bs := 1, a := 56, ash := 0, acc := 0 }),
    (0b00000_000000_0_000001_0_000_11000101_0_1, .mwaitd { fm := 0, b := 0, bs := 0, a := 1, ash := 0, acc := 0 })] : List (Nat × Instr)), decodeTableWord 32 p.1 = some p.2 := by decide +kernel

theorem test_words_q_1 : ∀ p ∈ ([
    (0b0111_110111_011110_111111_11010000_1_1, .cpy { sub := 7, p2 := 55, p1 := 30, d := 63 }),
    (0b0000_010000_110011_000000_11010001_0_1, .cpyk { sub := 0, p2 := 16, p1 := 51, d := 0 }),
    (0b0000_001111_001010_000000_11010010_0_1, .cpyt { sub := 0, p2 := 15, p1 := 10, d := 0 }),
    (0b0000_100010_111111_101100_11010011_0_1, .permit { sub := 0, p2 := 34, p1 := 63, d := 44 }),
    (0b0001_000000_111101_110101_11010011_1_1, .permitRel { sub := 1, p2 := 0, p1 := 61, d := 53 }),
    (0b0000_000110_100100_110010_11010100_0_1, .cpyc { sub := 0, p2 := 6, p1 := 36, d := 50 }),
    (0b0001_000001_110011_001001_11010100_0_1, .cpycPull { sub := 1, p2 := 1, p1 := 51, d := 9 }),
    (0b0000_100101_111011_000000_11010101_0_1, .cpywt { sub := 0, p2 := 37, p1 := 59, d := 0 }),
    (0b0000_101010_101110_010100_11100000_0_1, .evpost { sub := 0, p2 := 42, p1 := 46, d := 20 }),
    (0b0001_101001_010001_000000_11100000_1_1, .evpostN { sub := 1, p2 := 41, p1 := 17, d := 0 }),
    (0b0000_000000_101101_110001_11100001_0_1, .evcan { sub := 0, p2 := 0, p1 := 45, d := 49 }),
    (0b0000_000000_000101_010100_11100011_0_1, .evkey { sub := 0, p2 := 0, p1 := 5, d := 20 }),
    (0b0001_000000_000000_011001_11100011_1_1, .evkeySelf { sub := 1, p2 := 0, p1 := 0, d := 25 }),
    (0b0001_100011_010100_011110_11101000_1_1, .rsto { sub := 1, p2 := 35, p1 := 20, d := 30 }),
    (0b0111_110110_111001_010000_11101001_1_1, .rload { sub := 7, p2 := 54, p1 := 57, d := 16 }),
    (0b0000_100010_010000_100100_11101010_0_1, .ratomAdd { sub := 0, p2 := 34, p1 := 16, d := 36 }),
    (0b0001_000010_111110_011011_11101010_1_1, .ratomAdd64 { sub := 1, p2 := 2, p1 := 62, d := 27 }),
    (0b0010_000100_000010_001101_11101010_1_1, .ratomAddf { sub := 2, p2 := 4, p1 := 2, d := 13 }),
    (0b0011_111001_101100_101010_11101010_1_1, .ratomAddd { sub := 3, p2 := 57, p1 := 44, d := 42 }),
    (0b0100_000110_010001_001111_11101010_1_1, .ratomMin { sub := 4, p2 := 6, p1 := 17, d := 15 }),
    (0b0101_111100_011000_001111_11101010_1_1, .ratomMax { sub := 5, p2 := 60, p1 := 24, d := 15 }),
    (0b0110_000011_101101_010110_11101010_1_1, .ratomUmin { sub := 6, p2 := 3, p1 := 45, d := 22 }),
    (0b0111_011000_101100_011010_11101010_0_1, .ratomUmax { sub := 7, p2 := 24, p1 := 44, d := 26 }),
    (0b1000_000001_110100_010011_11101010_0_1, .ratomAnd { sub := 8, p2 := 1, p1 := 52, d := 19 }),
    (0b1001_001110_100000_111111_11101010_0_1, .ratomOr { sub := 9, p2 := 14, p1 := 32, d := 63 }),
    (0b1010_010100_110010_110101_11101010_0_1, .ratomXor { sub := 10, p2 := 20, p1 := 50, d := 53 }),
    (0b1011_001111_011110_001111_11101010_1_1, .ratomXchg { sub := 11, p2 := 15, p1 := 30, d := 15 }),
    (0b1100_110001_111001_010011_11101010_0_1, .ratomCas { sub := 12, p2 := 49, p1 := 57, d := 19 }),
    (0b1101_111101_101000_100000_11101010_0_1, .ratomIncw { sub := 13, p2 := 61, p1 := 40, d := 32 }),
    (0b0000_100000_011011_111011_11101011_0_1, .rflag { sub := 0, p2 := 32, p1 := 27, d := 59 })] : List (Nat × Instr)), decodeTableWord 32 p.1 = some p.2 := by decide +kernel

theorem test_words_q_2 : ∀ p ∈ ([
    (0b0010_111100_011010_000100_11101011_0_1, .rflagAdd { sub := 2, p2 := 60, p1 := 26, d := 4 }),
    (0b0001_000000_000000_111111_11101100_0_1, .rdrainS { sub := 1, p2 := 0, p1 := 0, d := 63 }),
    (0b0000_011011_000100_101110_11101101_0_1, .ropen { sub := 0, p2 := 27, p1 := 4, d := 46 }),
    (0b0000_000000_001100_011010_11101110_1_1, .coll { sub := 0, p2 := 0, p1 := 12, d := 26 }),
    (0b0001_000000_111010_101110_11101110_1_1, .collDef { sub := 1, p2 := 0, p1 := 58, d := 46 }),
    (0b0010_000000_101111_001000_11101110_0_1, .collUndef { sub := 2, p2 := 0, p1 := 47, d := 8 }),
    (0b0000_000000_000000_111100_11101111_0_1, .rclose { sub := 0, p2 := 0, p1 := 0, d := 60 }),
    (0b0000_010110_001101_001100_11110000_1_1, .qsend { sub := 0, p2 := 22, p1 := 13, d := 12 }),
    (0b0000_000011_010100_101011_11110001_1_1, .qrecv { sub := 0, p2 := 3, p1 := 20, d := 43 }),
    (0b0000_110110_011000_010110_11110010_1_1, .qtryRecv { sub := 0, p2 := 54, p1 := 24, d := 22 }),
    (0b0001_001011_000111_000001_11110010_0_1, .qtrySend { sub := 1, p2 := 11, p1 := 7, d := 1 })] : List (Nat × Instr)), decodeTableWord 32 p.1 = some p.2 := by decide +kernel

/-! ## The small machine of the tests below: one launch, one team, one crew with lanes 0 and 2 LIVE and active, its page held by the isle's TLB -/

/-- The crew: at the expert level of every engine, registers as the tests set them. -/
def tC : Crew := { bootCrew with expert := 0x3FF, exm := 5, fr := [(0, { st := .live, resume := 0 }), (2, { st := .live, resume := 0 })], part := 0 }

/-- The machine with crew `c`: in full service, page 0 (64 KiB at 0x110000) translated by the TLB. -/
def tS (c : Crew) : State :=
  { State.reset with
    cur := 2 ^ 26, stage := 0x06, tlbIsle := [(0, 0, 0, 65536, BitVec.ofNat 64 bootLeaf)]
    parts := [(0, { mask := 0xFFFFFFFFFFFFFFFF })]
    launches := [(1, { desc := { lid := 1, regs := 64, accs := 8, team := 1, cohort := 1, shelfg := 1, nsg := 1, scratch := 1024, expert := 0x3FF }, dispatched := [0] })]
    teams := [(2 ^ 26, bootTeam)], crews := [(2 ^ 26, c)] }

/-- Page 0 as translated. -/
def tPg : Pg := leafPg bootLeaf 65536 0

/-- `Clear` but for the crew being there, as a check that computes. -/
def clearOk (s : State) (c : Crew) (i : Instr) (us : List Use) : Bool :=
  c.xir.isNone && !c.saved && c.exm != 0 && i.wf && !(us.any (useBad c)) && (!(lowWater s) || !(lowStops i)) && !c.trace.traced &&
  (!(hazardOn c) || hazardOf c c.seq us == none) && (!(acqHold s s.cur) || !(acqStops i))

theorem clear_iff (s : State) (c : Crew) (i : Instr) (us : List Use) : Clear s c i us ↔ mfind s.crews s.cur = some c ∧ clearOk s c i us = true := by
  unfold clearOk
  simp only [Bool.and_eq_true, bne_iff_ne, Bool.not_eq_true', Bool.or_eq_true, beq_iff_eq, ne_eq, Option.isNone_iff_eq_none]
  constructor
  · rintro ⟨h1, hx, hs, h2, h3, h4, h5, h6, h7, h8⟩
    refine ⟨h1, ⟨⟨⟨⟨⟨⟨⟨hx, hs⟩, h2⟩, h3⟩, h4⟩, h5⟩, h6⟩, ?_⟩, h8⟩
    cases h : hazardOn c
    · exact .inl rfl
    · exact .inr (h7 h)
  · rintro ⟨h1, ⟨⟨⟨⟨⟨⟨⟨hx, hs⟩, h2⟩, h3⟩, h4⟩, h5⟩, h6⟩, h7⟩, h8⟩
    exact ⟨h1, hx, hs, h2, h3, h4, h5, h6, fun h => h7.resolve_left (by simp [h]), h8⟩

/-- A translation came to page `p`. -/
def okPg (r : Except Byte Pg) (p : Pg) : Bool := match r with | .ok q => q == p | .error _ => false
theorem okPg_iff (r : Except Byte Pg) (p : Pg) : okPg r p = true ↔ r = .ok p := by
  cases r <;> simp [okPg]

theorem reaches_iff (s : State) (c : Crew) (sp a w : Nat) (q : Acc) (p : Pg) :
    Reaches s c sp a w q p ↔ addrFault s c sp a w = none ∧ (sp = 0 → okPg (xlate s (whoOf c c.pc) a q).2 p = true) := by
  simp [Reaches, okPg_iff]

/-- The fields of T words in the tests: both sources vector registers 8 and 10; S1 alone; S1 with a literal. -/
def f2 : TF := { s2 := 10, k2 := 0, s1 := 8, k1 := 0, d := 4, e := none }
def f1 : TF := { f2 with s2 := 0 }
def fl : TF := { f2 with s2 := 3, k2 := 3 }
def fs : TF := { s2 := 10, k2 := 1, s1 := 8, k1 := 1, d := 4, e := none }

/-! ## What the statements assume can be met -/

theorem wit_integer_arithmetic : (∀ p ∈ ([(.iadd, f2), (.isub, f2), (.imul, f2), (.imulh, f2), (.umulh, f2), (.imin, f2), (.imax, f2), (.umin, f2), (.umax, f2), (.idiv, f2), (.udiv, f2), (.irem, f2),
    (.urem, f2), (.iadds, f2), (.iadd, fl), (.iadd, fs), (.iadd, { f2 with k1 := 2, s1 := 5 })] : List ((TF → Instr) × TF)), Clear (tS tC) tC (p.1 p.2) (tUses p.2 1 1 1 false) ∧ BankIdle tC p.2) ∧
    Clear (tS tC) tC (.imad f2) (tUses f2 1 1 1 true) ∧ Clear (tS tC) tC (.iabs f1) (tUses f1 1 0 1 false) ∧ BankIdle tC f1 := by
  simp only [clear_iff, BankIdle]; decide +kernel

theorem wit_logic_shifts_moves : (∀ k ∈ ([.and, .or, .xor, .andn, .shl, .shr, .sar, .rotl] : List (TF → Instr)), Clear (tS tC) tC (k f2) (tUses f2 1 1 1 false)) ∧
    (∀ k ∈ ([.popc, .clz, .brev, .mov] : List (TF → Instr)), Clear (tS tC) tC (k f1) (tUses f1 1 0 1 false)) ∧ BankIdle tC f2 ∧ BankIdle tC f1 := by
  simp only [clear_iff, BankIdle]; decide +kernel

theorem wit_fields_sel_movs : Clear (tS tC) tC (.bfx f2) (tUses f2 1 1 1 false) ∧ Clear (tS tC) tC (.bfi f2) (tUses f2 1 1 1 true) ∧ Clear (tS tC) tC (.sel f2) (tUses f2 1 1 1 true) ∧
    Clear (tS tC) tC (.movs f1) (tUsesS f1 0) ∧ BankIdle tC f2 ∧ BankIdle tC f1 := by
  simp only [clear_iff, BankIdle]; decide +kernel

theorem wit_comparisons : (∀ k ∈ ([.iseteq, .isetne, .isetlt, .isetle, .usetlt, .usetle] : List (TF → Instr)), Clear (tS tC) tC (k f2) (tUses f2 1 1 1 false)) ∧
    (∀ k ∈ ([.mskeq, .mskne, .msklt, .mskle, .umsklt] : List (TF → Instr)), Clear (tS tC) tC (k f2) (tUsesS f2 1)) ∧ Clear (tS tC) tC (.ballot f1) (tUsesS f1 0) ∧
    BankIdle tC f2 ∧ BankIdle tC f1 := by
  simp only [clear_iff, BankIdle]; decide +kernel

theorem wit_wide_arithmetic : (∀ k ∈ ([.iadd64, .isub64, .imul64] : List (TF → Instr)), Clear (tS tC) tC (k f2) (tUses f2 2 2 2 false)) ∧ Clear (tS tC) tC (.lea f2) (tUses f2 2 1 2 false) ∧
    BankIdle tC f2 ∧ oddConst f2.k1 f2.s1 2 = false ∧ oddConst f2.k2 f2.s2 2 = false := by
  simp only [clear_iff, BankIdle]; decide +kernel

theorem wit_shuffles_and_groups : (∀ k ∈ ([.shfl, .shflx] : List (TF → Instr)), Clear (tS tC) tC (k f2) (tUses f2 1 1 1 false)) ∧ Clear (tS tC) tC (.confl f1) (tUses f1 1 0 1 false) ∧
    Clear (tS tC) tC (.bcast fl) (tUses fl 1 1 1 false) ∧ fl.k1 = 0 ∧ fl.k2 ≠ 0 ∧
    (∀ k ∈ ([.redadd, .scanadd, .redmin, .redmax] : List (TF → Instr)), Clear (tS tC) tC (k f1) (tUses f1 1 0 1 false)) ∧
    (∀ k ∈ ([.argmin, .argmax, .fredx] : List (TF → Instr)), Clear (tS tC) tC (k f1) (tUses f1 1 0 2 false)) ∧
    (∀ k ∈ ([.ksum, .ksumf] : List (TF → Instr)), Clear (tS tC) tC (k f2) (tUses f2 1 1 1 false)) ∧ BankIdle tC f2 ∧ BankIdle tC f1 ∧ BankIdle tC fl := by
  simp only [clear_iff, BankIdle]; decide +kernel

theorem wit_f32_arithmetic : (∀ k ∈ ([.fadd, .fsub, .fmul, .fdiv, .fmin, .fmax] : List (TF → Instr)), Clear (tS tC) tC (k f2) (tUses f2 1 1 1 false)) ∧
    (∀ k ∈ ([.fabs, .fneg, .fsqrt, .frcp, .frsq] : List (TF → Instr)), Clear (tS tC) tC (k f1) (tUses f1 1 0 1 false)) ∧ Clear (tS tC) tC (.fma f2) (tUses f2 1 1 1 true) ∧
    BankIdle tC f2 ∧ BankIdle tC f1 := by
  simp only [clear_iff, BankIdle]; decide +kernel

theorem wit_f32_functions_and_comparisons : (∀ k ∈ ([.fexp2, .flog2, .fsin, .fcos, .fclass, .frint, .ffloor, .fceil, .ftrunc] : List (TF → Instr)), Clear (tS tC) tC (k f1) (tUses f1 1 0 1 false)) ∧
    Clear (tS tC) tC (.ferradd f2) (tUses f2 1 1 2 false) ∧ Clear (tS tC) tC (.ferrmul f2) (tUses f2 1 1 4 false) ∧
    (∀ k ∈ ([.fseteq, .fsetlt, .fsetle, .fsetun] : List (TF → Instr)), Clear (tS tC) tC (k f2) (tUses f2 1 1 1 false)) ∧
    (∀ k ∈ ([.fmskeq, .fmsklt, .fmskle, .fmskun] : List (TF → Instr)), Clear (tS tC) tC (k f2) (tUsesS f2 1)) ∧ BankIdle tC f2 ∧ BankIdle tC f1 := by
  simp only [clear_iff, BankIdle]; decide +kernel

theorem wit_f64_arithmetic : (∀ k ∈ ([.dadd, .dsub, .dmul, .ddiv, .dmin, .dmax] : List (TF → Instr)), Clear (tS tC) tC (k f2) (tUses f2 2 2 2 false)) ∧
    (∀ k ∈ ([.dsqrt, .dabs] : List (TF → Instr)), Clear (tS tC) tC (k f1) (tUses f1 2 0 2 false)) ∧ Clear (tS tC) tC (.dfma f2) (tUses f2 2 2 2 true) ∧
    (∀ k ∈ ([.dseteq, .dsetlt, .dsetle] : List (TF → Instr)), Clear (tS tC) tC (k f2) (tUses f2 2 2 1 false)) ∧ BankIdle tC f2 ∧ BankIdle tC f1 ∧
    oddConst f2.k1 f2.s1 2 = false ∧ oddConst f2.k2 f2.s2 2 = false := by
  simp only [clear_iff, BankIdle]; decide +kernel

theorem wit_conversions : (∀ n ∈ List.range 30, let f := { f2 with k2 := 3, s2 := BitVec.ofNat 6 n }
      Clear (tS tC) tC (.cvt f) (tUses f (if n ∈ [4, 6, 7, 16, 17, 18, 19, 20, 27, 29] then 2 else 1) 0 (if n ∈ [5, 8, 9, 16, 17, 18, 19, 21, 28] then 2 else 1) false) ∧
      BankIdle tC f ∧ oddConst f.k1 f.s1 2 = false ∧ f.k2 = 3 ∧ f.s2.toNat ≤ 29 ∧ lowWater (tS tC) = false) ∧
    (∀ p ∈ ([(.icvtf f1, 1, 1), (.ucvtf f1, 1, 1), (.fcvti f1, 1, 1), (.fcvtn f1, 1, 1), (.dcvtf f1, 2, 1), (.fcvtd f1, 1, 2)] : List (Instr × Nat × Nat)),
      Clear (tS tC) tC p.1 (tUses f1 p.2.1 0 p.2.2 false)) ∧ BankIdle tC f1 := by
  simp only [clear_iff, BankIdle]; decide +kernel
/-- CVT of another kind, of code 30 and 31, and of code 0, which names H16, in low-water service. -/
theorem wit_bad_conversions : (∀ f ∈ [{ f2 with k2 := 0 }, { f2 with k2 := 3, s2 := 30 }, { f2 with k2 := 3, s2 := 31 }], mfind (tS tC).crews (tS tC).cur = some tC ∧ tC.xir = none ∧ tC.trace.traced = false ∧ (f.k2 ≠ 3 ∨ 29 < f.s2.toNat)) ∧
    lowWater { tS tC with stage := 0x04 } = true := by decide +kernel

theorem wit_packed_halves : (∀ k ∈ ([.packh, .packb, .hadd2, .hmul2] : List (TF → Instr)), Clear (tS tC) tC (k f2) (tUses f2 1 1 1 false)) ∧
    (∀ k ∈ ([.unpkh, .unpkb] : List (TF → Instr)), Clear (tS tC) tC (k f1) (tUses f1 1 0 2 false)) ∧
    (∀ k ∈ ([.hfma2, .bfma2] : List (TF → Instr)), Clear (tS tC) tC (k f2) (tUses f2 1 1 1 true)) ∧ BankIdle tC f2 ∧ BankIdle tC f1 ∧ lowWater (tS tC) = false := by
  simp only [clear_iff, BankIdle]; decide +kernel

/-- A value between two neighbours of F32, 2^24 + 1, rounded in each direction. -/
theorem wit_rounding : F32 ∈ [F64, F32, H16, B16, A80] ∧ 0 < 2 ^ 24 + 1 ∧ (fround F32 0 false (2 ^ 24 + 1) 0).1 = 0x4B800000 ∧
    (fround F32 2 false (2 ^ 24 + 1) 0).1 = 0x4B800001 ∧ (fround F32 3 true (2 ^ 24 + 1) 0).1 = 0xCB800001 := by decide +kernel

/-- Scalars 10 and 11 hold a good control word and a good `e` (b = 8), and in the second crew bad ones (b = 1, b = 9). -/
def tB8 : Crew := { tC with sreg := [(10, 8), (11, 0x800)] }
def tB1 : Crew := { tC with sreg := [(10, 1), (11, 0x900)] }
def fc : TF := { f2 with k2 := 1 }
def fe : TF := { f2 with k2 := 1, s2 := 11 }
theorem wit_block_floating_point : (∀ c ∈ [tB8, tB1], Clear (tS c) c (.bfpenc fc) (tUses fc 1 1 2 false) ∧ Clear (tS c) c (.bfpdec fe) (tUses fe 1 1 1 false) ∧ lowWater (tS c) = false ∧ BankIdle c fe) ∧
    fc.k1 = 0 ∧ fc.k2 ≠ 0 ∧ (opB (seen (tS tB8) tB8) .i32 fc 0).toNat = 8 ∧ (opB (seen (tS tB1) tB1) .i32 fc 0).toNat % 16 < 2 ∧
    (∀ L ∈ lanes tB8.exm, (opB (seen (tS tB8) tB8) .i32 fe L).toNat / 256 % 16 = 8) ∧ 0 ∈ lanes tB1.exm ∧ 8 < (opB (seen (tS tB1) tB1) .i32 fe 0).toNat / 256 % 16 := by
  simp only [clear_iff, BankIdle]; decide +kernel

theorem wit_k_words : (∀ k ∈ ([.kIadd, .kIsub, .kAnd, .kOr, .kXor, .kFadd, .kFsub, .kFmul, .kFmax, .kFmin] : List (KF → Instr)),
      Clear (tS tC) tC (k { s := 9, d := 5 }) [useV 5 1 false, useV 9 1 false, useV 5 1 true]) ∧ Clear (tS tC) tC (.kMov { s := 9, d := 5 }) [useV 9 1 false, useV 5 1 true] ∧
    (∀ k ∈ ([.kShli, .kShri, .kIaddi] : List (KF → Instr)), Clear (tS tC) tC (k { s := 31, d := 5 }) [useV 5 1 false, useV 5 1 true]) := by
  simp only [clear_iff]; decide +kernel

/-- A crew in a handler; index 0x7FF is assigned to no register. -/
def tH : Crew := { tC with tdepth := 1 }
theorem wit_immediates_and_rdsr : Clear (tS tC) tC (.ldi { imm := 0xFFFF, d := 5 }) [useV 5 1 true] ∧ Clear (tS tC) tC (.ldih { imm := 1, d := 5 }) [useV 5 1 false, useV 5 1 true] ∧
    (∀ f ∈ ([⟨0x000, 5⟩, ⟨0x010, 5⟩, ⟨0x011, 5⟩, ⟨0x031, 5⟩, ⟨0x7FF, 5⟩] : List IF), Clear (tS tC) tC (.rdsr f) [useV 5 1 true]) ∧ Clear (tS tH) tH (.rdsr { imm := 0x7FF, d := 5 }) [useV 5 1 true] ∧
    (srRead (tS tC) (tS tC).cur tC 0 0x010).isSome = true ∧ srRead (tS tH) (tS tH).cur tH 0 0x7FF = none ∧ tH.tdepth ≠ 0 := by
  simp only [clear_iff]; decide +kernel

/-! ### Memory -/

/-- Scalars 0 and 1 hold the address 0x100; lane 2 of vector 9 holds 1. -/
def tM : Crew := { tC with sreg := [(0, 0x100)], v := [(32 * 9 + 2, 1)] }
/-- The global space, the scratchpad and the constant banks at that address. -/
def m0 : MF := { os := 0, sp := 0, b := 0, a := 0, d := 8 }
def m1 : MF := { m0 with sp := 1 }
def m2 : MF := { m0 with sp := 2 }
/-- The same with vector 9 added: lane 2 is at an odd address. -/
def m9 : MF := { m0 with a := 9 }
/-- The same with vector 11 added, which holds zeros. -/
def m11 : MF := { m0 with a := 11 }

theorem wit_loads : (∀ p ∈ ([(.ldbs, 1, 1), (.ldbz, 1, 1), (.ldhs, 2, 1), (.ldhz, 2, 1), (.ldw, 4, 1), (.ldd, 8, 2), (.ldq, 16, 4)] : List ((MF → Instr) × Nat × Nat)),
      ∀ f ∈ [m0, m1, m2], Clear (tS tM) tM (p.1 f) (addrUses f ++ [useV f.d p.2.2 true]) ∧ f.sp ≠ 3 ∧ f.os.toNat ≤ 4 ∧ (f.sp = 2 → f.os = 0) ∧
        ∀ L ∈ lanes tM.exm, Reaches (tS tM) tM f.sp.toNat (addrOf (seen (tS tM) tM) f L) p.2.1 .rd tPg ∧ (f.sp = 2 → tM.ldcBusy.any (fun b => b.1 == addrOf (seen (tS tM) tM) f L / 256) = false)) ∧
    (countedIds tM).length < 16 ∧ Intact (tS tM) ∧
    (m11.sp = 0 ∧ m11.b ≠ 31 ∧ m11.a ≠ 0 ∧ Clear (tS tM) tM (.ldg m11) (addrUses m11 ++ [useV m11.d 1 true]) ∧
      ∀ L ∈ lanes tM.exm, Reaches (tS tM) tM 0 (addrOf (seen (tS tM) tM) m11 L) 4 .rd tPg) ∧
    (let f : MF := { os := 0, sp := 0, b := 31, a := 6, d := 8 }
     Clear (tS tM) tM (.kLdw { s := 6, d := 8 }) (addrUses f ++ [useV f.d 1 true]) ∧ ∀ L ∈ lanes tM.exm, Reaches (tS tM) tM 0 (addrOf (seen (tS tM) tM) f L) 4 .rd tPg) := by
  simp only [clear_iff, reaches_iff, Intact]; decide +kernel

theorem wit_misaligned_loads : (∀ p ∈ ([(.ldhs, 2, 1), (.ldhz, 2, 1), (.ldw, 4, 1), (.ldd, 8, 2), (.ldq, 16, 4)] : List ((MF → Instr) × Nat × Nat)),
      Clear (tS tM) tM (p.1 m9) (addrUses m9 ++ [useV m9.d p.2.2 true]) ∧ 2 ∈ lanes tM.exm ∧ addrOf (seen (tS tM) tM) m9 2 % p.2.1 ≠ 0 ∧
      (∀ K ∈ lanes tM.exm, K < 2 → addrOf (seen (tS tM) tM) m9 K % p.2.1 = 0) ∧
      ∀ K ∈ lanes tM.exm, addrFault (tS tM) tM 0 (addrOf (seen (tS tM) tM) m9 K) p.2.1 ≠ none ∨ Reaches (tS tM) tM 0 (addrOf (seen (tS tM) tM) m9 K) p.2.1 .rd tPg) := by
  simp only [clear_iff, reaches_iff]; decide +kernel

/-- The pages of lanes 0 and 2, whatever memory holds: the TLB has the translation. -/
theorem tM_reaches (m : Map Byte) (q : Acc) (w : Nat) (hw : 0x100 % w = 0) : Reaches { tS tM with mem := m } tM 0 0x100 w q tPg := by
  refine ⟨?_, fun _ => ?_⟩
  · unfold addrFault
    rw [if_neg (by simp [hw])]
    rfl
  · cases q <;> rfl

theorem wit_stores : (∀ p ∈ ([(.stb, 1, 1), (.sth, 2, 1), (.stw, 4, 1), (.std, 8, 2), (.stq, 16, 4)] : List ((MF → Instr) × Nat × Nat)), ∀ f ∈ [m0, m1],
      Clear (tS tM) tM (p.1 f) ([useV f.d p.2.2 false] ++ addrUses f) ∧ f.os.toNat ≤ 4 ∧ ∀ L ∈ lanes tM.exm, addrOf (seen (tS tM) tM) f L = 0x100 ∧ Reaches (tS tM) tM 1 0x100 p.2.1 .wr tPg) ∧
    Clear (tS tM) tM (.stg m11) ([useV m11.d 1 false] ++ addrUses m11) ∧ (∀ L ∈ lanes tM.exm, addrOf (seen (tS tM) tM) m11 L = 0x100) ∧
    (countedIds tM).length < 16 ∧ Intact (tS tM) ∧ (tS tM).regions = [] ∧ tPg.ord = false := by
  simp only [clear_iff, reaches_iff, Intact]; decide +kernel
theorem wit_stores_reach : ∀ w ∈ [1, 2, 4, 8, 16], ∀ m : Map Byte, Reaches { tS tM with mem := m } tM 0 0x100 w .wr tPg :=
  fun w hw m => tM_reaches m .wr w (by revert w; decide)

/-- The same crew, of a strict launch whose token it holds. -/
def tMs : Crew := { tM with strict := true }
theorem wit_atomics : (∀ c ∈ [tM, tMs], ∀ p ∈ ([(.aadd, 4, 1, true), (.aaddf, 4, 1, true), (.aaddd, 8, 2, true), (.amin, 4, 1, true), (.amax, 4, 1, true), (.aumin, 4, 1, true), (.aumax, 4, 1, true),
      (.aand, 4, 1, true), (.aor, 4, 1, true), (.axor, 4, 1, true), (.axchg, 4, 1, true), (.acas, 4, 2, true), (.aincw, 4, 1, true), (.aaddn, 4, 1, false), (.aaddfn, 4, 1, false)] :
      List ((MF → Instr) × Nat × Nat × Bool)), ∀ f ∈ [m0, m1],
      Clear (tS c) c (p.1 f) ([useV f.d p.2.2.1 false] ++ addrUses f ++ (if p.2.2.2 then [{ file := .vector, idx := f.d.toNat, n := p.2.1 / 4, al := 1, wr := true }] else [])) ∧ f.os.toNat ≤ 4 ∧
        ∀ L ∈ lanes c.exm, addrOf (seen (tS c) c) f L = 0x100 ∧ Reaches (tS c) c 1 0x100 p.2.1 .rw tPg) ∧
    (countedIds tM).length < 16 ∧ Intact (tS tM) ∧ (tS tM).regions = [] ∧ tPg.ord = false ∧ holdsToken (tS tMs) tMs = true := by
  simp only [clear_iff, reaches_iff, Intact]; decide +kernel
theorem wit_atomics_reach : ∀ w ∈ [4, 8], ∀ m : Map Byte, Reaches { tS tM with mem := m } tM 0 0x100 w .rw tPg :=
  fun w hw m => tM_reaches m .rw w (by revert w; decide)

/-- Two formatted pages: F32 elements at 0x10000, BFP8 blocks of 16 elements at 0x20000. -/
def tF (c : Crew) : State := { tS c with tlbIsle := [(0, 0, 0x10000, 65536, BitVec.ofNat 64 (0x12003D + 2 ^ 52)), (0, 0, 0x20000, 65536, BitVec.ofNat 64 (0x13003D + 14 * 2 ^ 52))] }
def tPf : Pg := leafPg (0x12003D + 2 ^ 52) 65536 0x10000
def tPb : Pg := leafPg (0x13003D + 14 * 2 ^ 52) 65536 0x20000
def cF : Crew := { tC with sreg := [(0, 0x10100)] }
def cB : Crew := { tC with sreg := [(0, 0x20000)] }

theorem wit_formatted_loads : (∀ p ∈ [(cF, tPf), (cB, tPb)], Clear (tF p.1) p.1 (.ldf m0) (addrUses m0 ++ [useV m0.d 1 true]) ∧ Clear (tF p.1) p.1 (.ldgf m11) (addrUses m11 ++ [useV m11.d 1 true]) ∧
      noFormat p.2 = false ∧ p.2.sparse = false ∧ ∀ L ∈ lanes p.1.exm, addrOf (seen (tF p.1) p.1) m0 L < 2 ^ 56 ∧ okPg (xlate (tF p.1) (whoOf p.1 p.1.pc) (addrOf (seen (tF p.1) p.1) m0 L) .rd).2 p.2 = true) ∧
    isBfp tPf.fmt = false ∧ isBfp tPb.fmt = true ∧ (geomN tPb.geom).getD 16 = 16 ∧ widen 1 (rdN (tF cF) (tPf.pa 0x10100) 4) = 0 ∧
    (∀ L ∈ lanes cB.exm, (match (blockElems (tF cB) (whoOf cB cB.pc) tPb 16 (blockBytes 8 16) 0x20000 [L % 16]).2 with | .ok w => w == [0] | .error _ => false) = true) ∧
    (countedIds cF).length < 16 ∧ Intact (tF cF) ∧ m0.os.toNat ≤ 4 ∧ m11.b ≠ 31 ∧ m11.a ≠ 0 := by
  simp only [clear_iff, Intact]; decide +kernel

theorem wit_formatted_stores : Clear (tF cF) cF (.stf m0) ([useV m0.d 1 false] ++ addrUses m0) ∧ (tF cF).regions = [] ∧ cF.strict = false ∧
    pairHazard (started (tF cF) cF) (ctxOf (tF cF) cF (.stf m0)) m0 false = none := by
  simp only [clear_iff]; decide +kernel
theorem wit_formatted_stores_lanes : ∀ L ∈ lanes cF.exm, (stfJudge (started (tF cF) cF) (ctxOf (tF cF) cF (.stf m0)) m0 L).2 = .elem tPf (addrOf (seen (tF cF) cF) m0 L) := by
  intro L hL
  have : L = 0 ∨ L = 2 := by revert L; decide
  rcases this with rfl | rfl <;> rfl

/-- Lane 0 names slot 1023 and lane 2 slot 1024, and in the second crew both name slot 1023. -/
def cTag : Crew := { tC with v := [(32 * 9, 1023), (32 * 9 + 2, 1024)] }
def cTag1 : Crew := { tC with v := [(32 * 9, 1023), (32 * 9 + 2, 1023)] }
def mtag : MF := { os := 0, sp := 1, b := 31, a := 8, d := 9 }
theorem wit_tag_stores : (∀ c ∈ [cTag, cTag1], Clear (tS c) c (.tlook mtag) [useV mtag.a 1 false, useV mtag.d 1 true] ∧ Clear (tS c) c (.tset mtag) [useV mtag.d 1 false, useV mtag.a 1 false] ∧
      Clear (tS c) c (.tdrop { mtag with d := 0 }) [useV mtag.a 1 false] ∧ Clear (tS c) c .tinv [] ∧ (countedIds c).length < 16) ∧
    (∀ L ∈ lanes cTag1.exm, (vget (seen (tS cTag1) cTag1) 9 L).toNat < 1024) ∧ 2 ∈ lanes cTag.exm ∧ 1024 ≤ (vget (seen (tS cTag) cTag) 9 2).toNat ∧
    (∀ K ∈ lanes cTag.exm, K < 2 → (vget (seen (tS cTag) cTag) 9 K).toNat < 1024) := by
  simp only [clear_iff]; decide +kernel

theorem wit_constant_banks : (∀ f ∈ [{ m0 with d := 15 }, { m1 with d := 15 }], Clear (tS tM) tM (.ldc f) (addrUses f) ∧ f.sp.toNat ≤ 1 ∧ f.os = 0 ∧ f.b ≠ 31 ∧ f.a = 0 ∧ f.d.toNat < 16 ∧
      addrOf (seen (tS tM) tM) f 0 = 0x100 ∧ ∀ n ∈ List.range 64, Reaches (tS tM) tM f.sp.toNat (0x100 + 4 * n) 4 .rd tPg) ∧
    (countedIds tM).length < 16 ∧ Intact (tS tM) ∧ 0x100 + 256 ≤ (teamAt (tS tM) tM.teamKey).size := by
  simp only [clear_iff, reaches_iff, Intact]; decide +kernel

/-- PFETCH with B = 0 and A = 0, FENCE with OS = 4, in the issue register; a crew that waits for the token. -/
theorem wit_token_prefetch_fence : (∀ c ∈ [tC, { tC with strict := true }, { tC with strict := true, lcid := 1 }], Clear (tS c) c .tokp [] ∧ Clear (tS c) c .nop [] ∧ Clear (tS c) c .kNop []) ∧
    Clear (tS tC) tC .tokw [] ∧ (let c := { tC with strict := true }
      Clear (tS c) c .tokw [] ∧ holdsToken (tS c) c = true) ∧ (let c := { tC with strict := true, lcid := 1 }
      c.strict = true ∧ holdsToken (tS c) c = false) ∧
    Clear (tS tC) tC .pfetch (addrUses { os := 0, sp := 0, b := 0, a := 0, d := 0 }) ∧ auxOk .pfetch 0 = true ∧ (let s := { tS tC with ir := { aux := BitVec.ofNat 22 (4 * 2 ^ 19) } }
      Clear s tC .fence [] ∧ auxOk .fence s.ir.aux = true ∧ (s.ir.aux >>> 19).toNat ≤ 4) := by
  simp only [clear_iff]; decide +kernel

/-! ### Special registers, control flow, barriers -/

/-- Indexes of each clause: exm, both halves of a stamp, rnd, fflags, cbank, the trap registers, hazchk, a read-only one, and an unassigned one. -/
def srs : List IF := [⟨0x00, 8⟩, ⟨0x20, 8⟩, ⟨0x21, 8⟩, ⟨0x30, 8⟩, ⟨0x31, 8⟩, ⟨0x32, 8⟩, ⟨0x41, 8⟩, ⟨0x42, 8⟩, ⟨0x43, 8⟩, ⟨0x44, 8⟩, ⟨0x45, 8⟩, ⟨0x48, 8⟩, ⟨0x01, 8⟩, ⟨0x7FF, 8⟩]
theorem wit_special_register_writes : (∀ c ∈ [tC, tH], ∀ f ∈ srs, Clear (tS c) c (.wrsr f) [useV f.d 1 false]) ∧ expertOf tC 0 = true ∧
    (let c := { tC with expert := 0 }
     Clear (tS c) c (.wrsr ⟨0x48, 8⟩) [useV 8 1 false] ∧ expertOf c 0 = false ∧ (srRead (tS c) (tS c).cur c 0 0x48).isSome = true) ∧
    (srRead (tS tH) (tS tH).cur tH 0 0x01).isSome = true ∧ srRead (tS tH) (tS tH).cur tH 0 0x7FF = none ∧ tH.tdepth ≠ 0 ∧ tC.tdepth = 0 := by
  simp only [clear_iff]; decide +kernel

/-- In the second crew the lanes' addresses are good; in the third lane 2's is odd and in the fourth at 2^56. -/
def cJ (a : Word) (b : Word) : Crew := { tC with v := [(32 * 8 + 2, a), (32 * 9 + 2, b)] }
theorem wit_branches : (∀ k ∈ ([.brz, .brs] : List (BF → Instr)), Clear (tS tC) tC (k ⟨0x8000, 8⟩) [useV 8 1 false]) ∧ Clear (tS tC) tC (.bra ⟨0x7FFF, 0⟩) [] ∧ Clear (tS tC) tC (.bru ⟨3, 8⟩) [useS 8 1 false] ∧
    Clear (tS tC) tC (.call ⟨3, 8⟩) [useV 8 2 true] ∧
    (∀ c ∈ [cJ 0x40 0, cJ 0x41 0, cJ 0 (2 ^ 24)], Clear (tS c) c (.brx { f1 with d := 0 }) (useSrc 0 8 2) ∧ Clear (tS c) c (.ret { f1 with d := 0 }) [useV 8 2 false]) ∧
    (∀ L ∈ lanes 5, (vget2 (seen (tS (cJ 0x40 0)) (cJ 0x40 0)) 8 L).getLsbD 0 = false ∧ (vget2 (seen (tS (cJ 0x40 0)) (cJ 0x40 0)) 8 L).toNat < 2 ^ 56) ∧
    (vget2 (cJ 0x41 0) 8 0).toNat = 0 ∧ (vget2 (cJ 0x41 0) 8 2).getLsbD 0 = true ∧ 2 ^ 56 ≤ (vget2 (cJ 0 (2 ^ 24)) 8 2).toNat := by
  simp only [clear_iff]; decide +kernel

/-- EXIT with no lane left, with lane 1 LIVE elsewhere, and in a handler. -/
def cX : Crew := { tC with fr := [(0, { st := .live, resume := 0 }), (1, { st := .live, resume := 8 }), (2, { st := .live, resume := 0 })] }
theorem wit_exit : (∀ c ∈ [tC, cX, { cX with tdepth := 1 }], Clear (tS c) c .exit [] ∧ c.timeline = false) ∧ tC.tdepth = 0 ∧ tC.held = [] ∧
    (cX.exm.getLsbD 1 = false ∧ (frGet cX.fr 1).st = .live) := by
  simp only [clear_iff]; decide +kernel

theorem wit_yield_and_sleep : Clear (tS tC) tC .yield [] ∧ Clear (tS tC) tC (.sleep ⟨0, 8⟩) [useS 8 1 false] ∧ Clear (tS tC) tC (.sleepClk ⟨0x1000, 8⟩) [useS 8 2 false] ∧
    Clear (tS tC) tC (.sleepCount ⟨0x2FFF, 0⟩) [] ∧ (let s := { tS { tC with wait := .yield 0 } with clock := 64, arg := { crew := 2 ^ 26 } }
      (crewAt s s.arg.crew).wait = .yield 0 ∧ 0 + 64 ≤ s.clock) ∧ (let s := { tS { tC with wait := .sleep 64 } with clock := 64, arg := { crew := 2 ^ 26 } }
      (crewAt s s.arg.crew).wait = .sleep 64 ∧ 64 ≤ s.clock) := by
  simp only [clear_iff]; decide +kernel

/-- Scalar 8 names the object at 1008, the last of the scratchpad, with COUNT 2 and PENDING 1; scalar 10 holds 65,535. The first team's object is plain, the second's convergent. -/
def cBar : Crew := { tC with sreg := [(8, 1008), (10, 65535)] }
def tBar (conv : Bool) : State := { tS cBar with teams := [(2 ^ 26, { bootTeam with
  scratch := if conv then [(1008, 16), (1010, 2), (1012, 1)] else [(1010, 2), (1012, 1)], conv := if conv then [1008] else [] })] }
/-- The same object with PENDING 0 and bytes still to come in, so that arrivals wait. -/
def tBar0 (conv : Bool) : State := { tS cBar with teams := [(2 ^ 26, { bootTeam with
  scratch := if conv then [(1008, 16), (1010, 2), (1016, 1)] else [(1010, 2), (1016, 1)], conv := if conv then [1008] else [] })] }
def fb : TF := { s2 := 0, k2 := 0, s1 := 8, k1 := 1, d := 0, e := none }
theorem wit_barriers : (let s := tBar false
      Clear s cBar (.bar fb) (useSrc 1 8 1) ∧ Clear s cBar (.bara { fb with d := 4 }) (useSrc 1 8 1 ++ [useS 4 1 true]) ∧ Clear s cBar (.barw { fb with s2 := 15, k2 := 3 }) (useSrc 1 8 1) ∧
      (∀ d ∈ [0, 1], Clear s cBar (.bari { fb with s2 := 10, k2 := 1, d := BitVec.ofNat 6 d }) (useSrc 1 8 1 ++ useSrc 1 10 1)) ∧
      barConv (teamAt s cBar.teamKey) 1008 = false ∧ scN (teamAt s cBar.teamKey) (1008 + 4) 4 ≠ 0 ∧ (teamAt s cBar.teamKey).conv.length < 4 ∧ 1008 + 16 ≤ (teamAt s cBar.teamKey).size) ∧
    (let s := tBar true
     Clear s cBar (.barc fb) (useSrc 1 8 1) ∧ barConv (teamAt s cBar.teamKey) 1008 = true ∧ scN (teamAt s cBar.teamKey) (1008 + 4) 4 ≠ 0 ∧ 1008 ∈ (teamAt s cBar.teamKey).conv) ∧
    (∀ v ∈ [true, false], barConv (teamAt (tBar0 v) cBar.teamKey) 1008 = v ∧ scN (teamAt (tBar0 v) cBar.teamKey) (1008 + 4) 4 = 0) ∧
    (Clear (tBar0 false) cBar (.bar fb) (useSrc 1 8 1) ∧ Clear (tBar0 false) cBar (.bara { fb with d := 4 }) (useSrc 1 8 1 ++ [useS 4 1 true]) ∧ Clear (tBar0 true) cBar (.barc fb) (useSrc 1 8 1)) ∧
    (∀ p ∈ (tBar false).crews, p.2.teamKey = 2 ^ 26 → ∀ w ∈ p.2.wait :: p.2.waits, arrives 1008 w = false) ∧
    (∀ L ∈ List.range 32, (frGet cBar.fr L).st = .absent ∨ frGet cBar.fr L = { st := .live, resume := cBar.pc }) ∧ BankIdle cBar fb ∧
    (opA (seen (tBar false) cBar) .i32 fb 0).toNat = 1008 ∧ (opB (seen (tBar false) cBar) .i32 { fb with s2 := 10, k2 := 1 } 0).toNat = 65535 ∧ (mfind (tBar false).teams (2 ^ 26)).isSome = true := by
  simp only [clear_iff, BankIdle]; decide +kernel

/-! ### Traps and returns -/

/-- A precise trap at depth 0 and at depth 1; then at depth 2 and without a vector. -/
def rq : TrapReq := { cause := 0x05, tva := 1, tmask := 5, pcAt := 0, pcNext := 4 }
theorem wit_trap_entry : (∀ c ∈ [tC, tH], mfind (tS c).crews (2 ^ 26) = some c ∧ c.pend = [] ∧ c.park = none ∧ pagesFirst c rq = none ∧ c.vecBase = some 0x8000 ∧
      rq.pcAt = c.text + (0 : Word).signExtend 56 ∧ c.tdepth.toNat < 2 ∧ c.trace.traced = false ∧ rq.tmask &&& ~~~rq.pcm ≠ 0) ∧
    (∀ c ∈ [{ tC with tdepth := 2 }, { tC with vecBase := none }, { tC with text := BitVec.ofNat 56 (2 ^ 40) }], mfind (tS c).crews (2 ^ 26) = some c ∧ c.pend = [] ∧ c.park = none ∧ pagesFirst c rq = none ∧
      (c.vecBase = none ∨ c.tdepth = 2 ∨ tpcOf c.text rq.pcAt = none)) := by
  decide +kernel

/-- A crew of a strict launch: vector 8 has an outstanding producer; a crew with too few registers. -/
def cHz : Crew := { tC with strict := true, pend := [{ id := 7, kind := .memory, ready := false, drains := true, targets := [{ file := .vector, idx := 8, lane := 0, val := 0 }] }] }
theorem wit_traps_at_issue : Clear (tS tC) tC (.trap { fb with s1 := 3, k1 := 3 }) (useSrc 3 3 1) ∧ BankIdle tC fb ∧
    (∀ c ∈ [tC, cHz, { tC with nregs := 8 }], mfind (tS c).crews (tS c).cur = some c ∧ c.xir = none ∧ c.trace.traced = false ∧ c.tdepth = 0 ∧ c.saving = none) ∧ lowWater (tS tC) = false ∧
    (Instr.iadd { f2 with e := some 1 }).wf = false ∧ (tUses f2 1 1 1 false).any (useBad { tC with nregs := 8 }) = true ∧
    (Instr.iadd f2).wf = true ∧ (tUses f2 1 1 1 false).any (useBad cHz) = false ∧ hazardOn cHz = true ∧ hazardOf cHz cHz.seq (tUses f2 1 1 1 false) = some 8 := by
  simp only [clear_iff, BankIdle]; decide +kernel

/-- In a handler of depth 1 after a precise trap, and after an imprecise one; of depth 2. -/
def cR (d : BitVec 2) (tsr : Word) : Crew := { tC with tdepth := d, bank1 := { tsr := tsr, tmask := 5, pcm := 1 }, bank2 := { tsr := tsr, tmask := 5 } }
theorem wit_returns : (∀ c ∈ [cR 1 5, cR 2 5], Clear (tS c) c .rett [] ∧ c.tdepth ≠ 0 ∧ c.tdepth ≠ 3 ∧ (bankOf c).tsr.getLsbD 8 = false) ∧
    (∀ c ∈ [cR 1 5, cR 1 0x110, cR 2 0x110], Clear (tS c) c .rettSkip [] ∧ c.tdepth ≠ 0 ∧ c.tdepth ≠ 3) ∧
    Clear (tS tC) tC (.svc { fb with k2 := 1, d := 4 }) (useSrc 1 8 1 ++ useSrc 1 0 1 ++ [useS 4 1 true]) ∧ BankIdle tC fb ∧ (∀ i ∈ [.ctxsw, .ctxswHalt], Clear (tS tH) tH i []) := by
  simp only [clear_iff, BankIdle]; decide +kernel

/-- A returned result of vector 8 in lane 0, and the event that delivers it. -/
def cP : Crew := { tC with pend := [{ id := 7, kind := .memory, ready := true, drains := true, targets := [{ file := .vector, idx := 8, lane := 0, val := 3 }] }] }
theorem wit_results_return : let s := { tS cP with arg := { crew := 2 ^ 26, a := 7 } }
    mfind s.crews s.arg.crew = some cP ∧ (cP.pend.find? (fun q => q.id == s.arg.a)).isSome = true ∧ (∀ p ∈ cP.pend, p.ready = true ∧ ∀ g ∈ p.targets, g.contended = false ∧ (g.file = .vector → laneEnded cP g.lane = false)) ∧
      cP.saved = false ∧ cP.saving = none ∧ cP.held = [] := by
  decide +kernel

/-- Page 0 without R: its loads are denied. -/
def tNoR : State := { tS tM with tlbIsle := [(0, 0, 0, 65536, BitVec.ofNat 64 (bootText + 0x35))] }
theorem wit_imprecise_faults : Clear tNoR tM (.ldw m0) (addrUses m0 ++ [useV m0.d 1 true]) ∧ Intact tNoR ∧ 0 ∈ lanes tM.exm ∧
    ∀ K ∈ lanes tM.exm, addrFault tNoR tM 0 (addrOf (seen tNoR tM) m0 K) 4 = none ∧
      (match (xlate tNoR (whoOf tM tM.pc) (addrOf (seen tNoR tM) m0 K) .rd).2 with | .error e => e == 0x11 | .ok _ => false) = true := by
  simp only [clear_iff, Intact]; decide +kernel

/-- A word of zeros in its first bits and OP 0x7D is no instruction; an absent page; a trap that waits; two held faults that may be delivered; an answered record; a park at its end. -/
def tBad : State := { tS tC with mem := [(bootText, 0xF5), (bootText + 1, 0x01)], arg := { crew := 2 ^ 26 } }
theorem wit_bad_word : (match (fetchAt tBad tC 0).2 with | .bad bs => bs.length == 4 | _ => false) = true ∧ mfind tBad.crews tBad.arg.crew = some tC := by decide +kernel
theorem wit_fetch_fault : (∀ p ∈ [({ tS tC with tlbIsle := [], arg := { crew := 2 ^ 26 } }, (0x10 : Byte)), ({ tNoR with tlbIsle := [(0, 0, 0, 65536, BitVec.ofNat 64 (bootText + 0x1D))] }, 0x11)],
      (match (fetchAt p.1 tC 0).2 with | .fault e _ => e == p.2 | _ => false) = true) ∧ expertOf tC 0 = true ∧ expertOf { tC with expert := 0 } 0 = false := by decide +kernel
def hf (seq : Nat) : HeldFault := { addr := 0, next := 4, cause := 0x11, tva := 0, tmask := 5, pcm := 0, seq := seq, depth := 0, returning := true, due := true }
theorem wit_waiting_traps : (let c := { tC with trapReq := some rq }
      c.pend = [] ∧ c.halt = .running ∧ c.saved = false ∧ c.ctxHalt = false ∧ c.saving = none ∧ c.park = none ∧ pagesFirst c rq = none) ∧
    (let c := { tC with held := [hf 1, hf 2] }
     hf 1 ∈ c.held ∧ c.trapReq = none ∧ c.xir = none ∧ (hf 1).due = true ∧ (hf 1).depth = c.tdepth.toNat ∧ (∀ o ∈ c.held, o ≠ hf 1 → heldKey (hf 1) < heldKey o) ∧ (hf 1).cause ≠ 0x21 ∧ (hf 1).cause ≠ 0x10) := by
  decide +kernel
theorem wit_record_answers : (let s := { tS tC with mem := [(0x20003C, 2)], faultq := { base := 0x200000, seq := 1, open_ := [(0, { typ := 0x10 }, .crew (2 ^ 26))] }, arg := { crew := 2 ^ 26 } }
      s.arg.b ≠ 1 ∧ s.faultq.got = [] ∧ s.faultq.waiting = [] ∧ s.faultq.dropped = 0 ∧ ({ typ := 0x10 } : FRec).typ ≠ 0x60 ∧ rdN s (recAddr s.faultq 0 + 60) 4 = 2) ∧
    (let c : Crew := { tC with park := some { left := 0, cause := 0x10, tva := 0, tmask := 5, pcm := 0, impr := false, precise := true, addr := 0, next := 4 } }
     (c.park.map (fun p => (p.left, p.refused, p.precise))) = some (0, false, true) ∧ c.halt = .running ∧ c.saved = false ∧ c.ctxHalt = false ∧ c.saving = none) := by
  decide +kernel

/-! ### The issue register and the matrix engine -/

/-- Both lanes hold the word of IADD v4, v9, v10; the word 0x00010000, whose upper half is not zero though bit 0 is. -/
def cXir (w : Word) : Crew := { tC with v := [(32 * 8, w), (32 * 8 + 2, w)] }
def gx : TF := { s2 := 10, k2 := 0, s1 := 9, k1 := 0, d := 4, e := none }
def fx : TF := { f1 with d := 0 }
theorem wit_xir : (∀ c ∈ [cXir 0x28241001, cXir 0x10000], Clear (tS c) c (.xir fx) [useV fx.s1 1 false]) ∧ xirGroups (seen (tS (cXir 0x28241001)) (cXir 0x28241001)) fx 5 = [(0x28241001, 5)] ∧
    acqHold (tS (cXir 0x28241001)) (tS (cXir 0x28241001)).cur = false ∧ (∀ L ∈ lanes (5 : Mask), vget (seen (tS (cXir 0x10000)) (cXir 0x10000)) 8 L = 0x10000) ∧ BankIdle (cXir 0x28241001) gx := by
  simp only [clear_iff, BankIdle]; decide +kernel
theorem wit_xir_legal : let c := cXir 0x28241001
    xirWord (seen (tS c) c) (tS c) 0x28241001 = .ok (.iadd gx, coreIadd gx) ∧ xirHold (ctxOf (tS c) c (.xir fx)) (tS c) (coreIadd gx) 5 = none := ⟨rfl, rfl⟩
theorem wit_xir_illegal : let c := cXir 0x10000
    ∀ s', s'.stage = (tS c).stage → xirWord (seen (tS c) c) s' (0x10000 &&& 0xFFFFFFFD) = .error 2 := fun _ _ => rfl
theorem wit_xir_completes : let c := cXir 0x28241001
    let q := xirWords (ctxOf (tS c) c (.xir fx)) (xirGroups (seen (tS c) c) fx c.exm) { s := started (tS c) c }
    let r := q.1
    q.2 = [] ∧ r.trap.isNone = true ∧ r.bad = 0 ∧ ((mfind r.s.crews (tS c).cur).map (fun d => (d.trace.traced, d.wait))) = some (false, .none) := by decide +kernel
/-- Lane 0 holds the word of IADD, lane 2 the illegal one; IADD's source v9 has an outstanding producer in a strict launch. -/
def cMix : Crew := { cXir 0x28241001 with v := [(32 * 8, 0x28241001), (32 * 8 + 2, 0x10000)] }
def cXh : Crew := { cXir 0x28241001 with strict := true, pend := [{ id := 7, kind := .memory, ready := false, drains := true, targets := [{ file := .vector, idx := 9, lane := 0, val := 0 }] }] }
def qX (c : Crew) : XirRun × List (Word × Mask) := xirWords (ctxOf (tS c) c (.xir fx)) (xirGroups (seen (tS c) c) fx c.exm) { s := started (tS c) c }
theorem wit_xir_mixed : (∀ c ∈ [cMix, cXh], Clear (tS c) c (.xir fx) [useV fx.s1 1 false] ∧ acqHold (tS c) (tS c).cur = false ∧ (qX c).2 = [] ∧
      ((mfind (qX c).1.s.crews (tS c).cur).map (fun d => (d.trace.traced, d.wait))) = some (false, .none)) ∧
    xirGroups (seen (tS cMix) cMix) fx 5 = [(0x28241001, 1), (0x10000, 4)] ∧ (qX cMix).1.trap.isNone = true ∧ (qX cMix).1.bad = 4 ∧ (qX cXh).1.trap.map (fun e => e.cause) = some 0x04 := by
  simp only [clear_iff]; decide +kernel
theorem wit_xir_mixed_words : (∀ s', s'.stage = (qX cMix).1.s.stage → xirWord (seen (tS cMix) cMix) s' (0x10000 &&& 0xFFFFFFFD) = .error 2) ∧ (∀ s', ∃ p, xirWord (seen (tS cMix) cMix) s' 0x28241001 = .ok p) ∧
    (∀ s', ∃ n, xirWord (seen (tS cMix) cMix) s' 0x10000 = .error n) ∧ (∀ p, xirWord (seen (tS cXh) cXh) (tS cXh) 0x28241001 = .ok p → xirHold (ctxOf (tS cXh) cXh (.xir fx)) (tS cXh) p.2 5 = none) :=
  ⟨fun _ _ => rfl, fun s' => ⟨(.iadd gx, coreIadd gx), by
    have h : xirWord (seen (tS cMix) cMix) s' 0x28241001 = if illegalFor (.iadd gx) (coreIadd gx) (seen (tS cMix) cMix) s' then .error 4 else .ok (.iadd gx, coreIadd gx) := rfl
    rw [h, show illegalFor (.iadd gx) (coreIadd gx) (seen (tS cMix) cMix) s' = false by cases hl : lowWater s' <;> simp only [illegalFor, hl] <;> rfl]; rfl⟩, fun _ => ⟨2, rfl⟩, fun _ h => Except.ok.inj h ▸ rfl⟩
theorem wit_xir_word : let c := cXir 0x28241001
    (match (coreIadd gx).run (ctxOf (tS c) c (.xir fx)) (started (tS c) c) with | .done S => (mfind S.crews (tS c).cur).map (fun d => (d.trace.traced, d.wait)) == some (false, .none) | _ => false) = true := by decide +kernel

/-- Quarter 0 active; scalars 8 and 9 describe dense F32 lines of 128 bytes from 0, scalars 10 and 11 the same. -/
def cQ : Crew := { tC with exm := 0xFF, fr := (List.range 8).map (fun L => (L, { st := .live, resume := 0 })), sreg := [(8, 0x100000), (9, 128), (10, 0x100000), (11, 128)] }
/-- An operation outstanding on accumulator 7. -/
def opQ : MatOp := { id := 9, crew := 2 ^ 26, team := 2 ^ 26, acc := 7, quarters := [0], aDesc := some 0x8000100000, bDesc := some 0x8000100000 }
def xq : XF := { fm := 0, b := 10, bs := 1, a := 8, ash := 1, acc := 7 }
theorem wit_matrix_instructions : (∀ p ∈ ([(.mma xq, xq, false), (.mmasp xq, xq, true), (.mmasp { xq with fm := 1, bs := 0, b := 32 }, { xq with fm := 1, bs := 0, b := 32 }, true),
      (.mma { fm := 1, b := 32, bs := 0, a := 0, ash := 0, acc := 0 }, { fm := 1, b := 32, bs := 0, a := 0, ash := 0, acc := 0 }, false)] : List (Instr × XF × Bool)), let f := p.2.1
      Clear (tS cQ) cQ p.1 ((if f.ash = 1 then [useS f.a 2 false] else [{ file := .vector, idx := f.a.toNat, n := lineRegs f.fm.toNat }]) ++
        (if f.bs = 1 then [useS f.b 2 false] else [{ file := .vector, idx := f.b.toNat, n := lineRegs f.fm.toNat }])) ∧
      f.acc.toNat < cQ.naccs ∧ (if f.ash = 1 ∧ f.bs = 1 then f.fm = 0 else matFmt f.fm.toNat = true) ∧ (p.2.2 = true → f.ash = 1) ∧
      descBad (teamAt (tS cQ) cQ.teamKey).size (expertOf cQ 1) (activeQ cQ.exm) (matDescs (ctxOf (tS cQ) cQ p.1) f p.2.2) = none) ∧
    (∀ q ∈ [0, 1, 2, 3], cQ.exm &&& quarterMask q = 0 ∨ cQ.exm &&& quarterMask q = quarterMask q) ∧ (countedIds cQ).length < 16 ∧ (tS cQ).matq.length < 16 ∧
    Clear (tS cQ) cQ (.mzero { fm := 0, b := 0, bs := 0, a := 0, ash := 0, acc := 7 }) [] := by
  simp only [clear_iff]; decide +kernel
theorem wit_matrix_reads : (∀ p ∈ ([(0, 32), (2, 32), (6, 0), (14, 60)] : List (Nat × Nat)), let f : XF := { fm := BitVec.ofNat 5 p.1, b := 0, bs := 0, a := BitVec.ofNat 6 (p.2 - p.2 % 32), ash := 0, acc := 7 }
      ∀ s ∈ [tS cQ, { tS cQ with matq := [opQ] }], f.fm.toNat % 4 ≠ 3 ∧ (f.fm.getLsbD 2 = true ∨ f.fm.getLsbD 3 = false) ∧
        f.a.toNat + mldaStep (f.fm.toNat % 4) * (mldaCols f).length ≤ cQ.nregs ∧ Clear s cQ (.mlda f) ({ file := .accum, idx := 7 } :: mldaUses f.a.toNat (f.fm.toNat % 4) (mldaCols f).length)) ∧
    (∀ i ∈ [Instr.mwaitc { fm := 0, b := 1, bs := 1, a := 63, ash := 0, acc := 0 }, .mwaitd { fm := 0, b := 1, bs := 1, a := 63, ash := 0, acc := 0 }], Clear (tS cQ) cQ i []) ∧
    (∀ a < 8, a < cQ.naccs ∧ cQ.macc.getLsbD a = true ∧ cQ.macc.getLsbD (a + 8) = true) := by
  simp only [clear_iff]; decide +kernel
theorem wit_matrix_units : (∀ b ∈ [true, false], (match matLines (readTeam (tS cQ) opQ) opQ b 0 with | .ok l => l.length == 8 | .error _ => false) = true) ∧ opQ.executed = [] ∧ opQ.results = [] ∧ opQ.zero = false ∧
    (tS cQ).arg.c ≠ 1 ∧ (crewAt (tS cQ) opQ.crew).saved = false ∧ opQ.quarters = [0] ∧ ({ opQ with executed := [(0, 0)] } : MatOp).executed = [(0, (tS cQ).arg.a)] ∧
    opQ.isle = (tS cQ).arg.a ∧ opQ.slot = (tS cQ).arg.b ∧ opQ.faults = [] ∧ opQ.updated = [] ∧ mfind (tS cQ).crews opQ.crew = some cQ ∧ cQ.held = [] ∧ cQ.saving = none ∧ (tS cQ).mldas = [] := by
  decide +kernel

/-! ### The copy engine -/

def q0 : QF := { sub := 0, p2 := 10, p1 := 8, d := 4 }
/-- A channel that the team holds, at slot 0 of the scratchpad, with `n` bytes landed. -/
def chn (n : Nat) : Chan := { team := 2 ^ 26, slot := 0, count := n, next := n, fault := none }
/-- The machine with channel 15 bound and a second team of the cohort on isle 1. -/
def tCopy (c : Crew) : State := { tS c with chans := [(15, chn 64)], teams := [(2 ^ 26, { bootTeam with size := 8192, scratch := [(24, 16)] }), (2 ^ 26 + 1, { lid := 1, ix := 1, isle := 1, size := 8192 })]
                                            launches := [(1, { desc := { lid := 1, regs := 64, accs := 8, team := 1, cohort := 2, shelfg := 1, nsg := 1, scratch := 8192, expert := 0x3FF } })] }
/-- Scalars from 8 on, and from 10 on. -/
def cS (a b : List Nat) : Crew := { tC with sreg := (a.zipIdx.filter (fun p => p.1 != 0)).map (fun p => (8 + p.2, BitVec.ofNat 32 p.1)) ++ (b.zipIdx.filter (fun p => p.1 != 0)).map (fun p => (12 + p.2, BitVec.ofNat 32 p.1)) }
def q12 : QF := { q0 with p2 := 12 }
theorem wit_cpy : (∀ c ∈ [cS [] [], cS [0, 2 ^ 25] []], ∀ sub ∈ [0, 2, 4, 6], let f : QF := { q0 with sub := BitVec.ofNat 4 sub, p2 := 16 }
      Clear (tCopy c) c (.cpy f) [{ file := .scalar, idx := 8, n := 4, al := 4 }, { file := .vector, idx := 16, n := 1 + (if f.sub.getLsbD 2 then 1 else 0) }, useS 4 1 true] ∧ f.sub.toNat % 4 ≠ 3 ∧
      (countedIds c).length < 16 ∧ EntriesFree (tCopy c) c 1) ∧ (sget2 (cS [] []) 8) >>> 57 = 0 ∧ (sget2 (cS [] []) 10) >>> 57 = 0 ∧ (sget2 (cS [0, 2 ^ 25] []) 8) >>> 57 ≠ 0 := by
  simp only [clear_iff, EntriesFree]; decide +kernel
theorem wit_cpyk : (∀ c ∈ [cS [] [1], cS [] [64], cS [] [65], cS [33] [1]], Clear (tCopy c) c (.cpyk { q12 with d := 0 }) [useS 8 1 false, useS 12 1 false]) ∧ expertOf (cS [] [1]) 2 = true ∧
    descFieldK (teamAt (tCopy (cS [] [1])) (2 ^ 26)) 0 = false ∧ descSpaceK (teamAt (tCopy (cS [] [1])) (2 ^ 26)) 0 = false ∧ (sget (cS [33] [1]) 8).toNat % 32 ≠ 0 ∧ EntriesFree (tCopy (cS [] [1])) (cS [] [1]) 1 ∧ (sget (cS [] [1]) 12).toNat = 1 ∧ 64 < (sget (cS [] [65]) 12).toNat := by
  simp only [clear_iff, EntriesFree]; decide +kernel
/-- PERMIT for any channel (16) and for channel 15, which the team holds already; PERMIT_REL of it. -/
theorem wit_permit : (∀ p ∈ [(cS [16] [], 0), (cS [15] [4096], 15)], Clear (tCopy p.1) p.1 (.permit q12) [useS 8 1 false, useS 12 1 false, useS 4 1 true] ∧ permitPick (tCopy p.1) p.1 (sget p.1 8).toNat = some p.2 ∧
      (sget p.1 8).toNat ≤ 16 ∧ (sget p.1 12).toNat % 4096 = 0 ∧ (sget p.1 12).toNat + 4096 ≤ (teamAt (tCopy p.1) p.1.teamKey).size ∧ expertOf p.1 2 = true ∧ (countedIds p.1).length < 16) ∧
    Clear (tCopy (cS [15] [])) (cS [15] []) (.permitRel { q12 with sub := 1, p2 := 0 }) [useS 8 1 false, useS 4 1 true] ∧ (ownChan (tCopy (cS [15] [])) (cS [15] []) 15).isSome = true ∧
    chanQueue (tCopy (cS [15] [])) 0 15 = [] := by
  simp only [clear_iff]; decide +kernel
/-- CPYT of 16 rows of 256 bytes on channel 15; CPYWT for byte 64 of it. -/
theorem wit_cpyt_cpywt : (let c := cS [0x100] [256 * 65536 + 15, 16 * 65536 + 256]
      let d := sget2 c 12
      Clear (tCopy c) c (.cpyt { q12 with d := 0 }) [useS 8 2 false, useS 12 2 false] ∧ sget2 c 8 >>> 56 = 0 ∧ (d.extractLsb' 0 4).toNat = 15 ∧ (d.extractLsb' 16 16).toNat = 256 ∧ (d.extractLsb' 48 12).toNat = 16 ∧
        d.extractLsb' 4 12 = 0 ∧ d >>> 60 = 0 ∧ ownChan (tCopy c) c 15 = some (chn 64) ∧ (chn 64).fault = none ∧ (chanQueue (tCopy c) (isleOf c.gcrew) 15).length < 8 ∧ EntriesFree (tCopy c) c 1) ∧
    (let c := cS [15] [64]
     Clear (tCopy c) c (.cpywt { q12 with d := 0 }) [useS 8 1 false, useS 12 1 false] ∧ ownChan (tCopy c) c (sget c 8).toNat = some (chn 64) ∧ (BitVec.ofNat 32 64 - sget c 12).toNat < 2 ^ 31) := by
  simp only [clear_iff, EntriesFree]; decide +kernel
/-- CPYC to and from the team on isle 1 (bits [52:51] of the offsets), 64 bytes. -/
theorem wit_cpyc : let c := cS [0, 2 ^ 19] [64]
    (∀ i ∈ [Instr.cpyc q12, .cpycPull { q12 with sub := 1 }], Clear (tCopy c) c i [useS 8 2 false, useS 12 2 false, useS 4 1 true] ∧ cpycBad (ctxOf (tCopy c) c i) q12 (tCopy c) = none) ∧
    (cohortTeam (tCopy c) c (fld (sget2 c 8).toNat 52 51)).isSome = true ∧ EntriesFree (tCopy c) c 1 ∧ (countedIds c).length < 16 := by
  simp only [clear_iff, EntriesFree]; decide +kernel
/-- The operands that stop PERMIT, CPYT, CPYWT and CPYC, one for each check. -/
theorem wit_copy_stops : (∀ c ∈ [cS [17] [], cS [15] [64], cS [15] [8192]], Clear (tCopy c) c (.permit q12) [useS 8 1 false, useS 12 1 false, useS 4 1 true]) ∧ 16 < (sget (cS [17] []) 8).toNat ∧ (sget (cS [15] [64]) 12).toNat % 4096 ≠ 0 ∧
      (teamAt (tCopy tC) tC.teamKey).size < (sget (cS [15] [8192]) 12).toNat + 4096 ∧
    Clear (tCopy (cS [3] [])) (cS [3] []) (.permitRel { q12 with sub := 1, p2 := 0 }) [useS 8 1 false, useS 4 1 true] ∧ ownChan (tCopy tC) tC 3 = none ∧
    (∀ c ∈ [cS [0x100, 2 ^ 24] [], cS [0x100] [15], cS [0x100] [256 * 65536 + 3, 16 * 65536 + 256]], Clear (tCopy c) c (.cpyt { q12 with d := 0 }) [useS 8 2 false, useS 12 2 false]) ∧ (sget2 (cS [0x100, 2 ^ 24] []) 8) >>> 56 ≠ 0 ∧
      ((sget2 (cS [0x100] [15]) 12).extractLsb' 16 16).toNat = 0 ∧
    (∀ c ∈ [cS [3] [64], cS [15] [65]], Clear (tCopy c) c (.cpywt { q12 with d := 0 }) [useS 8 1 false, useS 12 1 false]) ∧ ¬ (BitVec.ofNat 32 64 - sget (cS [15] [65]) 12).toNat < 2 ^ 31 ∧
      ownChan { tCopy tC with chans := [(15, { chn 64 with fault := some (0x13, 5) })] } tC 15 = some { chn 64 with fault := some (0x13, 5) } := by
  simp only [clear_iff]; decide +kernel
theorem wit_cpyc_stops : (∀ c ∈ [cS [2 ^ 19, 2 ^ 19] [64], cS [0, 2 ^ 21] [64], cS [0, 3 * 2 ^ 19] [64], cS [0, 2 ^ 19] [0], cS [8190, 2 ^ 19] [64], cS [0, 2 ^ 19] [64, 512]], Clear (tCopy c) c (.cpyc q12) [useS 8 2 false, useS 12 2 false, useS 4 1 true]) ∧
    (let o := fun (c : Crew) => (sget2 c 8).toNat
     let l := fun (c : Crew) => (sget2 c 12).toNat
     fld (o (cS [2 ^ 19, 2 ^ 19] [64])) 31 19 ≠ 0 ∧ fld (o (cS [0, 2 ^ 21] [64])) 63 53 ≠ 0 ∧ cohortTeam (tCopy tC) tC (fld (o (cS [0, 3 * 2 ^ 19] [64])) 52 51) = none ∧ fld (l (cS [0, 2 ^ 19] [0])) 19 0 = 0 ∧
       8192 < fld (o (cS [8190, 2 ^ 19] [64])) 18 0 + 64 ∧ 8192 < 16 * fld (l (cS [0, 2 ^ 19] [64, 512])) 46 32 + 16) := by
  simp only [clear_iff]; decide +kernel
/-- What `coreOf` gives for a word with an E that it does not have, registers beyond the crew's, a reserved width, a half format in low-water service, and a register with an outstanding producer. -/
theorem wit_bad_words : (∀ p ∈ ([(.iadd { f2 with e := some 1 }, tC, 0x06), (.iadd f2, { tC with nregs := 8 }, 0x06), (.cpy { q0 with sub := 3, p2 := 16 }, tC, 0x06), (.hadd2 f2, tC, 0x04)] : List (Instr × Crew × BitVec 8)),
      let s := { tS p.2.1 with stage := p.2.2 }
      (coreOf p.1 s.ir.aux).map (fun o => !p.1.wf || o.uses.any (useBad p.2.1) || o.illop p.2.1 s || (lowWater s && lowStops p.1)) = some true) ∧
    (coreOf (.iadd f2) 0).map (fun o => (illegalFor (.iadd f2) o cHz (tS cHz), o.priv, o.privIf cHz (tS cHz), hazardOf cHz cHz.seq o.uses)) = some (false, false, false, some 8) := by decide +kernel

/-- A CPY of two lanes between places of the scratchpad; a descriptor's copy of 2 rows of 16 bytes, not begun and all moved; a CPYT from page 0; a CPYC. -/
def oCpy : CopyOp := { kind := .cpy, crew := 2 ^ 26, team := 2 ^ 26, mask := 5, w := 4, srcSp := true, dstSp := true, dst := [(0, 64), (2, 68)] }
def oCpyk : CopyOp := { kind := .cpyk, crew := 2 ^ 26, team := 2 ^ 26, rows := 2, rowBytes := 16, srcSp := true, dstSp := true, daddr := 64, bar := 16 }
def oCpyt : CopyOp := { kind := .cpyt, crew := 2 ^ 26, team := 2 ^ 26, chan := 15, first := 64, rows := 16, rowBytes := 16, dstSp := true }
def oCpyc : CopyOp := { kind := .cpyc, crew := 2 ^ 26, team := 2 ^ 26, remote := 2 ^ 26 + 1, rows := 1, rowBytes := 16, srcSp := true, dstSp := true }
theorem wit_copies_perform : (∀ o ∈ [oCpy, oCpyk, { oCpyk with moved := 32, landed := 16 }, oCpyt, oCpyc, { oCpyc with accepted := true }], copyAt { tCopy tC with copies := [o] } 0 = some o ∧ o.parked = [] ∧ o.failed = none) ∧
    oCpy.early = [] ∧ oCpy.late = [] ∧ oCpy.done = 0 ∧ oCpy.snap = none ∧ oCpy.begun = [] ∧ oCpy.held = [] ∧ oCpy.put = [] ∧ oCpy.w = 4 ∧ tC.trace.traced = false ∧ mfind (tCopy tC).crews oCpy.crew = some tC ∧ 0 < copyPiece oCpyk ∧ oCpyk.landed = oCpyk.moved ∧
    oCpyk.moved + copyPiece oCpyk < copyTotal oCpyk ∧ 32 = copyTotal { oCpyk with moved := 32, landed := 16 } ∧
    chanQueue { tCopy tC with copies := [oCpyt] } 0 15 = [oCpyt] ∧ mfind (tCopy tC).chans (16 * 0 + 15) = some (chn 64) ∧ 64 = 128 - (oCpyt.first + 0) % 128 ∧ 0 + 64 < copyTotal oCpyt ∧ oCpyt.srcSp = false ∧ oCpyt.dstSp = true ∧ Intact (tCopy tC) ∧
    (∀ j < 64, (copyByte oCpyt (0 + j)).1 < 2 ^ 56 ∧ okPg (xlate { tCopy tC with copies := [oCpyt] } (copyWho oCpyt) (copyByte oCpyt (0 + j)).1 .rd).2 tPg = true ∧ (0 : Byte) = Memory.read (tCopy tC).mem (tPg.pa (copyByte oCpyt (0 + j)).1)) ∧
    oCpyc.expect = false ∧ oCpyc.rexp = false ∧ copyTotal oCpyc ≤ oCpyc.moved + copyPiece oCpyc := by
  simp only [Intact]; decide +kernel
/-- No crew of the small machine is traced. -/
theorem wit_untraced : ∀ k d, mfind (tCopy tC).crews k = some d → d.trace.traced = false := by
  intro k d h
  simp only [tCopy, tS, mfind] at h
  split at h
  · cases h; rfl
  · cases h
theorem wit_copy_ends : ({ tCopy { tC with pend := [{ id := 0, kind := .status, ready := false, drains := true, targets := [] }] } with teams := [] } : State).teams = [] ∧
    (∃ p ∈ (crewAt (tCopy { tC with pend := [{ id := 0, kind := .status, ready := false, drains := true, targets := [] }] }) oCpy.crew).pend, p.id = oCpy.pendId) ∧ (crewAt (tCopy tC) oCpy.crew).pend = [] := by decide +kernel

/-! ### The tide engine -/

def ev0 : EvRec := { time := 7, tail := 3, handler := 0, uflags := 0, placeAddr := 0, host := false, remote := false, nohandle := false, slot := 0, gen := 1, payload := [], recIx := 0, order := 0, place := 0 }
def row0 (L : Nat) : RoundLane := { pos := 0, lane := L, shelf := 0, time := 0, tail := 0, handle := 0, handler := 0, prio := 0, ordinal := 0, child := 0, payload := [], recIx := 2 + L, spilled := false, ended := false }
/-- One event pending on shelf 0, whose store has `n` records; lanes 0 and 2 in the round's table. -/
def tl0 (n : Nat) : Timeline := { n := 1, members := [1], span := 1, open_ := true, wend := 8, table := [row0 0, row0 2], ncrews := 0, handlers := [(0, 0)],
                                  shoals := [(0, { base := 0x1000, recs := n, slots := 8, tab := [(0, (.pending, 1))], evs := [ev0] })] }
def tT (c : Crew) (t : Timeline) : State := { tS c with timelines := [(1, t)] }
/-- Each lane posts to this device (register 11), and names handle 0x0010000000000001 (registers 8 and 9). -/
def cTl (a : Word) : Crew := { tC with timeline := true, v := [(32 * 8, a), (32 * 8 + 2, a), (32 * 9, 0x100000 * a), (32 * 9 + 2, 0x100000 * a), (32 * 11, 1), (32 * 11 + 2, 1)] }
def qT : QF := { sub := 0, p2 := 16, p1 := 8, d := 4 }
theorem wit_events : (∀ p ∈ ([(.evpost qT, [useV 4 2 true]), (.evpostN { qT with sub := 1, d := 0 }, [])] : List (Instr × List Use)),
      Clear (tT (cTl 0) (tl0 8)) (cTl 0) p.1 ([{ file := .vector, idx := 8, n := 6, al := 4 }, useV 16 8 false] ++ p.2)) ∧ (cTl 0).timeline = true ∧ (countedIds (cTl 0)).length < 16 ∧ (cTl 0).strict = false ∧
    (∀ L ∈ lanes (cTl 0).exm, (vget (seen (tT (cTl 0) (tl0 8)) (cTl 0)) (8 + 3) L).toNat = (tT (cTl 0) (tl0 8)).deviceId.toNat ∧ postEarly (tT (cTl 0) (tl0 8)) (tl0 8) (seen (tT (cTl 0) (tl0 8)) (cTl 0)) 8 L = none) ∧
    (let s := tT (cTl 1) (tl0 8)
     Clear s (cTl 1) (.evcan { qT with p2 := 0 }) [useV 8 2 false, useV 4 1 true] ∧ badHandles s (ctxOf s (cTl 1) (.evcan { qT with p2 := 0 })) 8 = [] ∧
      (∀ L ∈ lanes (cTl 1).exm, hDev (vget2 (seen s (cTl 1)) 8 L) = s.deviceId) ∧ Clear s (cTl 1) (.evkey { qT with p2 := 0 }) [useV 8 2 false, useV 4 4 true] ∧
      badHandles s (ctxOf s (cTl 1) (.evkey { qT with p2 := 0 })) 8 = [] ∧ Clear s (cTl 1) (.evkeySelf { sub := 1, p2 := 0, p1 := 0, d := 4 }) [useV 4 4 true] ∧
      hState s (cTl 1).lid 0x0010000000000001 = .pending ∧ hDev 0x0010000000000001 = s.deviceId ∧
      (shoalAt (tl0 8) (fld (0x0010000000000001 : Dword).toNat 51 48)).evs.find? (fun e => !e.nohandle && e.slot == fld (0x0010000000000001 : Dword).toNat 47 20) = some ev0 ∧ ev0.time < 2 ^ 64 ∧ ev0.tail < 2 ^ 56) := by
  simp only [clear_iff]; decide +kernel
theorem wit_events_stored : let s := tT (cTl 0) (tl0 8)
    let r := (lanes (cTl 0).exm).foldl (postLane (ctxOf s (cTl 0) (.evpost qT)) qT) { s := started s (cTl 0) }
    r.late = [] ∧ r.cap = [] ∧ r.ok ≠ [] := by decide +kernel
theorem wit_evend : (let s := tT (cTl 0) (tl0 8)
      Clear s (cTl 0) .evend [] ∧ (cTl 0).tdepth = 0 ∧ (cTl 0).held = [] ∧ mfind s.timelines (cTl 0).lid = some (tl0 8) ∧ (∀ L ∈ lanes (cTl 0).exm, rowOf (tl0 8) (cTl 0).team.toNat L = some (row0 L))) ∧
    (let c := { cTl 0 with fr := cX.fr }
     Clear (tT c (tl0 8)) c .evend [] ∧ c.exm.getLsbD 1 = false ∧ (frGet c.fr 1).st = .live) ∧
    (let t := { tl0 8 with table := [{ row0 0 with handle := 0x0010000000000001 }, row0 2], shoals := [(0, { shoalAt (tl0 8) 0 with tab := [(0, (.current, 1))] })] }
     rowOf t (cTl 0).team.toNat 0 = some { row0 0 with handle := 0x0010000000000001 } ∧ rowOf t (cTl 0).team.toNat 2 = some (row0 2) ∧ (row0 2).handle = 0) := by
  simp only [clear_iff]; decide +kernel
theorem wit_stored_events : mfind (tT tC (tl0 8)).timelines 1 = some (tl0 8) ∧ pendingAll (tT tC (tl0 8)) < 2 ^ 34 ∧ ev0.nohandle = false ∧ (recsUsed (tl0 8) 0).length < (shoalAt (tl0 8) 0).recs ∧ pickSlot (shoalAt (tl0 8) 0) = some 1 := by decide +kernel
/-- Every slot has been used: slot 0 holds a PENDING event, slot 3 is RETIRED with generation 1. -/
theorem wit_stored_again : pickSlot { shoalAt (tl0 8) 0 with slots := 2, tab := [(0, (.pending, 1)), (1, (.retired, 5))] } = some 1 := by decide +kernel
/-- Before its first span: with one event pending, and with none; in a round whose window holds an event, one of round 15, and one that holds none. -/
def tlA : Timeline := { tl0 8 with open_ := false, span := 0, table := [] }
theorem wit_spans : (∀ t ∈ [tlA, { tlA with shoals := [] }, tl0 8, { tl0 8 with round := 15 }, { tl0 8 with shoals := [] }], let s := { tT tC t with arg := { a := 1 } }
      mfind s.timelines s.arg.a = some t ∧ t.n ≤ 1 ∧ (t.span = 0 → postsLeft s s.arg.a = false) ∧ roundOver s s.arg.a = true ∧ t.done = false) ∧ leastTime tlA = some 7 ∧ leastTime { tlA with shoals := [] } = none ∧
    windowEvents (tl0 8) ≠ [] ∧ (tl0 8).round < 15 ∧ windowEvents { tl0 8 with shoals := [] } = [] := by decide +kernel
def rq0 (k : ReqKind) (sub : Nat) : RemoteReq := { tag := 0, kind := k, crew := 2 ^ 26, gcrew := 0, lid := 1, part := 0, pendId := 7, seq := 7, pcAt := 0, pcNext := 4, dst := 2, lanes := [(0, 0)], tmask := 1, regD := 8
                                                   w := 4, addr := 0, since := 0, stamp := 0, depth := 0, operands := [], sub := sub }
/-- The timeline launch belongs to fabric job 7. -/
def tJ (t : Timeline) : State := { tT tC t with launches := [(1, { desc := { lid := 1, kind := 2, job := 7, expert := 0x3FF } })] }
theorem wit_remote_events : (∀ n ∈ [8, 1], jobLaunch (tJ (tl0 n)) 7 = some 1 ∧ handlerOk (tl0 n) (evFrom []).handler = true ∧
      (storeEvent (tJ (tl0 n)) 1 (homeShelf (tJ (tl0 n)) 0 0 0) (evFrom [])).isSome = decide (n = 8)) ∧
    handlerOk { tl0 8 with handlers := [] } (evFrom []).handler = false ∧
    (∀ q ∈ [rq0 .evpost 1, rq0 .evcan 0], ({ tS tC with reqs := [q] } : State).reqs.find? (fun r => r.tag == 0) = some q) := by decide +kernel

/-! ### The strait engine and the fabric -/

/-- Scalars: 4 the slot word of device 2, slot 3, without and with OK; 8 and 9 the fabric address of device 2, offset 0; 10 a timeout in µs. -/
def cN (ok : Bool) (t : Word) : Crew := { tC with exm := 1, fr := [(0, { st := .live, resume := 0 })], sreg := [(4, if ok then 0x80020003 else 0x20003), (8, 2), (9, 0x200000), (10, t)].filter (fun p => p.2 != 0) }
/-- A route to device 2 by port 1, and its slot 3 open. -/
def tN (c : Crew) : State := { tS c with routes := [(2, 0x800F8020)], txSlots := [(txKey 2 3, { st := .open_ })] }
def qN : QF := { sub := 0, p2 := 16, p1 := 8, d := 4 }
theorem wit_stream : (∀ c ∈ [cN false 0, cN true 0], ∀ sub ∈ [0, 1, 2, 4, 8, 14], let f : QF := { qN with sub := BitVec.ofNat 4 sub, p2 := 16 }
      Clear (tN c) c (.rsto f) ([useS 4 1 false, useS 8 2 false, useV 16 (2 ^ (sub % 4)) false] ++ (match rstoOff f with | some r => [{ file := .vector, idx := r }] | none => [])) ∧ f.sub.toNat % 4 ≠ 3) ∧
    (∀ c ∈ [cN false 0, cN true 0], Clear (tN c) c (.rclose { qN with p2 := 0, p1 := 0 }) [useS 4 1 false] ∧ (countedIds c).length < 16 ∧
      ∀ p ∈ [(Instr.rflag qN, 1), (.rflagAdd { qN with sub := 2 }, 1), (.rflag { qN with sub := 1 }, 2)], Clear (tN c) c p.1 [useS 4 1 false, useS 8 2 false, useV 16 p.2 false]) ∧
    (cN false 0).sreg.length = 3 ∧ (sget (cN false 0) 4).getLsbD 31 = false ∧ (sget (cN true 0) 4).getLsbD 31 = true := by
  simp only [clear_iff]; decide +kernel
theorem wit_stream_lines : let c := { cN true 0 with sreg := [(4, 0x80020003), (9, 0x200000)] }
    Clear (tN c) c .rdrain [] ∧ Clear (tN c) c (.rdrainS { sub := 1, p2 := 0, p1 := 0, d := 4 }) [useS 4 1 false] ∧ (∀ L ∈ lanes c.exm, remFault (tN c) (remAddr (seen (tN c) c) 8 none L) 4 (some (sget c 4)) = none) ∧
      (txAt (tN c) (slotDev (sget c 4)) (slotNum (sget c 4))).st = .open_ ∧ c.exm = Machine.bit 0 ∧ (tN c).wcb = [] ∧ remFault (tN c) (sget2 (seen (tN c) c) 8) 8 (some (sget c 4)) = none := by
  simp only [clear_iff]; decide +kernel
/-- ROPEN of the device in scalar 8: 2, routed, with a timeout of 10⁶ µs and of one more; 5, which is not routed. -/
theorem wit_ropen : (∀ c ∈ [cN true 1000000, cN true 1000001, { cN true 0 with sreg := [(8, 5)] }], Clear (tN c) c (.ropen { qN with p2 := 10 }) [useS 8 1 false, useS 10 1 false, useS 4 1 true] ∧ expertOf c 4 = true ∧
      (countedIds c).length < 16) ∧ (sget (cN true 1000000) 10).toNat ≤ 1000000 ∧ 1000000 < (sget (cN true 1000001) 10).toNat ∧ reachable (tN tC) 2 = true ∧ reachable (tN tC) 5 = false ∧ freeTags (tN tC) 0 1 = [0] := by
  simp only [clear_iff]; decide +kernel
theorem wit_remote : let c := { cN true 0 with sreg := [(9, 0x200000)] }
    (∀ p ∈ [(qN, 1), ({ qN with sub := 2, p2 := 0 }, 4)], Clear (tN c) c (.rload p.1) ([useS 8 2 false] ++ (if p.1.p2 = 0 then [] else [useV p.1.p2 1 false]) ++ [useV 4 p.2 true]) ∧ p.1.sub.toNat % 4 ≠ 3 ∧
      ∀ L ∈ lanes c.exm, remFault (tN c) (remAddr (seen (tN c) c) 8 (remOff p.1) L) (4 * p.2) none = none) ∧
    (∀ p ∈ ([(.ratomAdd, 0), (.ratomAdd64, 1), (.ratomAddf, 2), (.ratomAddd, 3), (.ratomMin, 4), (.ratomMax, 5), (.ratomUmin, 6), (.ratomUmax, 7), (.ratomAnd, 8), (.ratomOr, 9), (.ratomXor, 10), (.ratomXchg, 11),
        (.ratomCas, 12), (.ratomIncw, 13)] : List ((QF → Instr) × Nat)), let f : QF := { qN with sub := BitVec.ofNat 4 p.2 }
      let w := if p.2 = 1 ∨ p.2 = 3 then 8 else 4
      f.sub.toNat = p.2 ∧ Clear (tN c) c (p.1 f) ([useV 4 (if w = 8 ∨ p.2 = 12 then 2 else 1) false, useS 8 2 false] ++ [useV 16 1 false] ++ [{ file := .vector, idx := 4, n := w / 4, al := 1, wr := true }]) ∧
        ∀ L ∈ lanes c.exm, remFault (tN c) (remAddr (seen (tN c) c) 8 (remOff f) L) w none = none) ∧
    (freeTags (tN c) (isleOf c.gcrew) 1).length = 1 ∧ (countedIds c).length < 16 ∧ c.strict = false := by
  simp only [clear_iff]; decide +kernel

/-- The page tables of a placed program; the receiver: window 0 of partition 0 over page 0, slot 3 of device 2 open with no arrivals. -/
def tW (c : Crew) : State := { tS c with mem := (placeProgram State.reset []).mem, parts := [(0, { mask := 0xFFFFFFFFFFFFFFFF, root := 0x100000 })] }
def kN : Packet := { typ := 2, src := 2, dst := 1, slot := 3, len := 4, data := [1, 2, 3, 4], mask := 0xF }
def wnd : Window := { en := true, rd := true, wr := true, at_ := true, base := 0, size := 0x10000 }
def tR (k : Packet) : State := { tW tC with windows := [(0, wnd)], rxSlots := [(3, { st := .open_, src := 2 })], arg := { pkt := k } }
theorem wit_receiver : Intact (tR kN) ∧ rxOf (tR kN) kN = some { st := .open_, src := 2 } ∧ (tR kN).pflags = [] ∧ mget {} (tR kN).windows (fld kN.faddr.toNat 51 48) = wnd ∧
    wnd.en = true ∧ wnd.phys = false ∧ fld kN.faddr.toNat 47 0 + kN.len ≤ wnd.size ∧ wnd.key = 0 ∧ wnd.wr = true ∧ wnd.rd = true ∧ wnd.at_ = true ∧ (mfind (tR kN).parts wnd.part).isSome = true ∧ tPg.ord = false ∧
    (∀ q ∈ [Acc.rd, .wr, .rw], okPg (xlate (tR kN) { part := wnd.part } (wnd.base + fld kN.faddr.toNat 47 0) q).2 tPg = true) := by
  simp only [Intact]; decide +kernel
/-- A flag or CLOSE whose count is the one arrived, and one that is one ahead; an ATOMIC of each kind; an OPEN of a known tag and of a new one. -/
theorem wit_receiver_forms : ((0 : Word) - kN.count).toNat < 2 ^ 31 ∧ 2 ^ 31 ≤ ((0 : Word) - { kN with count := 1 }.count).toNat ∧ (∀ n ∈ List.range 14, ({ kN with typ := 5, opx := BitVec.ofNat 4 n, count := 1 } : Packet).opx.toNat = n) ∧
    ({ wnd with en := false } : Window).en = false ∧ (let k : Packet := { kN with slot := 0 }
      ∀ p ∈ (tR k).rxSlots, p.2.src = k.src ∧ p.2.tag = k.slot ∧ p.2.st = .open_) ∧
    (∀ p ∈ (tR { kN with slot := 9 }).rxSlots, ¬ (p.2.src = 2 ∧ p.2.tag = 9 ∧ p.2.st ≠ .free)) ∧ mfind (tR kN).rxSlots 0 = none := by
  decide +kernel
theorem mfind_range (x : RxSlot) (n : Nat) : ∀ j < n, mfind ((List.range n).map (fun k => (k, x))) j ≠ none := by
  have h : ∀ (l : List Nat) j, j ∈ l → mfind (l.map (fun k => (k, x))) j ≠ none := by
    intro l
    induction l with
    | nil => simp
    | cons k l ih => intro j hj; by_cases h : k = j <;> simp_all [mfind, eq_comm]
  exact fun j hj => h _ j (List.mem_range.mpr hj)
/-- The first `n` slots of the receiver are taken by another source. -/
def tFull (n : Nat) : State := { tR kN with rxSlots := (List.range n).map (fun k => (k, { st := .open_, src := 3 })) }
theorem full_receiver (n : Nat) : Intact (tFull n) ∧ (∀ q ∈ (tFull n).rxSlots, ¬ (q.2.src = kN.src ∧ q.2.tag = kN.slot ∧ q.2.st ≠ .free)) ∧ ∀ j < n, mfind (tFull n).rxSlots j ≠ none := by
  refine ⟨⟨rfl, rfl⟩, fun q hq h => ?_, mfind_range _ n⟩
  obtain ⟨k, -, rfl⟩ := List.mem_map.mp hq
  exact absurd (show (3 : BitVec 12) = 2 from h.1) (by decide)
theorem wit_receiver_full : Intact (tFull 65536) ∧ (∀ q ∈ (tFull 65536).rxSlots, ¬ (q.2.src = kN.src ∧ q.2.tag = kN.slot ∧ q.2.st ≠ .free)) ∧ ∀ j < 65536, mfind (tFull 65536).rxSlots j ≠ none :=
  full_receiver 65536

/-- A request of each kind, with its reply in `arg`, its result outstanding in vector 8 (for OPEN in scalar 4). -/
def cRq : Crew := { tC with pend := [{ id := 7, kind := .memory, ready := false, drains := true, targets := [{ file := .vector, idx := 8, lane := 0, val := 0 }] }], wait := .drain }
def tRq (k : ReqKind) (p : Packet) : State := { tS cRq with reqs := [rq0 k 0], arg := { crew := 2 ^ 26, pkt := p } }
theorem wit_replies : (∀ k ∈ [ReqKind.load, .atom, .open_, .query], (tRq k kN).reqs.find? (fun r => r.tag == kN.tag.toNat) = some (rq0 k 0)) ∧ (tRq .load kN).comb = [] ∧ kN.count = 0 ∧ mfind (tRq .load kN).crews (2 ^ 26) = some cRq ∧
    (cRq.pend.find? (fun p => p.id == 7)).isSome = true ∧ (∀ p ∈ cRq.pend, ∀ g ∈ p.targets, g.contended = false ∧ g.file = .vector ∧ laneEnded cRq g.lane = false ∧ (0, 0) ∈ (rq0 .load 0).lanes ∧ g.lane = 0) ∧ cRq.saved = false ∧ cRq.saving = none ∧
    cRq.held = [] ∧ ({ kN with opx := 1 } : Packet).opx = 1 ∧ ({ kN with count := 0x0630 } : Packet).count ≠ 0 ∧ (rq0 .load 0).since + 700000 ≤ 700000 ∧ cRq.wait = .drain := by
  decide +kernel
def cmb : CombEntry := { id := 0, port := 0, dst := 2, addr := 0, wide := false, since := 0, closed := false, sentSlot := 0, members := [kN] }
def wln : WcLine := { isle := 0, dev := 2, slot := 3, line := 0, stamp := 0, bytes := [], born := 0, owners := [], key := 0 }
theorem wit_combining_and_ageing : ([cmb].find? (fun e => e.id == 0 && !e.closed && e.since + 64 ≤ 64)) = some cmb ∧ cmb.members = kN :: [] ∧ wln.born + ageOf (tN tC) wln ≤ 2800 ∧ ∀ o ∈ wln.owners, expertOf (crewAt (tN tC) o.crew) 4 = false := by
  decide +kernel

/-- The manager is the device itself; a stranger is not; slot 3 damaged at either end. -/
def tK (k : Packet) : State := { tN tC with rxSlots := [(3, { st := .damaged, src := 2, arrived := 5, timeout := 100 })], txSlots := [(txKey 2 3, { st := .damaged, hw := true })], arg := { a := 3, pkt := k }, clock := 700000 }
theorem wit_control_packets : (∀ k ∈ [{ kN with src := 1, data := [2, 0, 0, 0, 1, 2, 3, 4] }, { kN with src := 1, opx := 0 }], k.src = (tK k).deviceId) ∧ (∀ m ∈ (tK kN).managers, kN.src ≠ m) ∧ kN.src ≠ (tK kN).deviceId ∧
    ({ kN with data := [2, 0, 0, 0, 1, 2, 3, 4] } : Packet).data.length = 8 ∧ (mfind (tK kN).rxSlots kN.slot.toNat).map (fun r => r.st) = some .damaged ∧ ({ kN with faddr := 1 } : Packet).faddr.getLsbD 0 = true ∧
    (rq0 .query 0).kind = .query ∧ (mfind (tK kN).txSlots (txKey (rq0 .query 0).dst (BitVec.ofNat 16 3))).map (fun t => (t.st, t.lastLoss)) = some (.damaged, 0) ∧ 0 + 700000 ≤ (tK kN).clock ∧
    (mfind (tK kN).txSlots (txKey kN.src kN.slot)).isSome = true ∧ ({ kN with opx := 1 } : Packet).opx = 1 := by
  decide +kernel
/-- A QUERY of the sender's count by the slot's receiver; a QUERYREP to a query of slot 3, DAMAGED and open, and one that says the receiver's end is DAMAGED. -/
theorem wit_queries : (let k := { kN with count := BitVec.ofNat 32 (2 * 65536) }
      BitVec.ofNat 12 (fld k.count.toNat 27 16) = k.src ∧ (mfind (tK k).txSlots (txKey 2 k.slot)).map (fun t => t.hw) = some true ∧ k.faddr.getLsbD 0 = false) ∧
    (∀ st ∈ [StreamState.damaged, .open_], let s := { tK kN with reqs := [{ rq0 .query 0 with addr := 3 }], txSlots := [(txKey 2 3, { st := st, hw := true })] }
      s.reqs.find? (fun r => r.kind == .query && r.dst == kN.src && r.addr == kN.slot.toNat) = some { rq0 .query 0 with addr := 3 } ∧ (mfind s.txSlots (txKey kN.src kN.slot)).map (fun t => (t.st, t.lastLoss)) = some (st, 0)) ∧
    ({ kN with opx := 2 } : Packet).opx = 2 ∧ kN.opx ≠ 2 := by decide +kernel
/-- A LOSS notice for slot 3 of device 2, open; a flag held since clock 0 on a slot with a timeout of 100 µs; recovery of a slot opened with hardware recovery. -/
theorem wit_recovery : (let k : Packet := { kN with count := BitVec.ofNat 32 (2 ^ 31 + 2 * 65536) }
      k.count.toNat / 2 ^ 31 = 1 ∧ BitVec.ofNat 12 (fld k.count.toNat 27 16) = (2 : BitVec 12) ∧ (2 : BitVec 12) ≠ (tN tC).deviceId ∧ (mfind (tN tC).txSlots (txKey 2 k.slot)).map (fun t => t.st) = some .open_) ∧
    (let f : PFlag := { slot := 3, target := 9, pkt := kN, since := 0, starved := false }
     f.pkt.typ = 2 ∧ f.starved = false ∧ f.slot = 3 ∧ (mfind (tK kN).rxSlots 3).map (fun r => r.timeout) = some 100 ∧ f.since + 700 * 100 ≤ (tK kN).clock) ∧
    (let s := { tN tC with txSlots := [(txKey 2 3, { st := .open_, hw := true })], arg := { a := 2, b := 3 } }
     (mfind s.txSlots (txKey (BitVec.ofNat 12 s.arg.a) (BitVec.ofNat 16 s.arg.b))).map (fun t => (slotHw s t.hw, t.st)) = some (true, .open_) ∧ s.reqs = []) := by
  decide +kernel

/-- A flit of zeros with SEQ 0 and KIND 4 and its CRC, built from R332 and R333; the same with its last byte changed; one with SEQ 1. -/
def flit (seq : Nat) (bad : Bool) : List Byte :=
  let b := natBytes 64 0 ++ natBytes 12 (4 * 2 ^ 52 + seq * 2 ^ 84)
  b ++ natBytes 4 (if bad then crc32 b ^^^ 1 else crc32 b)
theorem wit_flits : (∀ n ∈ [0, 1], (flit n false).length = 80 ∧ crc32 ((flit n false).take 76) = at_ (flit n false) 76 4 ∧ ovOf (flit n false) 54 52 = 4 ∧ ovOf (flit n false) 95 84 = n) ∧
    crc32 ((flit 0 true).take 76) ≠ at_ (flit 0 true) 76 4 ∧ (linkAt (tS tC) 0).up = true ∧ (linkAt (tS tC) 0).rxSeq = 0 ∧ (linkAt (tS tC) 0).replay = [] ∧ (linkAt (tS tC) 0).outq = [] := by
  decide +kernel
theorem wit_ports : (({} : Link).lastNak ≠ some (5 % 4096)) ∧ 16 < 17 ∧ (∀ l ∈ [({} : Link), { spareUsed := true }, { spareUsed := true, narrow := true }, { retraining := true }], l.up = true ∧ l.outq = [] ∧ ∀ n ∈ [15, 16], (16 < mget 0 l.errs 3 + (n + 1)) = (n = 16)) ∧
    ({ retraining := true } : Link).retrainAt + 1400 < 1401 ∧ (∃ f ∈ ({ replay := [(7, { ch := 0, kind := 4, payload := [], pkt := kN, tries := 16 })] } : Link).replay, 16 ≤ f.2.tries) ∧
    (({ lastNak := some 5, nakUntil := 2 } : Link).lastNak = some 5 ∧ 1 < ({ lastNak := some 5, nakUntil := 2 } : Link).nakUntil) := by
  decide +kernel
/-- A repair that waits for flit 3, which is kept for replay still, and after it; one that waits for a replay in progress. -/
theorem wit_repairs : (∀ p ∈ [(some 3, false), (some 2, true), (none, true)], let l : Link := { repair := some (3, 17, p.1), replay := [(3, { ch := 0, kind := 4, payload := [], pkt := kN, tries := 1 })] }
      l.up = true ∧ l.retraining = false ∧ l.nakUntil ≤ 0 ∧ (match p.1 with | some k => l.replay.all (fun f => f.1 != k) | none => true) = p.2) ∧ ¬ ({ repair := some (3, 17, none), nakUntil := 5 } : Link).nakUntil ≤ 4 ∧
    (∀ p ∈ [0, 4], portOn (tS tC) p = true) ∧ portOn { tS tC with stage := 0x04 } 0 = true ∧ portOn { tS tC with stage := 0x04 } 1 = false := by decide +kernel

/-! ### The ferry engine -/

/-- Ferry 5 between partition 0 and itself, elements of 4 bytes: `n` elements queued of two it has room for, open or closed. -/
def fry (n : Nat) (en : Bool) : Ferry := { en := en, everClosed := !en, cap := 2, esize := 4, elems := (List.range n).map (fun k => { bytes := [1, 2, 3, 4], stamp := 0, seq := BitVec.ofNat 32 k }), accepted := BitVec.ofNat 32 n }
def tQ (c : Crew) (q : Ferry) : State := { tS c with ferries := [(5, q)] }
/-- The ferry number in scalar 8, the offset in scalar 10: good, misaligned, and a number out of range. -/
def cQs (n off : Word) : Crew := { tC with sreg := [(8, n), (10, off)] }
def qS : QF := { sub := 0, p2 := 10, p1 := 8, d := 4 }
theorem wit_ferries : (∀ c ∈ [cQs 5 1020, cQs 5 1021, cQs 1024 1020], ∀ q ∈ [fry 0 true, fry 1 true, fry 2 true, fry 0 false],
      (∀ i ∈ [Instr.qsend qS, .qtrySend { qS with sub := 1 }], Clear (tQ c q) c i [useS 8 1 false, useS 10 1 false, useS 4 1 true]) ∧
      (∀ i ∈ [Instr.qrecv qS, .qtryRecv qS], Clear (tQ c q) c i [useS 8 1 false, useS 10 1 false, useS 4 4 true])) ∧
    (sget (cQs 5 1021) 10).toNat % 4 ≠ 0 ∧ 1024 ≤ (sget (cQs 1024 1020) 8).toNat ∧ (sget (cQs 5 1020) 10).toNat % 4 = 0 ∧ (sget (cQs 5 1020) 8).toNat < 1024 ∧
    (∀ q ∈ [fry 0 true, fry 1 true, fry 2 true, fry 0 false], (q.en = true ∨ q.everClosed = true) ∧ tC.part = q.prod ∧ tC.part = q.cons ∧ 1020 + q.esize ≤ (teamAt (tQ tC q) tC.teamKey).size) ∧
    ferryClosed (fry 0 false) = true ∧ ferryClosed (fry 0 true) = false ∧ (fry 1 true).elems.length < (fry 1 true).cap + (fry 1 true).granted ∧ (fry 2 true).cap + (fry 2 true).granted ≤ (fry 2 true).elems.length ∧
    (fry 1 true).elems ≠ [] ∧ (fry 0 true).elems = [] ∧ (fry 0 true).fabric = false ∧ (∀ p ∈ (started (tQ tC (fry 0 true)) tC).crews, p.2.wait ≠ .atIssue .ferry) ∧ tC.strict = false ∧ (countedIds tC).length < 16 := by
  simp only [clear_iff]; decide +kernel
/-- Two elements on chip and `n` in the overflow area at 0x500000, of 64 places granted. -/
def fryO (n : Nat) : Ferry := { fry 2 true with ovbase := 0x500000, ovcap := 64, granted := 64, elems := (fry 2 true).elems ++ (List.range n).map (fun k => { bytes := [], stamp := 0, seq := BitVec.ofNat 32 (2 + k), at_ := some (0x500000 + 4 * k) }) }
theorem wit_ferry_overflow : (∀ n ∈ [0, 1], let q := fryO n
      q.elems.length < q.cap + q.granted ∧ q.cap ≤ q.elems.length ∧ (∀ x ∈ q.elems.zipIdx, x.1.at_ = none ↔ x.2 < q.cap) ∧ n < q.ovcap ∧ n ≤ q.elems.length ∧ (∀ x ∈ q.elems, x.at_ ≠ some (q.ovbase + n * q.esize)) ∧
      ∀ m < n, ∃ x ∈ q.elems, x.at_ = some (q.ovbase + m * q.esize)) ∧ (tQ tC (fryO 1)).poison = [] ∧
    (∃ e r1 o r2, (fryO 1).elems = e :: (r1 ++ o :: r2) ∧ e.at_ = none ∧ r1.length + 1 = (fryO 1).cap ∧ (∀ x ∈ r1, x.at_ = none) ∧ o.at_ = some 0x500000 ∧ ∀ x ∈ r2, x.at_ ≠ none) :=
  ⟨by decide, by decide, { bytes := [1, 2, 3, 4], stamp := 0, seq := 0 }, [{ bytes := [1, 2, 3, 4], stamp := 0, seq := 1 }], { bytes := [], stamp := 0, seq := 2, at_ := some 0x500000 }, [], by decide⟩
/-- A crew that was served while it was parked: a sender, and a receiver with its element and without one. -/
theorem wit_ferry_turns : ∀ p ∈ ([(true, none), (false, none), (false, some { bytes := [1, 2, 3, 4], stamp := 0, seq := 0 })] : List (Bool × Option FElem)),
    (turnOf (tQ tC { fry 0 true with turns := [{ crew := 2 ^ 26, send := p.1, pcAt := 0, off := 1020, status := 0x80000000, elem := p.2 }] }) (2 ^ 26) tC.pc p.1).map (fun t => (t.1, t.2.elem)) = some (5, p.2) ∧
    (turnOf (tQ tC (fry 0 true)) (2 ^ 26) tC.pc p.1).isNone = true := by decide
/-- QSEND at address 0 of both partitions; a crew of each partition waits there: that of partition 0 to send on ferry 5, that of partition 1 on ferry 6, both full. -/
def cW (part : Nat) (n : Word) : Crew := { cQs n 1020 with part := part, wait := .atIssue .ferry }
def tCyc : State := { tS (cW 0 5) with
  mem := [(bootText, 0xC1), (bootText + 1, 0x13), (bootText + 2, 0x88), (bootText + 3, 0x02)], clock := 700000
  tlbIsle := [(0, 0, 0, 65536, BitVec.ofNat 64 bootLeaf), (0, 1, 0, 65536, BitVec.ofNat 64 bootLeaf)], parts := [(0, { mask := 1 }), (1, { mask := 2 })]
  crews := [(2 ^ 26, cW 0 5), (2 ^ 26 + 1, cW 1 6)], ferries := [(5, { fry 2 true with cons := 1 }), (6, { fry 2 true with prod := 1 })] }
theorem wit_ferry_cycle : ferryCycles tCyc = [(3, 5)] ∧ (3, 5) ∉ tCyc.cycleRec := by decide +kernel
theorem wit_ferry_grows : growDue { tCyc with ferries := [(5, { fry 2 true with cons := 1, ovbase := 0x10000, ovcap := 64 })] } 5 = true := by decide +kernel

/-! ### The collective engine -/

/-- A slot of two members, this device rank `r`: READY, BROKEN, CLOSING or DEFINING, with what operations it holds. -/
def cm (st : CommState) (r : Nat) (ops : List CollOp) : Comm := { st := st, n := 2, chunk := 64, rank := r, timeout := 10000, members := if r = 0 then [1, 2] else [2, 1], ops := ops }
def op0 (o : Nat) : CollOp := { opc := o, len := 4, dtype := 6, crew := 2 ^ 26, pendId := 7 }
def qC : QF := { qT with p2 := 0 }
/-- The team's record at 32: a descriptor of operation `o` on slot 3 (4 bytes, U32), or a definition of slot 3 as rank 0 of devices 1 and 2. The offset is in scalar 8. -/
def dsc (o : Nat) : Map Byte := [(32, BitVec.ofNat 8 o), (33, 6), (36, 3), (40, 4)]
def dfn : Map Byte := [(32, 3), (34, 2), (36, 64), (64, 1), (66, 2)]
def tL (off : Word) (m : Map Byte) (cs : Map Comm) : State := { tS { tC with sreg := [(8, off)] } with comms := cs, teams := [(2 ^ 26, { bootTeam with scratch := m })] }
def cL (off : Word) : Crew := { tC with sreg := [(8, off)] }
theorem wit_coll : (∀ i ∈ [.coll qC, .collDef { qC with sub := 1 }, .collUndef { qC with sub := 2 }], Clear (tL 33 [] []) (cL 33) i [useS 8 1 false, useS 4 1 true]) ∧ (sget (seen (tL 33 [] []) (cL 33)) 8).toNat % 32 ≠ 0 ∧
    (∀ p ∈ ([(.coll qC, 992), (.collDef { qC with sub := 1 }, 992), (.collUndef { qC with sub := 2 }, 1024)] : List (Instr × Nat)), let c := cL (BitVec.ofNat 32 (p.2 + 32))
      Clear (tL (BitVec.ofNat 32 (p.2 + 32)) [] []) c p.1 [useS 8 1 false, useS 4 1 true] ∧ (teamAt (tL 1024 [] []) c.teamKey).size = 1024 ∧ (countedIds c).length < 16) ∧
    (∀ p ∈ [(0, cm .ready 0 []), (1, cm .ready 1 []), (1, cm .broken 1 [])], let s := tL 32 (dsc p.1) [(3, p.2)]
      Clear s (cL 32) (.coll qC) [useS 8 1 false, useS 4 1 true] ∧ (match collBad (ctxOf s (cL 32) (.coll qC)) qC s with | none => true | some _ => false) = true ∧ (commAt s 3) = p.2 ∧ p.2.ops.length < 4 ∧ p.2.seen = [] ∧ p.2.slots = []) ∧
    (let s := tL 32 (dsc 1) [(3, cm .ready 1 [])]
     let w := updCrew (updComm (started s (cL 32)) 3 (fun d => { d with seq := 1, ops := d.ops ++ [{ descOp (ctxOf s (cL 32) (.coll qC)) s (Memory.bytes (teamAt s (cL 32).teamKey).scratch 32 32) with seq := d.seq }] })) s.cur
       (fun c => addPend c { id := c.seq, kind := .status, ready := false, drains := false, targets := [{ file := .scalar, idx := 4, lane := 0, val := 0 }] })
     (advance w 3).crews = w.crews) := by
  simp only [clear_iff]; decide +kernel
theorem wit_coll_def : (∀ cs ∈ [[], [(3, cm .ready 0 [])]], let s := tL 32 dfn cs
      let x := ctxOf s (cL 32) (.collDef { qC with sub := 1 })
      Clear s (cL 32) (.collDef { qC with sub := 1 }) [useS 8 1 false, useS 4 1 true] ∧ (match defTrap x { qC with sub := 1 } s with | none => true | some _ => false) = true ∧
      at_ (defBytes x { qC with sub := 1 } s) 0 1 = 3 ∧ collUsed s + 2 * 64 ≤ 6 * 2 ^ 20 ∧ (defComm x s (defBytes x { qC with sub := 1 } s)).n = 2) ∧
    (let s := tL 32 [(32, 3), (34, 1), (36, 64), (64, 1)] []
     let x := ctxOf s (cL 32) (.collDef { qC with sub := 1 })
     let d := defComm x s (defBytes x { qC with sub := 1 } s)
     Clear s (cL 32) (.collDef { qC with sub := 1 }) [useS 8 1 false, useS 4 1 true] ∧ (match defTrap x { qC with sub := 1 } s with | none => true | some _ => false) = true ∧ d.n = 1 ∧ memberOf d d.rank = s.deviceId ∧
       (cL 32).pend = [] ∧ (cL 32).held = [] ∧ (cL 32).saving = none) ∧
    (∀ o ∈ [[], [op0 1]], let s := tL 32 dfn [(3, cm .ready 0 o)]
      Clear s (cL 32) (.collUndef { qC with sub := 2 }) [useS 8 1 false, useS 4 1 true] ∧ (match undefTrap (ctxOf s (cL 32) (.collUndef { qC with sub := 2 })) { qC with sub := 2 } s with | none => true | some _ => false) = true ∧ (commAt s 3).ops = o) := by
  simp only [clear_iff]; decide +kernel

/-- The machine with slot 3 and a packet of it from rank `r` with SEQ 0. -/
def kL (r : Nat) : Packet := { typ := 0x31, src := 2, dst := 1, slot := BitVec.ofNat 16 (3 + 256 * r), count := 4, opx := 1 }
def tP (c : Comm) (k : Packet) : State := { tS tC with comms := [(3, c)], arg := { a := 3, pkt := k }, clock := 7000000 }
/-- A DEFINE of slot 3 comes in two pieces: the first of them, and the last where the first is held already. -/
theorem wit_coll_define : ∀ i ∈ [0, 1], let c := { cm .defining 0 [] with defWait := some (2 ^ 26, 7), defParts := (List.range i).map (fun j => (1, j)) }
    let k := { kL 1 with data := (definePieces c).getD i [], faddr := BitVec.ofNat 64 i, opx := 1 }
    let s := tP c k
    commAt s (k.slot.toNat % 64) = c ∧ c.st = .defining ∧ (definePieces c)[k.faddr.toNat % 2 ^ 32]? = some k.data ∧ memberOf c (k.slot.toNat / 256) = k.src ∧ k.slot.toNat / 256 ≠ c.rank ∧ k.slot.toNat / 256 < c.n ∧
      ((∀ j < (definePieces c).length, (1, j) ∈ c.defParts ++ [(1, i)]) ↔ i = 1) ∧ c.defWait = some (2 ^ 26, 7) ∧ memberOf c c.rank = s.deviceId ∧ k.opx = 1 ∧ c.defBorn + 700 * c.timeout ≤ s.clock := by decide +kernel
theorem wit_coll_packets : (∀ c ∈ [cm .ready 0 [], cm .free 0 []], let s := tP c (kL 1)
      (kL 1).slot.toNat % 64 = 3 ∧ commAt s 3 = c ∧ c.ops = [] ∧ c.tideIn = [] ∧ c.closeWait = none) ∧ fld (kL 1).tag.toNat 14 12 = 0 ∧ fld ({ kL 1 with tag := 0x3000 } : Packet).tag.toNat 14 12 = 3 ∧
    (let k := { kL 1 with typ := 0x33, opx := 0 }
     let o := op0 0
     let c := { cm .ready 0 [o] with reps := [(0, 0, 0)] }
     fld k.tag.toNat 14 12 = 0 ∧ fld k.faddr.toNat 39 32 = 0 ∧ c.ops.find? (fun o => o.seq == 0) = some o ∧ mismatch k o = false ∧ (0, 0, 1) ∉ c.reps ∧ (∀ r < c.n, r ≠ 1 → (0, 0, r) ∈ c.reps) ∧ k.opx ≠ 1) ∧
    (let o := { op0 0 with reported := true }
     (cm .ready 1 [o]).ops.find? (fun o => o.seq == 0) = some o) ∧
    (∀ st ∈ [CommState.ready, .broken], let c := cm st 1 [op0 1]
     (tP c (kL 1)).arg.b ≠ 256 ∧ c.ops.find? (fun o => o.seq == 0) = some (op0 1) ∧ (op0 1).born + 700 * c.timeout ≤ (tP c (kL 1)).clock) := by decide +kernel
/-- A piece that differs; rank 1 defines READY slot 3 again; an ABORT of a slot that is DEFINING. -/
theorem wit_coll_defines_again : (let c := { cm .ready 0 [] with definedBy := [1] }
      let n := (definePieces c).length
      let d := { c with defParts := (List.range (n - 1)).map (fun j => (1, j)) }
      let k := { kL 1 with data := (definePieces c).getD (n - 1) [], faddr := BitVec.ofNat 64 (n - 1), opx := 0 }
      d.st = .ready ∧ memberOf d 1 = k.src ∧ 1 ≠ d.rank ∧ 1 < d.n ∧ (definePieces d)[n - 1]? = some k.data ∧ (∀ j < (definePieces d).length, (1, j) ∈ d.defParts ++ [(1, n - 1)]) ∧ 1 ∈ d.definedBy ∧ (1, n - 1) ∉ d.defParts ∧
      ¬ (k.opx = 0 ∧ ∀ j < (definePieces d).length, (1, j) ∈ d.defParts) ∧ (definePieces d)[0]? ≠ some [1]) ∧
    (let c := cm .defining 0 []
     c.closeWait = none ∧ ({ kL 1 with opx := 0 } : Packet).opx ≠ 1) := by decide +kernel
theorem wit_coll_seen : let k := { kL 1 with typ := 0x33, opx := 0 }
    let c := { cm .closing 0 [op0 0] with reps := [(0, 0, 0)], seen := [(0, k)] }
    (mfind c.seen 0).isSome = true ∧ (c.st == .closing) = true ∧ (List.range c.n).all (fun r => r == 1 || c.reps.contains (0, 0, r)) = true ∧ c.reps.contains (0, 0, 1) = false := by decide +kernel
/-- A value of the tide engine waits to be sent to rank 1. -/
def cTide : Comm := { cm .ready 0 [] with tideOut := [(5, 1, some 7)] }
theorem wit_coll_tide : (chunkNext (tP cTide {})).map (fun q => (q.1, q.2.1)) = some (3, 256) ∧ (commAt (tP cTide {}) 3).tideOut = (5, 1, some 7) :: [] := by decide +kernel
/-- Rank 0 broadcasts the first 4 bytes of page 0 on slot 3. -/
def tB : State := { tP (cm .ready 0 [op0 1]) {} with mem := (placeProgram State.reset []).mem, parts := [(0, { mask := 0xFFFFFFFFFFFFFFFF, root := 0x100000 })] }
theorem wit_coll_send : chunkNext tB = some (3, 0, 0, 1) ∧ collOp tB 3 0 = some (op0 1) ∧ (op0 1).opc = 1 ∧
    (match (collRead tB 3 (op0 1) (0 + 0 * chunkSize (cm .ready 0 [op0 1]) (op0 1)) (chunkLen (cm .ready 0 [op0 1]) (op0 1) 0)).2 with | some bs => decide (0 < bs.length ∧ bs.length ≤ 256) | none => false) = true := by decide +kernel
/-- The break exchange of slot 3: before and after this member's report; at rank 0 with the last report to come; at the release. -/
def brk0 (sent : Bool) (reps : List Nat) : Break := { comm := cm .ready 0 [], sent := sent, reps := reps, failAt := some 0 }
theorem wit_coll_recovery : ∀ b ∈ [brk0 false [], brk0 true [], brk0 true [0]],
    let s := { tP (cm .broken 0 []) { kL 1 with tag := 0x2000 } with breaks := [(3, b)], faultq := { base := 0x200000, seq := 1, open_ := [(0, ({ typ := 0x89, hw := true }, .comm 3))] } }
    s.faultq.open_ = [(0, ({ typ := 0x89, hw := true }, .comm s.arg.a))] ∧ mfind s.breaks s.arg.a = some b ∧ b.failAt = some 0 ∧ 0 + 700 * b.comm.timeout ≤ s.clock ∧ fld s.arg.pkt.tag.toNat 14 12 = 2 ∧
      s.arg.pkt.slot.toNat % 64 = 3 ∧ s.arg.pkt.slot.toNat / 256 ∉ b.reps ∧ ((∀ r < b.comm.n, r ≠ s.arg.pkt.slot.toNat / 256 → r ∈ b.reps) ↔ b.reps = [0]) ∧ (commAt s 3).st = .broken ∧ (commAt s 3).ops = [] := by decide +kernel

/-! ### The watch engine -/

/-- Shelf 0's trace buffer of 64 KiB at 0x300000, its pointer words at 0x310000 and 0x310008; scalar 8 holds a value. -/
def buf : TBuf := { base := 0x300000, size := 16, wAddr := 0x310000, rAddr := 0x310008, w := 32, published := 0 }
def tO (c : Crew) (b : Bool) : State := { tS c with tbufs := if b then [(0, buf)] else [], arg := { crew := 2 ^ 26 }, clock := 700 }
def cO (tr : TraceSt) : Crew := { tC with trace := tr, sreg := [(8, 4), (10, 64), (11, 1)] }
def gS : SF := { code := 5, d := 8 }
theorem wit_marks : Clear (tO (cO {}) true) (cO {}) (.tmark gS) [useS 8 1 false] ∧ (∀ b ∈ [true, false], Clear (tO (cO {}) b) (cO {}) (.pmark gS) [useS 8 1 false]) ∧
    (mfind (tO (cO {}) true).tbufs (shelfOf (cO {}).gcrew) = some buf ∧ mget 0 (tO (cO {}) true).lost (shelfOf (cO {}).gcrew) = 0 ∧ (buf.w - BitVec.ofNat 32 (bytesNat (Memory.bytes (tO (cO {}) true).mem buf.rAddr 4))).toNat ≤ 2 ^ buf.size - 64) ∧
    (let c := cO { traced := true, started := true }
     let s := tO c true
     c.trace.syncDue = false ∧ c.trace.sinceSync < 1024 ∧ s.clock - c.trace.lastPkt < 65536 ∧ mfind s.crews s.cur = some c ∧ c.exm ≠ 0 ∧ Instr.wf (.tmark gS) = true ∧ useBad c (useS 8 1 false) = false ∧ hazardOn c = false ∧
      lowWater s = false ∧ acqHold s s.cur = false ∧ ∀ L < 32, c.exm.getLsbD L = false → (frGet c.fr L).st ≠ .live) := by
  simp only [clear_iff]; decide +kernel
/-- In a handler, with the base, length and flag given. -/
def cWs (base len flag : Nat) : Crew := { cO {} with tdepth := 1, sreg := [(8, BitVec.ofNat 32 base), (9, BitVec.ofNat 32 (base / 2 ^ 32)), (10, BitVec.ofNat 32 len), (11, BitVec.ofNat 32 flag)].filter (fun p => p.2 != 0) }
/-- Outside a handler; in one, with a good region of 64 bytes at 4; with a base of 5, a base at 2^56, a length of 66, a flag of 2, and a region that ends 4 bytes past 2^56. -/
theorem wit_watchset : (∀ p ∈ [(5, 64, 1), (2 ^ 56, 64, 1), (4, 66, 1), (4, 64, 2), (2 ^ 56 - 4, 8, 1), (2 ^ 56 - 4, 4, 1)], let c := cWs p.1 p.2.1 p.2.2
      Clear (tO c true) c (.watchset gS) [useS 8 4 false] ∧ (sget2 (seen (tO c true) c) 8).toNat = p.1 ∧ (sget (seen (tO c true) c) 10).toNat = p.2.1 ∧ (sget (seen (tO c true) c) 11).toNat = p.2.2) ∧
    (∀ c ∈ [cO {}, { cO {} with tdepth := 1 }, { cO {} with tdepth := 1, sreg := [(8, 5), (10, 64), (11, 1)] }], Clear (tO c true) c (.watchset gS) [useS 8 4 false] ∧ expertOf c 8 = true) ∧
    (let c := seen (tO { cO {} with tdepth := 1 } true) { cO {} with tdepth := 1 }
     (sget2 c 8).toNat = 4 ∧ (sget c 10).toNat = 64 ∧ (sget c 11).toNat = 1) ∧ (sget2 ({ tC with sreg := [(8, 5)] } : Crew) 8).toNat = 5 ∧
    (∀ s ∈ [tO (cO {}) true, { tO (cO {}) true with armed := [1] }], Clear s (cO {}) .brk []) := by
  simp only [clear_iff]; decide +kernel
def bk : Brk := { lid := 1, off := 0, crew := 0xFFFFFFFF, isleStop := false }
theorem wit_stops : (let s := { tO tC true with brks := [(0, bk)] }
      mfind s.crews s.arg.crew = some tC ∧ bk.lid = tC.lid ∧ bk.crew = 0xFFFFFFFF ∧ bk.isleStop = false ∧ tC.text + bk.off.setWidth 56 = tC.pc ∧ tC.halt = .running ∧ tC.saved = false ∧ tC.stepping ≠ 1) ∧ stepEnds { tC with stepping := 2 } = true ∧
    mfind (tO tC true).tbufs 0 = some buf ∧ buf.w ≠ buf.published ∧ mget 0 ({ tO tC true with lost := [(0, 3)] } : State).lost 0 = 3 ∧
    (buf.w - BitVec.ofNat 32 (bytesNat (Memory.bytes (tO tC true).mem buf.rAddr 4))).toNat ≤ 2 ^ buf.size - 64 ∧ buf.w + 32 ≠ buf.published := by decide +kernel
theorem wit_ticks : ∀ w ∈ [0, 16], let s := { tO tC true with series := { base := 0x400000, frames := 16, k := 10, wAddr := 0x310010, rAddr := 0x310018, w := BitVec.ofNat 32 w, due := [(1024, [])] } }
    s.series.due = [(1024, [])] ∧ decide (s.series.frames ≤ (s.series.w - BitVec.ofNat 32 (bytesNat (Memory.bytes s.mem s.series.rAddr 4))).toNat) = (w == 16) := by decide +kernel
/-- The writer finds room, room for a LOSS packet and the packet, and none; the packet of a crew and PMARK's. -/
def tWb (w r : Nat) (l : Map Nat) : State := { tO tC true with mem := Memory.writes [] 0x310008 (natBytes 4 r), tbufs := [(0, { buf with w := BitVec.ofNat 32 w })], lost := l }
theorem wit_packets : (∀ p ∈ [(32, [], 32, true), (65472, [], 65472, true), (65504, [], 65504, false), (32, [(0, 3)], 64, true)], let s := tWb p.1 0 p.2.1
      (mfind s.tbufs 0).isSome = true ∧ decide ((BitVec.ofNat 32 p.2.2.1 - BitVec.ofNat 32 (bytesNat (Memory.bytes s.mem buf.rAddr 4))).toNat ≤ 2 ^ buf.size - 64) = p.2.2.2 ∧ mget 0 s.lost 0 = (if p.2.1 = [] then 0 else 3)) ∧
    (∀ i < 4, buf.base + 32 + 32 ≤ buf.rAddr + i ∨ buf.rAddr + i < buf.base + 32) ∧
    (let c := { tC with stopNext := some (2, 0, 5) }
     let s := { tO c true with arg := { crew := 2 ^ 26, b := 1 } }
     s.arg.b = 1 ∧ mfind s.crews s.arg.crew = some c ∧ c.halt = .running ∧ c.saved = false ∧ c.xir = none) := by decide +kernel

/-- A request's 64 bytes: OP, FLAGS, CREW 0, LID 1 where the OP has one, ARG0, ARG1, ADDR, RES 0x500000, the pointer words. -/
def wq (op fl arg0 arg1 addr : Nat) : List Byte :=
  let names := op ∉ [1, 3] ∧ ¬ (op = 4 ∧ fl = 0)
  natBytes 4 (op + 256 * fl) ++ natBytes 4 (if names then 1 else 0) ++ natBytes 4 0 ++ natBytes 4 arg0 ++ natBytes 8 addr ++ natBytes 8 arg1 ++ natBytes 8 0x500000 ++ (if op = 1 ∧ arg1 ≠ 0 then natBytes 8 0x310000 ++ natBytes 8 0x310008 else List.replicate 16 0) ++ List.replicate 8 0
/-- The request stands at the head of the ring, for crew `c` of an expert launch. -/
def tWq (c : Crew) : State := { tS c with mem := [(0x40000, 1)], watchRing := { base := 0x30000, tailw := 0x40000, headw := 0x40008, head := 0 } }
def tWr (bs : List Byte) (c : Crew) : State := { tWq c with mem := Memory.writes [(0x40000, 1)] 0x30000 bs }
def headOk (bs : List Byte) (c : Crew) : Bool := match watchHead (tWr bs c) with | (t, .entry b) => decide (t = tWr bs c ∧ b = bs) | _ => false
def reqOk (bs : List Byte) (c : Crew) : Bool :=
  headOk bs c && (match reqCrews (tWr bs c) (watchReqOf bs) with | [p] => p == (2 ^ 26, c) | _ => false) && (watchReqOf bs).all == false && ((mget {} (tWr bs c).launches 1).desc.expert.getLsbD 8 && (watchReqOf bs).crew < crewTotal (mget {} (tWr bs c).launches 1).desc && (mget {} (tWr bs c).launches 1).traced.isEmpty) && decide (mfind (tWr bs c).crews (2 ^ 26) = some c ∧ 1 ∉ (tWr bs c).armed ∧ (tWr bs c).arg.b ≠ 1 ∧ c.pend = [] ∧ c.held = [] ∧ c.saved = false) && decide ((tWr bs c).isleStops = [] ∧ (mfind (tWr bs c).launches 1).isSome)
/-- A stopped crew. -/
def cSt : Crew := { tC with halt := .stopped 3 }
theorem wit_watch_requests : (∀ p ∈ [(2, 1, 0, 0, 0), (5, 0, 0, 0, 0), (5, 1, 0, 16, 0), (6, 1, 0, 0, 0), (6, 0, 0, 0, 0), (7, 0, 0, 0, 0), (10, 0, 0, 0, 0x600000), (13, 0, 0, 0, 0)],
      let bs := wq p.1 p.2.1 p.2.2.1 p.2.2.2.1 p.2.2.2.2
      reqOk bs { tC with wait := .sleep 9 } = true ∧ reqBad bs = false ∧ at_ bs 0 1 = p.1 ∧ (watchReqOf bs).flags = p.2.1) ∧
    (∀ p ∈ [(8, 0), (9, 0), (10, 0x600000), (11, 0x600000), (12, 0)], reqOk (wq p.1 0 0 0 p.2) cSt = true ∧ reqBad (wq p.1 0 0 0 p.2) = false) := by decide +kernel
/-- The requests that name no launch. -/
theorem wit_plain_requests : (∀ p ∈ [(1, 0, 3, 0, 0), (1, 0, 3, 16, 0x300000), (3, 0, 0, 0, 0), (4, 0, 2, 64, 0x10000), (4, 0, 2, 0, 0)], let bs := wq p.1 p.2.1 p.2.2.1 p.2.2.2.1 p.2.2.2.2
      reqBad bs = false ∧ headOk bs tC = true) ∧ headOk (wq 14 0 0 0 0) tC = true ∧ (watchReqOf (wq 14 0 0 0 0)).res < 2 ^ 56 ∧ Intact (tWr (wq 14 0 0 0 0) tC) := by simp only [Intact]; decide +kernel
theorem wit_request_memory : inMem 0x300000 (2 ^ 16) = true ∧ inMem 0x310000 4 = true ∧ inMem 0x600000 (imageSize tC.nregs tC.naccs) = true := by decide +kernel

/-! ### Queues and commands -/

/-- `n` bytes, zero but for the little-endian fields (offset, bytes, value). -/
def rec_ (n : Nat) (l : List (Nat × Nat × Nat)) : List Byte := Memory.bytes (l.foldl (fun m f => Memory.writes m f.1 (natBytes f.2.1 f.2.2)) []) 0 n
/-- The mapping of page 0 to 0x110000, as in a placed program. -/
def pm : Map Byte := (placeProgram State.reset []).mem
/-- Queue `n` with `bs` at the head of its ring, physical where it is queue 0; `vm` are bytes from address 0x1000 of partition 0 on. -/
def tE (n : Nat) (bs vm : List Byte) : State :=
  { tS tC with mem := Memory.writes (Memory.writes (Memory.writes pm (if n = 0 then 0x30000 else 0x118000) bs) (if n = 0 then 0x40000 else 0x11C000) [1]) 0x111000 vm
               parts := [(0, { mask := 0xFFFFFFFFFFFFFFFF, want := 0xFFFFFFFFFFFFFFFF, root := 0x100000 })]
               queues := [(n, if n = 0 then { base := 0x30000, tailw := 0x40000, headw := 0x40008, physical := true } else { base := 0x8000, tailw := 0xC000, headw := 0xC008 })], arg := { a := n } }
def entOk (n : Nat) (bs vm : List Byte) : Bool :=
  (match queueHead (tE n bs vm) n with | (t, .entry b) => decide (t = tE n bs vm ∧ b = bs) | _ => false) && mayStart (tE n bs vm) n bs && !badHeader bs
def ent (kind : Nat) (l : List (Nat × Nat × Nat)) : List Byte := rec_ 128 ((0, 1, kind) :: l)
/-- Launch descriptors: plain and timeline, of launch `lid`, with one wrong field where `bad` holds. -/
def dPlain (lid : Nat) (bad : Bool) : List Byte := rec_ 256 [(0, 1, 1), (8, 1, 64), (9, 1, 64), (11, 1, 1), (12, 1, 1), (13, 1, 1), (0x14, 4, 1), (0x50, 4, lid), (0xE, 2, if bad then 1 else 0)]
def dTime (lid : Nat) : List Byte := rec_ 256 [(0, 1, 2), (8, 1, 64), (9, 1, 64), (11, 1, 1), (12, 1, 1), (13, 1, 1), (0x28, 4, 0x3000), (0x2C, 4, 1), (0x50, 4, lid), (0x58, 8, 1), (0x60, 8, 0x1100), (0x68, 1, 255)]
def shoalTab : List Byte := (List.range 16).flatMap (fun k => rec_ 32 [(0, 8, 0x100000 * (k + 1)), (8, 1, 10), (9, 1, 10)])
/-- A read gives these bytes and leaves the machine as it is. -/
def rdIs (s : State) (a : Nat) (bs : List Byte) : Bool := match vreadAll s { part := 0 } a bs.length with | (t, .ok b) => decide (t = s ∧ b = bs) | _ => false
/-- POST, WAITFLAG, SIGNAL and COPY of queue 0 where partition 0 is not defined. -/
theorem wit_entry_no_partition : ∀ p ∈ [(3, []), (4, [(24, 8, 0x1000), (41, 1, 32)]), (5, [(24, 8, 0x1000), (41, 1, 32)]), (6, [(24, 8, 0x1000), (32, 8, 0x2000), (40, 4, 16)])], let bs := ent p.1 p.2
    let s := { tE 0 bs [] with parts := [] }
    let c := cmdOf s 0 bs
    (match queueHead s 0 with | (t, .entry b) => decide (t = s ∧ b = bs) | _ => false) = true ∧ mayStart s 0 bs = true ∧ badHeader bs = false ∧ (mfind (takeHead s 0).parts c.part).isSome = false ∧ lowWater (takeHead s 0) = false ∧
      s.arg.c ≠ 1 ∧ (p.1 = 4 → flagFields c 2 = true) ∧ (p.1 = 5 → flagFields c 1 = true) ∧ at_ bs 24 8 < 2 ^ 56 ∧ at_ bs 32 8 < 2 ^ 56 ∧ (p.1 = 6 → at_ bs 40 4 ≠ 0) := by decide +kernel
theorem wit_entry_bad : (match queueHead (tE 0 (ent 9 []) []) 0 with | (t, .entry b) => decide (t = tE 0 (ent 9 []) [] ∧ b = ent 9 []) | _ => false) = true ∧ mayStart (tE 0 (ent 9 []) []) 0 (ent 9 []) = true := by decide +kernel
/-- LAUNCH: a bad descriptor, a LID in use, and one that passes. -/
theorem wit_entry_launch : ∀ p ∈ [(2, true), (1, false), (2, false)], let bs := ent 1 [(24, 8, 0x1000)]
    let db := dPlain p.1 p.2
    let S := takeHead (tE 0 bs db) 0
    let c := cmdOf (tE 0 bs db) 0 bs
    entOk 0 bs db = true ∧ c.part = 0 ∧ (mfind S.parts 0).isSome = true ∧ rdIs S 0x1000 db = true ∧ descOk (descOf db) db 1 = !p.2 ∧ (mfind S.launches (descOf db).lid).isSome = (p.1 == 1) ∧ teamFits (descOf db) = true ∧
      (partOf S 0).mask ≠ 0 ∧ (p = (2, false) → launchRefused S c (descOf db) db = none ∧ (descOf db).map = 0) := by decide +kernel
theorem wit_entry_timeline : let bs := ent 2 [(24, 8, 0x1000)]
    let vm := dTime 2 ++ shoalTab
    let S := takeHead (tE 0 bs vm) 0
    let d := descOf (dTime 2)
    entOk 0 bs vm = true ∧ lowWater S = false ∧ launchRefused S (cmdOf (tE 0 bs vm) 0 bs) d (dTime 2) = none ∧ rdIs S 0x1000 (dTime 2) = true ∧ rdIs S d.tltab shoalTab = true ∧ d.tlcomm = 255 ∧
      (∀ k < 16, shoalOk S 0 ((shoalTab.drop (32 * k)).take 32) = true) ∧ d.hcount = 1 ∧ rdIs S (d.text + d.htab) [0, 0, 0, 0] = true ∧ lowWater { S with stage := 0x04 } = true := by decide +kernel
/-- A POST to launch 1 (refused while it is plain), and to a timeline launch with room and with none. -/
def tPo (n : Nat) : State := { tE 0 (ent 3 [(24, 4, 1)]) [] with timelines := [(1, tl0 n)], launches := [(1, { desc := { lid := 1, kind := 2 } })] }
theorem wit_entry_post : (let s := tE 0 (ent 3 [(24, 4, 1)]) []
      let c := cmdOf s 0 (ent 3 [(24, 4, 1)])
      entOk 0 (ent 3 [(24, 4, 1)]) [] = true ∧ postRefused s c = some 6 ∧ postRefused (takeHead s 0) c = some 6) ∧
    (∀ n ∈ [8, 1], let s := tPo n
      let c := cmdOf s 0 (ent 3 [(24, 4, 1)])
      let S := takeHead s 0
      let e := hostEvent (ent 3 [(24, 4, 1)]) (timeAt S 1).hostSeq
      (match queueHead s 0 with | (t, .entry b) => decide (t = s ∧ b = ent 3 [(24, 4, 1)]) | _ => false) = true ∧ mayStart s 0 (ent 3 [(24, 4, 1)]) = true ∧ postRefused s c = none ∧ postRefused S c = none ∧
        (postStore s c).isSome = (n == 8) ∧ (storeEvent S 1 (homeShelf S c.part e.placeAddr e.tail) e).isSome = (n == 8)) := by decide +kernel
/-- WAITFLAG on the 32-bit word 0 at 0x1000 for 0 (holds) and for 1 (does not); SIGNAL, alone and behind a WAITFLAG; COPY. -/
theorem wit_entry_flags : (∀ v ∈ [0, 1], let bs := ent 4 [(24, 8, 0x1000), (32, 8, v), (41, 1, 32)]
      let S := takeHead (tE 0 bs []) 0
      let c := cmdOf (tE 0 bs []) 0 bs
      entOk 0 bs [] = true ∧ flagFields c 2 = true ∧ (match vread S { part := c.part } 0x1000 4 .rd with | (t, .ok b) => decide (t = S ∧ b = [0, 0, 0, 0]) | _ => false) = true) ∧
    (let bs := ent 5 [(24, 8, 0x1000), (32, 8, 7), (41, 1, 32)]
     let S := takeHead (tE 0 bs []) 0
     let c := cmdOf (tE 0 bs []) 0 bs
     entOk 0 bs [] = true ∧ (tE 0 bs []).arg.c ≠ 1 ∧ flagFields c 1 = true ∧ earlierDone S c = true ∧ (vwrite S { part := c.part } 0x1000 (natBytes 4 7)).2 = none ∧
       earlierDone { S with launches := [(1, { desc := { lid := 1 }, queue := 0, entry := 2 ^ 32 - 1 })] } c = false) ∧
    (let bs := ent 6 [(24, 8, 0x1000), (32, 8, 0x2000), (40, 4, 16)]
     entOk 0 bs [] = true) := by decide +kernel

/-- Commands under way in queue 0. -/
def cd (kind : Nat) (l : List (Nat × Nat × Nat)) : Cmd := { queue := 0, n := 0, kind := kind, part := 0, physical := true, stamp := 0, crec := 0, norec := false, body := ent kind l }
def tCm (c : Cmd) (ls : Map Launch) (n : Nat) : State := { tE 0 c.body [] with cmds := [c], launches := ls, timelines := [(1, tl0 n)] }
theorem wit_commands : (∀ p ∈ [([], 8), ([(1, ({ desc := { lid := 1, kind := 2 } } : Launch))], 8)], let c := cd 3 [(24, 4, 1)]
      let s := tCm c p.1 p.2
      cmdAt s 0 0 = some c ∧ (postLaunch s c).isNone = p.1.isEmpty ∧ (postLaunch (takeHead s 0) c).isNone = p.1.isEmpty ∧ (p.1 ≠ [] → (postStore s c).isSome = true ∧ (postStore (takeHead s 0) c).isSome = true)) ∧
    (∀ v ∈ [0, 1], let c := cd 4 [(24, 8, 0x1000), (32, 8, v), (41, 1, 32)]
      let s := tCm c [] 8
      cmdAt s 0 0 = some c ∧ c.fin = none ∧ c.parked = false ∧ (match flagRead s c with | (t, .ok x) => decide (t = s ∧ flagHolds c x = (v == 0)) | _ => false) = true) ∧
    (let c := cd 5 [(24, 8, 0x1000), (32, 8, 7), (40, 1, 1), (41, 1, 32)]
     let s := { tCm c [] 8 with arg := { c := 1 } }
     cmdAt s 0 0 = some c ∧ signalReady s c = true ∧ c.f 40 1 = 1 ∧ (match flagRead s c with | (t, .ok x) => decide (t = s ∧ x = 0) | _ => false) = true ∧ (vwrite s { part := 0 } 0x1000 (natBytes 4 (0 + 7))).2 = none) ∧
    (let c := cd 6 [(24, 8, 0x1000), (32, 8, 0x2000), (40, 4, 16)]
     let s := tCm c [] 8
     cmdAt s 0 0 = some c ∧ 0 < c.f 40 4 - c.aux ∧ (match vread s { part := 0 } 0x1000 16 .rd with | (t, .ok b) => decide (t = s) && (vwrite s { part := 0 } 0x2000 b).2 == none | _ => false) = true) := by decide +kernel
theorem wit_launch_over : let s := { tS tC with launches := [(1, { desc := { lid := 1, nsg := 1, team := 1, cohort := 1, shelfg := 1 }, retired := [0] })], teams := [], crews := [], arg := { a := 1 } }
    launchOver s 1 = true ∧ (mfind s.launches s.arg.a).isSome = true := by decide +kernel
theorem wit_completion : let c := { cd 6 [] with crec := 0x60000 }
    (qwrite (tS tC) c.physical c.part c.crec (recordBytes 1 0 0 c.stamp 0 0 0)).2 = none ∧ c.crec ≠ 0 ∧ ¬ (c.norec = true ∧ (1 : Nat) = 0) := by decide +kernel

/-! ### Partitions, checkpoints, crews and units -/

def hdOk (s : State) (bs : List Byte) : Bool :=
  (match queueHead s s.arg.a with | (t, .entry b) => decide (t = s ∧ b = bs) | _ => false) && mayStart s s.arg.a bs && !badHeader bs && at_ bs 0 1 == 7
def prt (k : Nat) (l : List (Nat × Nat × Nat)) : List Byte := ent 7 ((24, 1, k) :: l)
/-- A PARTITION entry of queue `n`, with `vm` at 0x111000; partition 1 has mask `m`, and no launch is its. -/
def tPa (n : Nat) (bs vm : List Byte) : State := { tE n bs vm with launches := [] }
def tPm (bs : List Byte) (m : BitVec 64) : State := { tPa 0 bs [] with parts := [(0, { mask := 0xFFFFFFFFFFFFFFFE }), (1, { mask := m, want := m })] }
theorem wit_partition_queue : (∀ k ∈ [0, 6], hdOk (tPa 3 (prt k []) []) (prt k []) = true) ∧ (∀ k ∈ [0, 6], hdOk (tPa 0 (prt k [(25, 1, 16)]) []) (prt k [(25, 1, 16)]) = true) ∧ (tPa 3 (prt 0 []) []).arg.b ≠ 1 ∧ lowWater (takeHead (tPa 0 (prt 0 []) []) 0) = false := by decide +kernel
/-- SET of a partition that is there, of one that is not with a bad root, and with a good one; RESIZE. -/
theorem wit_partition_set : (∀ p ∈ [(0, 0x800), (1, 0x801), (1, 0x800)], let bs := prt 0 [(25, 1, p.1), (32, 8, 1), (64, 8, p.2), (88, 1, 4)]
      let S := takeHead (tPa 0 bs []) 0
      hdOk (tPa 0 bs []) bs = true ∧ (mfind S.parts p.1).isSome = (p.1 == 0) ∧ (setFields S (cmdOf (tPa 0 bs []) 0 bs)).isSome = (p.2 == 0x800)) ∧
    (let bs := prt 1 [(32, 8, 1)]
     hdOk (tPa 0 bs []) bs = true ∧ (mfind (takeHead (tPa 0 bs []) 0).parts 0).isSome = true ∧ at_ bs 26 1 = 0) := by decide +kernel
/-- Ferry 0 of capacity 1 and elements of 4 or 5 bytes; queue 3, and queue 0. -/
def dFry (es : Nat) : List Byte := rec_ 32 [(0, 8, 2 ^ 63 + 2 ^ 46 + es)]
def dQue (q : Nat) : List Byte := rec_ 32 [(0, 8, 2 ^ 63 + 0x8000), (8, 8, 0xC000), (16, 8, 0xC008), (24, 8, q + 2 ^ 16 + 4 * 2 ^ 24)]
theorem wit_partition_arrays : ∀ p ∈ [(2, dFry 4, true), (2, dFry 5, false), (3, dQue 3, true), (3, dQue 0, false)], let bs := prt p.1 [(48, 8, 0x111000), (56, 4, 1)]
    let S := takeHead (tPa 0 bs p.2.1) 0
    hdOk (tPa 0 bs p.2.1) bs = true ∧ p.2.1.length = 32 ∧ (match pread S 0x111000 32 with | (t, .ok b) => decide (t = S ∧ b = p.2.1) | _ => false) = true ∧
      (if p.1 = 2 then declareFerry S 0 p.2.1 else declareQueue 0 S p.2.1).isSome = p.2.2 := by decide +kernel
theorem wit_partition_clear : (∀ m ∈ [0, 1], let bs := prt 4 [(25, 1, 1)]
      let S := takeHead (tPm bs (BitVec.ofNat 64 m)) 0
      hdOk (tPm bs (BitVec.ofNat 64 m)) bs = true ∧ (mfind S.parts 1).map (fun q => (q.mask, q.want)) = some (BitVec.ofNat 64 m, BitVec.ofNat 64 m) ∧ (∀ x ∈ S.queues, x.2.part ≠ 1) ∧ (∀ l ∈ S.launches, l.2.part ≠ 1)) ∧
    (let bs := prt 4 []
     let S := takeHead (tPa 0 bs []) 0
     hdOk (tPa 0 bs []) bs = true ∧ (mfind S.parts 0).isSome = true ∧ ∃ x ∈ S.queues, x.2.part = 0) ∧
    (let bs := prt 5 [(32, 8, 0x10000), (40, 8, 0x10000)]
     hdOk (tPa 0 bs []) bs = true ∧ at_ bs 26 1 = 0 ∧ at_ bs 40 8 % 65536 = 0) := by decide +kernel
theorem wit_partition_attest : let bs := prt 6 [(48, 8, 0x60000)]
    hdOk (tPa 0 bs []) bs = true ∧ (qwrite (takeHead (tPa 0 bs []) 0) true 0 (at_ bs 48 8) (List.replicate 256 0)).2 = none := by decide +kernel
theorem wit_partition_parts : (∀ k ∈ [0, 1], let c := cd 7 [(24, 1, k)]
      let s := { tCm c [] 8 with arg := { b := 1 } }
      cmdAt s s.arg.a s.arg.c = some c ∧ c.kind = 7 ∧ at_ c.body 24 1 = k ∧ (mfind s.parts 0).map (fun q => q.want == q.mask) = some true ∧ (∀ a < 64, c.aux.testBit a = true → atollEmpty s a = true)) ∧
    (let s := tPm [] 0
     let s := { s with parts := [(0, { mask := 1, want := 3 }), (1, { mask := 2, want := 2 })] }
     atollIdle s 1 = false ∧ (mfind s.parts 0).map (fun q => (q.want.getLsbD 1, q.mask.getLsbD 1)) = some (true, false)) := by decide +kernel
/-- INVAL of the whole partition while a lane of a CPY has begun and has not finished; with MODE 1 and a root that is no multiple of 2048; queue 3 with EN 0. -/
def oBeg : CopyOp := { oCpy with srcSp := false, begun := [(0, (0x110000, 64))] }
theorem wit_partition_inval : (let bs := prt 5 []
      let s := { tPa 0 bs [] with copies := [oBeg] }
      hdOk s bs = true ∧ at_ bs 26 1 = 0 ∧ invalBusy (takeHead s 0) (cmdOf s 0 bs) = true ∧ invalBusy (takeHead (tPa 0 bs []) 0) (cmdOf (tPa 0 bs []) 0 bs) = false) ∧
    (∀ p ∈ [(0x100000, true), (0x100001, false)], let bs := prt 5 [(26, 1, 1), (64, 8, p.1)]
      hdOk (tPa 0 bs []) bs = true ∧ at_ bs 26 1 = 1 ∧ decide (at_ bs 64 8 % 2048 = 0 ∧ inMem (at_ bs 64 8) 2048 = true) = p.2) ∧
    (let c := cd 7 [(24, 1, 5)]
     let s := { tCm c [] 8 with arg := { b := 1 } }
     cmdAt s s.arg.a s.arg.c = some c ∧ c.kind = 7 ∧ at_ c.body 24 1 = 5 ∧ invalBusy s c = false ∧ invalBusy { s with copies := [oBeg] } c = true) := by decide +kernel
theorem wit_ferry_declared : (let w := at_ (dFry 4) 0 8
      fld w 39 9 = 0 ∧ at_ (dFry 4) 8 8 < 2 ^ 52 ∧ at_ (dFry 4) 16 8 < 2 ^ 24 ∧ at_ (dFry 4) 24 8 = 0 ∧ 2 ^ 63 ≤ w ∧ fld w 61 61 = 0 ∧ fld w 52 46 = 1 ∧ fld w 8 0 = 4 ∧ at_ (dFry 4) 8 8 % 65536 = 0 ∧ (ferryAt (tS tC) 5).en = false) ∧
    (∀ es ∈ [4, 256], let d := rec_ 32 [(0, 8, 64 * 2 ^ 46 + es), (8, 8, hbmSize - 65536), (16, 8, 65536 / es)]
      let w := at_ d 0 8
      w < 2 ^ 63 ∧ fld w 61 61 = 0 ∧ fld w 39 9 = 0 ∧ at_ d 24 8 = 0 ∧ fld w 52 46 = 64 ∧ fld w 8 0 = es ∧ at_ d 8 8 % 65536 = 0 ∧ at_ d 16 8 ≠ 0 ∧ at_ d 8 8 + at_ d 16 8 * fld w 8 0 = hbmSize) ∧
    (ferryAt (tQ tC (fry 0 true)) 5).en = true ∧ (ferryAt (tQ tC (fry 0 true)) 5).esize ≠ fld (at_ (dFry 8) 0 8) 8 0 ∧ (∀ p ∈ (tQ tC (fry 0 true)).crews, p.2.wait ≠ .atIssue .ferry) ∧ fld (at_ (dFry 5) 0 8) 8 0 % 4 ≠ 0 ∧ (List.replicate 32 (0 : Byte)).length = 32 := by decide +kernel

/-- CHECKPOINT of queue `n` in MODE `m` with a range at the base of the second tier of `len` bytes; nothing is resident. -/
def ckp (m len : Nat) : List Byte := ent 8 [(24, 8, tierBase), (32, 8, len), (40, 1, m)]
def tCk (n m len : Nat) : State := { tPa n (ckp m len) [] with teams := [], crews := [] }
def ckOk (s : State) (bs : List Byte) : Bool := (match queueHead s s.arg.a with | (t, .entry b) => decide (t = s ∧ b = bs) | _ => false) && mayStart s s.arg.a bs && !badHeader bs && at_ bs 0 1 == 8
theorem wit_checkpoint : (∀ p ∈ [(3, 0, 0), (3, 1, 0), (0, 0, 0), (0, 0, hbmSize + 2 ^ 27)], let s := tCk p.1 p.2.1 p.2.2
      ckOk s (ckp p.2.1 p.2.2) = true ∧ lowWater (takeHead s p.1) = false ∧ ckptRange (cmdOf s p.1 (ckp p.2.1 p.2.2)) = (p.2.2 != 0) ∧ (∀ t ∈ (takeHead s p.1).teams, t.2.saved = true)) ∧
    (let s := { tCk 0 1 (hbmSize + 2 ^ 27) with stage := 0x04 }
     let s := { s with mem := Memory.writes (Memory.writes s.mem tierBase [1]) (tierBase + 8) (natBytes 2 s.deviceId.toNat) }
     let S := takeHead s 0
     ckOk s (ckp 1 (hbmSize + 2 ^ 27)) = true ∧ lowWater S = true ∧ S.ecc = [] ∧ S.poison = [] ∧ tierBase + 65536 < tierBase + 65536 + chipLen S tierBase ∧
       (match pread S tierBase 64 with | (t, .ok h) => decide (t = S ∧ at_ h 0 8 = 1 ∧ at_ h 8 2 = S.deviceId.toNat) | _ => false) = true) := by decide +kernel
theorem wit_checkpoint_quiet : quiesced (tCk 0 0 0) = true ∧ quiesced (tS tC) = false ∧ (tCk 0 0 0).cmds = [] ∧ hbmSize ≤ tierBase ∧ Memory.wf (tCk 0 0 0).mem = true ∧ (0 < hbmSize ∧ 0 ∉ ({ tCk 0 0 0 with ckpt := some (tierBase, hbmSize + 2 ^ 27, 0, some 0) } : State).ckptEarly) := by decide +kernel

/-- A crew with all lanes ended: alone in its team, or beside another of it; of a strict launch or not. -/
def cE (strict : Bool) : Crew := { tC with fr := [(0, { st := .ended, resume := 0 }), (2, { st := .ended, resume := 0 })], exm := 0, strict := strict }
def tEn (strict alone : Bool) : State := { tS (cE strict) with crews := if alone then [(2 ^ 26, cE strict)] else [(2 ^ 26, cE strict), (2 ^ 26 + 1, { tC with lcid := 1 })], arg := { crew := 2 ^ 26 } }
theorem wit_crew_retires : ∀ b ∈ [true, false], ∀ a ∈ [true, false], let s := tEn b a
    let c := cE b
    s.arg.b ≠ 1 ∧ mfind s.crews s.arg.crew = some c ∧ (mfind s.launches c.lid).map (fun l => (l.tokPos, l.passed, l.desc.map)) = some (c.lcid, [], 0) ∧ (∀ L < 32, (frGet c.fr L).st = .ended ∨ (frGet c.fr L).st = .absent) ∧ c.tdepth = 0 ∧
      c.pend = [] ∧ c.held = [] ∧ c.trapReq = none ∧ c.park = none ∧ c.trace.traced = false ∧ c.timeline = false ∧
      (if a then ∀ p ∈ s.crews, p.2.teamKey = c.teamKey → p.1 = s.arg.crew else ∃ p ∈ s.crews, p.1 ≠ s.arg.crew ∧ p.2.teamKey = c.teamKey) ∧
      (mfind s.teams c.teamKey).map (fun t => (t.lid, t.old)) = some (c.lid, false) ∧ s.copies = [] := by decide +kernel
/-- The launch's MAP is at 0x100. -/
theorem wit_crew_sets_its_bit : let s := { tEn false true with launches := [(1, { desc := { lid := 1, map := 0x100 } })], mem := pm, parts := [(0, { mask := 1, root := 0x100000 })] }
    (mget {} s.launches 1).desc.map ≠ 0 ∧ (mget {} s.launches 1).desc.kind ≠ 2 ∧ Intact s ∧ okPg (xlate s { lid := 1, part := 0 } (0x100 + (teamAt s (cE false).teamKey).ix / 8) .rw).2 tPg = true := by simp only [Intact]; decide +kernel
theorem wit_event_crew : let s := { tT tC { tl0 8 with table := [row0 2] } with arg := {} }
    (timeAt s 1).table = [row0 2] ∧ (row0 2).pos = 0 ∧ (row0 2).lane < 32 := by decide +kernel

/-- Launch 2 waits with one unit, in a partition of atolls 0 and 4: a plain one with its saved team, or its team not yet dispatched, or a timeline's crew that prefers shelf 0; isles 0 to 3 stopped where `full` holds. -/
def lU (kind prio : Nat) (disp : List Nat) : Launch := { desc := { kind := kind, lid := 2, regs := 8, team := 1, cohort := 1, shelfg := 1, nsg := 1, scratch := 1024 }, prio := prio, dispatched := disp, readyAt := [(0, 0)] }
def tU (l : Launch) (full : Bool) (clock : Nat) : State :=
  { State.reset with stage := 0x06, clock := clock, parts := [(0, { mask := 0x11 })], launches := [(2, l)], timelines := [(2, { tl0 8 with ncrews := 1, table := [{ row0 0 with shelf := 0 }] })]
                     isleStops := if full then (List.range 4).map (fun i => (i, 0, [])) else [], arg := { crew := 2 ^ 26 } }
def nextIs (s : State) (back late : Bool) : Bool := match nextUnit s with | some (w, _, _, x) => w.back == back && x == late | none => false
theorem wit_units : nextIs (tU (lU 1 0 []) false 0) false false = true ∧ nextIs (tU (lU 2 0 []) true 1400) false true = true ∧ nextIs { tU (lU 1 0 [0]) false 0 with teams := [(2 ^ 27, { lid := 2, size := 1024, saved := true })] } true false = true ∧
    (let s := tU (lU 2 0 []) true 1399
     let w : Unit_ := { l := lU 2 0 [], u := 0, back := false }
     prefShelf s w = some 0 ∧ fixedShelf s w = none ∧ (placeAll s [w] 0).isSome = false ∧ s.clock < mget 0 w.l.readyAt w.u + 1400) := by decide +kernel
/-- Four teams of launch 1 fill the isles of atoll 0, the last dispatched on isle 3; launch 2 has priority 1 and has waited for 5 µs. -/
def tPre : State := { tU (lU 1 1 []) false 3500 with parts := [(0, { mask := 1 })], launches := [(1, { desc := { lid := 1, team := 1, cohort := 1, shelfg := 1, nsg := 4, scratch := 524288 }, dispatched := [0, 1, 2, 3] }), (2, { lU 1 1 [] with noRoom := [(0, 0)] })], teams := (List.range 4).map (fun k => (2 ^ 26 + k, { lid := 1, ix := k, isle := k, disp := k, size := 524288 })) }
theorem wit_preemption : preemptNext tPre = some [(1, 3)] := by decide +kernel
/-- A crew whose save began at 0 with a result outstanding, and one saved alone. -/
def cSv (b : Nat) (ready : Bool) : Crew := { cRq with saving := some b, pend := cRq.pend.map (fun p => { p with drains := !ready }) }
theorem wit_saves : (∀ p ∈ [(14000, false), (13999, true)], let s := { tS (cSv 0 p.2) with clock := p.1, arg := { crew := 2 ^ 26 } }
      mfind s.crews s.arg.crew = some (cSv 0 p.2) ∧ (cSv 0 p.2).saved = false ∧ (cSv 0 p.2).xir = none ∧ ((cSv 0 p.2).alone = true ∨ copiesLand s (cSv 0 p.2).lid (cohortOf s (teamAt s (cSv 0 p.2).teamKey)) = false) ∧ (0 + 14000 ≤ s.clock ∨ ∀ q ∈ (cSv 0 p.2).pend, q.drains = false)) ∧ (∃ p ∈ (cSv 0 false).pend, p.drains = true) ∧
    mayReturn (tS { tC with saved := true, alone := true }) (2 ^ 26) = true ∧ tC.readySince + 64 ≤ 64 := by decide +kernel
/-- Two crews of one cohort whose saves have begun: both drained, and one that waits. -/
def tMates (ready : Bool) : State :=
  { tS { cSv 0 true with markerWait := false } with
    crews := [(2 ^ 26, cSv 0 true), (2 ^ 26 + 1, { cSv 0 ready with lcid := 1 })], clock := 100, arg := { crew := 2 ^ 26 } }
theorem wit_saves_together : (cSv 0 true).saving = some 0 ∧ (cSv 0 true).readySince ≤ 100 ∧ (cSv 0 true).alone = false ∧ (∀ p ∈ (cSv 0 true).pend, p.drains = false) ∧ (∃ p ∈ (cSv 0 false).pend, p.drains = true) ∧
    (cohortCrews (tMates true) 1 (cohortOf (tMates true) (teamAt (tMates true) (2 ^ 26)))).length = 2 ∧ copiesLand (tMates true) 1 (cohortOf (tMates true) (teamAt (tMates true) (2 ^ 26))) = false := by decide +kernel
/-- A timeline's crew whose preferred shelf has room; a second cohort of a shelf group whose first is on shelf 0. -/
theorem wit_shelves : (let s := tU (lU 2 0 []) false 1400
      let w : Unit_ := { l := lU 2 0 [], u := 0, back := false }
      prefShelf s w = some 0 ∧ fixedShelf s w = none ∧ (placeAll s [w] 0).isSome = true ∧ s.clock ≤ mget 0 w.l.readyAt w.u + 1400) ∧
    (let l : Launch := { desc := { lid := 2, regs := 8, team := 1, cohort := 1, shelfg := 2, nsg := 1, scratch := 1024 }, dispatched := [0], groupShelf := [(0, 0)] }
     let s := { tU l false 0 with teams := [(2 ^ 27, { lid := 2, ix := 0, isle := 0, size := 1024 })] }
     (fixedShelf s { l := l, u := 1, back := false }) = some 0) := by decide +kernel

/-! ### The stack engine, bring-up, and the machine as a whole -/

def recMem : Map Byte := Memory.writes pm 0x20003C [1]
def tFq (r : FRec) (o : RecOwner) : State := { tS tC with mem := recMem, tlbIsle := [], parts := [(0, { mask := 1, root := 0x100000 })], faultq := { base := 0x200000, seq := 1, open_ := [(0, (r, o))] } }
/-- Page 0 is mapped, page 1 is not. -/
theorem wit_walks : (let s := tFq {} .nobody
      Intact s ∧ (mfind s.parts s.arg.c).isSome = true ∧ walkAt s (lowWater s) s.arg.b walkLevels 0 0x100000 = .leaf bootLeaf 65536 ∧ fld bootLeaf 63 63 = 0 ∧ s.tlbIsle = [] ∧ s.tlbAtoll = []) ∧
    (∀ p ∈ [(0, RecOwner.nobody), (0, .crew (2 ^ 26)), (0x10000, .crew (2 ^ 26))], let r : FRec := { typ := 0x10, hw := true, addr := BitVec.ofNat 64 p.1 }
      let s := tFq r p.2
      mfind s.faultq.open_ s.arg.a = some (r, p.2) ∧ bytesNat (Memory.bytes s.mem (recAddr s.faultq s.arg.a + 60) 4) = 1 ∧ Intact s ∧ (partOf s r.part).btab = 0 ∧
        (walkAt s (lowWater s) r.addr.toNat walkLevels 0 (partOf s r.part).root = if p.1 = 0 then .leaf bootLeaf 65536 else .absent) ∧ ∀ f ∈ pageFrames s r.part r.addr.toNat, retiring s f = false) ∧
    (let r : FRec := { typ := 0x10, hw := true }
     let s := tFq r (.crew (2 ^ 26))
     let s := { s with faultq := { s.faultq with open_ := s.faultq.open_ ++ [(1, ({ typ := 0x8B, hw := true }, .page (bootText / 128)))] } }
     ∃ f ∈ pageFrames s r.part r.addr.toNat, retiring s f = true) := by
  simp only [Intact]; decide +kernel
theorem wit_tables : (takeTable { tFq {} .nobody with parts := [(0, { spare := [(2048, [0x300000])] })] } 0 2048).2 = some 0x300000 := by decide +kernel
/-- A backing entry, and a table of entries with a pool of `tail` frames that PGNP record 0 for address `a` is to be mapped from. -/
def ben (v l s a : Nat) : List Byte := natBytes 8 v ++ natBytes 8 l ++ natBytes 8 s ++ natBytes 8 a
def tMp (n : Nat) (bt : List Byte) (tail a : Nat) : State :=
  { tFq { typ := 0x10, hw := true, addr := BitVec.ofNat 64 a } (.crew (2 ^ 26)) with
    mem := Memory.writes (Memory.writes (Memory.writes recMem 0x210000 (natBytes 4 n ++ List.replicate 28 0 ++ bt)) 0x220000 (natBytes 8 0x400000)) 0x230000 (natBytes 4 tail)
    parts := [(0, { mask := 1, root := 0x100000, btab := 0x210000, pool := 0x220000, psize := 4, ptail := 0x230000, phead := 0x230008 })] }
/-- Page 1 is absent: too many entries, none that covers it, one with a source that is no multiple of 65,536, a good one without a frame, and with one; page 0 is mapped. -/
theorem wit_mapping : (∀ p ∈ [(4097, [], 0), (1, ben 0 0x10000 (2 ^ 63) 0, 0), (1, ben 0x10000 0x10000 0x110001 0, 0), (1, ben 0x10000 0x10000 (2 ^ 63) 0, 0), (1, ben 0x10000 0x10000 (2 ^ 63) 0, 1)], let s := tMp p.1 p.2.1 p.2.2 0x10000
      let q := partOf s 0
      walkAt s (lowWater s) 0x10000 walkLevels 0 q.root = .absent ∧ bytesNat (Memory.bytes s.mem q.btab 4) = p.1 ∧ inMem q.btab 64 = true ∧ bytesNat (Memory.bytes s.mem q.ptail 4) = p.2.2 ∧ inMem q.ptail 4 = true ∧ inMem q.phead 8 = true ∧
        inMem q.pool 8 = true ∧ fld (bytesNat (Memory.bytes s.mem q.pool 8)) 51 16 * 65536 + 65536 ≤ hbmSize ∧ q.taken = 0 ∧ s.badPages = [] ∧ (∀ f ∈ pageFrames s 0 0x10000, retiring s f = false)) ∧
    backingOk (ben 0x10000 0x10000 0x110001 0) = false ∧ backingOk (ben 0x10000 0x10000 (2 ^ 63) 0) = true ∧ walkAt (tMp 0 [] 0 0) (lowWater (tMp 0 [] 0 0)) 0 walkLevels 0 0x100000 = .leaf bootLeaf 65536 ∧
    walkAt { tMp 0 [] 0 0 with mem := [(0x100000, 3)] } false 0 walkLevels 0 0x100000 = .malformed := by decide +kernel

/-- The ROM waits for an image with an empty staging area but for its flag. -/
def tSg (img : List Byte) : State := { State.reset with stage := 0x03, mem := Memory.writes (Memory.writes [] (stageAt State.reset) img) (stageAt State.reset + 33 * 2 ^ 20 - 4) [1] }
/-- The flash holds an image of its header alone. -/
def tFl (img : List Byte) : State := { State.reset with flash := img.zipIdx.map (fun p => (p.2, p.1)) }
theorem wit_stages : imageAccepted (tFl (List.replicate 256 0)) (flashImage (tFl (List.replicate 256 0))) = false ∧ bytesNat (Memory.bytes (tSg []).mem (stageAt (tSg []) + 33 * 2 ^ 20 - 4) 4) = 1 ∧
    imageAccepted (tSg []) (stagedImage (tSg [])) = false ∧ (∃ l ∈ (tPre).launches, l.2.restored = false) ∧ (∀ l ∈ State.reset.launches, l.2.restored = true) ∧ State.reset.badPages = [] ∧
    (∀ n ∈ [0, 16, 32, 48], 84 < (sensorLimits n).1 ∧ (sensorLimits n).1 < (sensorLimits n).2) := by decide +kernel
/-- An image of its header alone, with the digest of its empty payload. It is accepted where the signer's key and the signature are good, which the model leaves open. -/
def img : List Byte := natBytes 4 0x46524448 ++ List.replicate 28 0 ++ [0x1A, 0xB2, 0x1D, 0x83, 0x55, 0xCF, 0xA1, 0x7F, 0x8E, 0x61, 0x19, 0x48, 0x31, 0xE8, 0x1A, 0x8F, 0x22, 0xBE, 0xC8, 0xC7, 0x28, 0xFE, 0xFB, 0x74,
  0x7E, 0xD0, 0x35, 0xEB, 0x50, 0x82, 0xAA, 0x2B] ++ List.replicate 192 0
theorem wit_image (h1 : sm3 (List.replicate 64 0) = Config.signerHash) (h2 : Config.sm2Verify (List.replicate 64 0) (List.replicate 64 0) (img.take 128) = true) :
    imageAccepted (tSg img) (stagedImage (tSg img)) = true ∧ imageAccepted (tFl img) (flashImage (tFl img)) = true := by
  have e : stagedImage (tSg img) = img := eq_of_beq (by decide +kernel)
  have e' : flashImage (tFl img) = img := eq_of_beq (by decide +kernel)
  have d1 : (img.drop 64).take 64 = List.replicate 64 0 := eq_of_beq (by decide +kernel)
  have d2 : (img.drop 128).take 64 = List.replicate 64 0 := eq_of_beq (by decide +kernel)
  have d3 : sm3 (img.drop 256) = BitVec.ofNat 256 (at_ img 32 32) := eq_of_beq (by decide +kernel)
  simp only [imageAccepted, e, e', List.drop_zero, d1, d2, d3, h1, h2, beq_self_eq_true, Bool.and_true]
  decide +kernel
/-- GB/T 32905: the digest of "abc". -/
theorem test_sm3 : sm3 [0x61, 0x62, 0x63] = BitVec.ofNat 256 (bytesNat [0x66, 0xC7, 0xF0, 0xF4, 0x62, 0xEE, 0xED, 0xD9, 0xD1, 0xF2, 0xD4, 0x6B, 0xDC, 0x10, 0xE4, 0xE2, 0x41, 0x67, 0xC4, 0x87, 0x5C, 0xF2, 0xF7, 0xA2,
    0x29, 0x7D, 0xA0, 0x2B, 0x8F, 0x4B, 0xA8, 0xE0]) := by decide +kernel

/-- Inside WRSR to `exm`, LDC and a counted access; instruction 7 with a held fault, and with a line that still waits. -/
def cIn (h : List HeldFault) : Crew := { tC with ldcBusy := [(3, 9)], held := h }
theorem wit_steps_inside : (let s := { tS (cIn []) with arg := { crew := 2 ^ 26, a := 1 } }
      mfind s.crews s.arg.crew = some (cIn []) ∧ (cIn []).exm &&& BitVec.ofNat 32 s.arg.a ≠ 0) ∧ ((cIn []).ldcBusy.find? (fun b => b.1 == 3)) = some (3, 9) ∧ stillOut (tS (cIn [])) (2 ^ 26) (cIn []) 7 = false ∧ stillOut (tS (cIn [])) (2 ^ 26) (cIn []) 9 = true ∧
    (let h := { hf 7 with returning := false, due := false }
     stillOut (tS (cIn [h])) (2 ^ 26) (cIn [h]) 7 = false ∧ h.seq = 7 ∧ h.returning = false ∧ (∃ L < 32, (frGet (cIn [h]).fr L).st = .live)) := by decide +kernel

/-- IADD v4, v8, v10 placed as the next instruction. -/
def wAdd : Nat := 0x28201001
def tGo : State := State.reset.withFetchWord 32 wAdd
theorem wit_step : let q := noteRoom (noteReady tGo)
    let s1 := if tGo.clock < tGo.polled + 64 ∧ crewReady tGo = true then q else { q with polled := tGo.clock }
    tGo.agenda = [] ∧ serves tGo = true ∧ tGo.netIn = [] ∧ (dueNext tGo).isNone = true ∧ (match (cyclePicks s1).head? with | some p => p.1 == tGo.cur | none => false) = true ∧ mfind s1.crews tGo.cur = some bootCrew ∧
    bootCrew.xir = none ∧ (brkHit s1 bootCrew).isNone = true ∧
    (match (fetchBytes s1 bootCrew bootCrew.pc).2 with | .ok bs => bs == natBytes 4 wAdd && (match decode bs with | .ok _ => true | .error _ => false) | .error _ => false) = true := by decide +kernel
theorem wit_encodings : ({ instr := .iadd f2, m := 0, aux := 0 } : Fetched).wf = true ∧ (match decode (natBytes 4 wAdd) with | .ok _ => true | .error _ => false) = true := by decide +kernel
theorem wit_memory_step : Memory.wf State.reset.mem = true ∧ (match step State.reset with | .next _ => true | _ => false) = true := by decide +kernel

/-! ## What instructions do: one step each, expected values from the rows, tables and worked examples of the spec, or worked out by hand from them -/

/-- Vector registers 8 and 10 hold `a` and `b` in lanes 0 and 2, register 4 the old destination `d`. -/
def cV (a b d : Nat) : Crew := { tC with v := [(32 * 4, BitVec.ofNat 32 d), (32 * 4 + 2, BitVec.ofNat 32 d), (32 * 8, BitVec.ofNat 32 a), (32 * 8 + 2, BitVec.ofNat 32 a), (32 * 10, BitVec.ofNat 32 b), (32 * 10 + 2, BitVec.ofNat 32 b)] }
/-- The crew after one instruction. -/
def after (i : Instr) (s : State) : Crew := match exec i s with | .next t => crewAt t (2 ^ 26) | _ => {}
/-- Register 4 in lane 2, the flags of lane 2, and register 5, after one instruction. -/
def res (i : Instr) (a b d : Nat) : Nat := (vget (after i (tS (cV a b d))) 4 2).toNat
def resF (i : Instr) (a b d : Nat) : Nat × Nat := let c := after i (tS (cV a b d)); ((vget c 4 2).toNat, (mget 0 c.fflags 2).toNat)

/-- R183, R70: wraps, high halves, the accumulate, the signs of quotients and their corners. -/
theorem test_integer : ([(Instr.iadd, 0xFFFFFFFF, 1, 0, 0), (.isub, 0, 1, 0, 0xFFFFFFFF), (.imul, 0x10001, 0x10000, 0, 0x10000), (.imulh, 0xFFFFFFFF, 2, 0, 0xFFFFFFFF), (.umulh, 0xFFFFFFFF, 0xFFFFFFFF, 0, 0xFFFFFFFE), (.imad, 3, 5, 7, 22),
    (.imin, 0x80000000, 0, 0, 0x80000000), (.imax, 0x80000000, 0, 0, 0), (.umin, 0x80000000, 0, 0, 0), (.umax, 0x80000000, 0, 0, 0x80000000), (.idiv, 0xFFFFFFF9, 2, 0, 0xFFFFFFFD), (.idiv, 0x80000000, 0xFFFFFFFF, 0, 0x80000000),
    (.udiv, 0xFFFFFFF9, 2, 0, 0x7FFFFFFC), (.irem, 0xFFFFFFF9, 2, 0, 0xFFFFFFFF), (.urem, 7, 0, 0, 0), (.iadds, 0x7FFFFFFF, 1, 0, 0x7FFFFFFF), (.iadds, 0x80000000, 0xFFFFFFFF, 0, 0x80000000)] : List ((TF → Instr) × Nat × Nat × Nat × Nat)).all
    (fun p => res (p.1 f2) p.2.1 p.2.2.1 p.2.2.2.1 == p.2.2.2.2) = true ∧ res (.iabs f1) 0x80000000 0 0 = 0x80000000 := by decide +kernel

/-- R184 to R186: shifts by 31 and by the width, counts of zero, the field of the spec's BFX example, an insertion at the top, and SEL's two ways. -/
theorem test_bits : ([(Instr.and, 0xF0F0, 0xFF00, 0, 0xF000), (.or, 0xF0F0, 0xFF00, 0, 0xFFF0), (.xor, 0xF0F0, 0xFF00, 0, 0x0FF0), (.andn, 0xF0F0, 0xFF00, 0, 0x00F0), (.shl, 1, 31, 0, 0x80000000), (.shl, 1, 32, 0, 0), (.shr, 0x80000000, 31, 0, 1),
    (.sar, 0x80000000, 32, 0, 0xFFFFFFFF), (.rotl, 0x80000001, 33, 0, 3), (.bfx, 0x00000AB0, 0x0804, 0, 0xAB), (.bfx, 0x00000AB0, 0x10804, 0, 0xFFFFFFAB), (.bfi, 0xFF, 0x081C, 0, 0xF0000000), (.sel, 1, 2, 9, 1), (.sel, 1, 2, 0, 2)]
    : List ((TF → Instr) × Nat × Nat × Nat × Nat)).all (fun p => res (p.1 f2) p.2.1 p.2.2.1 p.2.2.2.1 == p.2.2.2.2) = true ∧
    ([(Instr.popc, 0xF0F0, 8), (.clz, 0, 32), (.clz, 1, 31), (.brev, 1, 0x80000000), (.mov, 7, 7)] : List ((TF → Instr) × Nat × Nat)).all (fun p => res (p.1 f1) p.2.1 0 0 == p.2.2) = true := by decide +kernel

/-- R187: signed against unsigned; the mask forms set only active lanes. -/
theorem test_comparisons : ([(Instr.iseteq, 5, 5, 1), (.isetne, 5, 5, 0), (.isetlt, 0x80000000, 0, 1), (.isetle, 0, 0x80000000, 0), (.usetlt, 0x80000000, 0, 0), (.usetle, 0, 0x80000000, 1)] : List ((TF → Instr) × Nat × Nat × Nat)).all
      (fun p => res (p.1 f2) p.2.1 p.2.2.1 0 == p.2.2.2) = true ∧
    ([(Instr.mskeq, 5, 5, 5), (.mskne, 5, 5, 0), (.msklt, 0x80000000, 0, 5), (.mskle, 0, 0x80000000, 0), (.umsklt, 0x80000000, 0, 0)] : List ((TF → Instr) × Nat × Nat × Nat)).all
      (fun p => (sget (after (p.1 f2) (tS (cV p.2.1 p.2.2.1 0))) 4).toNat == p.2.2.2) = true ∧ (sget (after (.ballot f1) (tS (cV 1 0 0))) 4).toNat = 5 ∧ (sget (after (.movs f1) (tS (cV 9 0 0))) 4).toNat = 9 := by decide +kernel

/-- Eight active lanes with the keys and F32 values of the example of R192, in registers 8 and 10. -/
def cKey : Crew := { tC with exm := 0xFF, fr := (List.range 8).map (fun L => (L, { st := .live, resume := 0 })),
                             v := ([3, 1, 3, 3, 1, 7, 1, 3].zipIdx.map (fun p => (32 * 8 + p.2, BitVec.ofNat 32 p.1))) ++ ([0x3F000000, 0x40000000, 0x3E800000, 0x3F800000, 0xC0000000, 0x40800000, 0x3F000000, 0x40400000].zipIdx.map (fun p => (32 * 10 + p.2, BitVec.ofNat 32 p.1))) }
def row (i : Instr) (r : Nat) : List Nat := (List.range 8).map (fun L => (vget (after i (tS cKey)) r L).toNat)
theorem test_keys : row (.confl f1) 4 = [0, 0, 1, 5, 2, 0, 0x12, 0xD] ∧ row (.ksumf f2) 4 = [0x40980000, 0x3F000000, 0, 0, 0, 0x40800000, 0, 0] ∧ row (.ksum { f2 with s2 := 8 }) 4 = [12, 3, 0, 0, 0, 7, 0, 0] := by decide +kernel
/-- R189 to R191: lanes taken by number, the sums and extremes over the active lanes, the inclusive prefix, and the winning lane of ARGMIN and ARGMAX. -/
theorem test_lanes : row (.shfl { f2 with s2 := 8 }) 4 = [3, 1, 3, 3, 1, 3, 1, 3] ∧ row (.shflx { f2 with s2 := 1, k2 := 3 }) 4 = [1, 3, 3, 3, 7, 1, 3, 1] ∧ row (.bcast { f2 with s2 := 5, k2 := 3 }) 4 = List.replicate 8 7 ∧
    row (.redadd f1) 4 = List.replicate 8 22 ∧ row (.redmin f1) 4 = List.replicate 8 1 ∧ row (.redmax f1) 4 = List.replicate 8 7 ∧ row (.scanadd f1) 4 = [3, 4, 7, 10, 11, 18, 19, 22] ∧
    row (.argmin { f1 with s1 := 10 }) 5 = List.replicate 8 4 ∧ row (.argmax { f1 with s1 := 10 }) 4 = List.replicate 8 0x40800000 := by decide +kernel

/-- R65, R66, R68, R196, R200: a tie to even, an overflow, a division by zero, invalid operands, signed zeros, the least subnormal halved, integral roundings. Flags: NX 1, UF 2, OF 4, DZ 8, NV 16. -/
theorem test_f32 : ([(Instr.fadd, 0x4B800000, 0x3F800000, 0, 0x4B800000, 1), (.fsub, 0x3F800000, 0x3F800000, 0, 0, 0), (.fmul, 0x7F7FFFFF, 0x40000000, 0, 0x7F800000, 5), (.fmul, 1, 0x3F000000, 0, 0, 3),
    (.fma, 0x40000000, 0x40400000, 0xC0C00000, 0, 0), (.fdiv, 0x3F800000, 0, 0, 0x7F800000, 8), (.fdiv, 0, 0, 0, 0x7FC00000, 16)] : List ((TF → Instr) × Nat × Nat × Nat × Nat × Nat)).all
      (fun p => resF (p.1 f2) p.2.1 p.2.2.1 p.2.2.2.1 == p.2.2.2.2) = true ∧
    ([(Instr.fabs, 0xFF800001, 0x7F800001, 0), (.fneg, 0, 0x80000000, 0), (.fsqrt, 0x80000000, 0x80000000, 0), (.fsqrt, 0x40800000, 0x40000000, 0), (.frcp, 0x80000000, 0xFF800000, 8), (.frsq, 0x80000000, 0xFF800000, 8),
      (.fexp2, 0x40400000, 0x41000000, 0), (.flog2, 0, 0xFF800000, 8), (.fsin, 0x80000000, 0x80000000, 0), (.fcos, 0, 0x3F800000, 0), (.frint, 0x3F000000, 0, 1), (.ffloor, 0xBF000000, 0xBF800000, 0), (.fceil, 0xBF000000, 0x80000000, 0),
      (.ftrunc, 0xBFC00000, 0xBF800000, 0), (.fclass, 0x80000000, 8, 0), (.fclass, 0x7F800001, 0x100, 0)] : List ((TF → Instr) × Nat × Nat × Nat)).all (fun p => resF (p.1 f1) p.2.1 0 0 == p.2.2) = true := by decide +kernel
/-- R198: NaN operands, and both zeros equal. R201's example: 2^24 and 1. -/
theorem test_f32_compare : ([(Instr.fseteq, 0, 0x80000000, 1, 0), (.fsetlt, 0x7FC00000, 0, 0, 16), (.fsetle, 0x3F800000, 0x3F800000, 1, 0), (.fsetun, 0x7FC00000, 0, 1, 0), (.ferradd, 0x4B800000, 0x3F800000, 0x4B800000, 1)]
      : List ((TF → Instr) × Nat × Nat × Nat × Nat)).all (fun p => resF (p.1 f2) p.2.1 p.2.2.1 0 == p.2.2.2) = true ∧ (vget (after (.ferradd f2) (tS (cV 0x4B800000 0x3F800000 0))) 5 2).toNat = 0x3F800000 := by decide +kernel

/-- Pairs: 1.0 in 8:9 and `x` in 10:11 of lane 2. R203: F64 sums and quotients; R188: a carry into the upper half. -/
def cP64 (x : Nat) : Crew := { tC with v := [(32 * 9 + 2, 0x3FF00000), (32 * 10 + 2, BitVec.ofNat 32 x), (32 * 11 + 2, BitVec.ofNat 32 (x / 2 ^ 32))] }
def res64 (i : Instr) (x : Nat) : Nat := (vget2 (after i (tS (cP64 x))) 4 2).toNat
theorem test_pairs : res64 (.dadd f2) 0x3FF0000000000000 = 0x4000000000000000 ∧ res64 (.dsub f2) 0x3FF0000000000000 = 0 ∧ res64 (.dmul f2) 0x4008000000000000 = 0x4008000000000000 ∧ res64 (.ddiv f2) 0x4000000000000000 = 0x3FE0000000000000 ∧
    res64 (.dabs { f1 with s1 := 10 }) 0xBFF0000000000000 = 0x3FF0000000000000 ∧ res64 (.iadd64 f2) 0xFFFFFFFFFFFFFFFF = 0x3FEFFFFFFFFFFFFF ∧ res64 (.isub64 f2) 1 = 0x3FEFFFFFFFFFFFFF := by decide +kernel
/-- R205: conversions of −1 and of 2^32 − 1, one of which rounds. R111: K words. -/
theorem test_conversions : resF (.icvtf f1) 0xFFFFFFFF 0 0 = (0xBF800000, 0) ∧ resF (.ucvtf f1) 0xFFFFFFFF 0 0 = (0x4F800000, 1) ∧ res (.kIadd { s := 8, d := 4 }) 7 0 5 = 12 ∧ res (.kIsub { s := 8, d := 4 }) 7 0 5 = 0xFFFFFFFE ∧
    res (.kMov { s := 8, d := 4 }) 7 0 5 = 7 := by decide +kernel

/-- Scratchpad accesses at 16 plus the lane's byte offset (0 and 4) in register 8; the bytes 0x84, 0xFF stand at 20. -/
def cMem : Crew := { tC with sreg := [(0, 16)], v := [(32 * 4, 5), (32 * 4 + 2, 0xFFFE), (32 * 8 + 2, 4)] }
def tMem : State := { tS cMem with teams := [(2 ^ 26, { bootTeam with scratch := [(20, 0x84), (21, 0xFF)] })] }
def mS : MF := { os := 0, sp := 1, b := 0, a := 8, d := 4 }
/-- The value that the last instruction is to return to register `r` in lane 2, and the word at `a` of the scratchpad after it. -/
def back (i : Instr) (r : Nat) : List Nat := ((after i tMem).pend.flatMap (fun p => p.targets)).filterMap (fun g => if g.lane == 2 && g.idx == r then some g.val.toNat else none)
def wordAt (i : Instr) (a : Nat) : Nat := match exec i tMem with | .next t => scN (teamAt t (2 ^ 26)) a 4 | _ => 0
/-- R213, R229: the bytes and signs of loads, the width of stores, the old value and the new one of atomics. -/
theorem test_memory : back (.ldbs mS) 4 = [0xFFFFFF84] ∧ back (.ldbz mS) 4 = [0x84] ∧ back (.ldhs mS) 4 = [0xFFFFFF84] ∧ back (.ldhz mS) 4 = [0xFF84] ∧ back (.ldw mS) 4 = [0xFF84] ∧
    wordAt (.stb mS) 20 = 0xFFFE ∧ wordAt (.sth mS) 20 = 0xFFFE ∧ wordAt (.stw mS) 16 = 5 ∧ back (.aadd mS) 4 = [0xFF84] ∧ wordAt (.aadd mS) 20 = 0x1FF82 ∧ wordAt (.amax mS) 20 = 0xFFFE ∧ wordAt (.aand mS) 20 = 0xFF84 ∧
    wordAt (.axor mS) 20 = 0x7A ∧ wordAt (.axchg mS) 16 = 5 ∧ back (.axchg mS) 4 = [0xFF84] := by decide +kernel

/-- R165, R167: a backward branch; the lanes of BRU part, and the lower address runs first; CALL links the next instruction. -/
theorem test_branches : (after (.bra ⟨0xFFFF, 0⟩) (tS { tC with pc := 8 })).pc = 10 ∧
    (let c := after (.bru ⟨4, 8⟩) (tS { tC with sreg := [(8, 1)] })
     c.pc = 4 ∧ c.exm = 4 ∧ (frGet c.fr 0).resume = 12) ∧
    (let c := after (.call ⟨4, 8⟩) (tS tC)
     c.pc = 12 ∧ (vget2 c 8 2).toNat = 4) := by decide +kernel
/-- R243 to R245, R249, R251: a trap enters its handler, 64 bytes for each cause, at depth 1 with the trapping lanes; RETT goes back to the instruction. -/
theorem test_traps : (let c := after (.trap { fb with s1 := 3, k1 := 3 }) (tS tC)
      c.pc = 0x8000 + 64 * 0x50 ∧ c.exm = 5 ∧ c.tdepth = 1 ∧ (bankOf c).tmask = 5 ∧ (bankOf c).tva = 3) ∧
    (let c := after .rett (tS (cR 1 5))
     c.tdepth = 0 ∧ (frGet c.fr 2).resume = 0) := by decide +kernel
/-- R193, R194: immediates keep the other half; an RDSR of the lane number; a WRSR of `rnd` takes its low bits. -/
theorem test_special : res (.ldi ⟨0xFFFF, 4⟩) 0 0 9 = 0xFFFF ∧ res (.ldih ⟨0x1234, 4⟩) 0 0 0x56789 = 0x12346789 ∧ res (.rdsr ⟨1, 4⟩) 0 0 0 = 2 ∧ (after (.wrsr ⟨0x30, 8⟩) (tS (cV 2 0 0))).rnd = 2 := by decide +kernel

end Sys2Proof.Tests
end

