-- ==== Sys2Proof/Proofs/Alu.lean ====
section
/-! SUPPORT. The arithmetic forms that the integer instructions share, each with what its instructions leave; and the model's word functions
in the spec's own terms (R183, R184, R187). -/

namespace Sys2Proof.Machine

/-! ## Forms -/

/-- Instruction `k` is the per-lane form of one 32-bit operand with result `g`. -/
def IsAlu1 (k : TF → Instr) (g : Word → Word) : Prop := ∀ f s, exec (k f) s = issue (k f) (alu1 f g) s

/-- Instruction `k` is the per-lane form of two 32-bit operands with result `g`, whatever cycles it takes. -/
def IsAlu2 (k : TF → Instr) (g : Word → Word → Word) : Prop := ∃ cyc, ∀ f s, exec (k f) s = issue (k f) (alu2 f cyc g) s

/-- Instruction `k` is the three-source form with result `g` of the two operands and the old vD. -/
def IsAlu3 (k : TF → Instr) (g : Word → Word → Word → Word) : Prop := ∀ f s, exec (k f) s = issue (k f) (alu3 f g) s

/-- Instruction `k` writes 1 to vD where `P` holds of its operands, and 0 elsewhere (R187). -/
def Sets (k : TF → Instr) (P : Word → Word → Prop) : Prop :=
  ∃ p : Word → Word → Bool, IsAlu2 k (fun a b => b2w (p a b)) ∧ ∀ a b, p a b = true ↔ P a b

/-- The scalar form with an S2 of `n2` registers that collects the active lanes in which `p` holds of the operands (R187). -/
def lanesCore (f : TF) (n2 : Nat) (p : Word → Word → Bool) : Core :=
  scalarCore f n2 (fun c m => maskOf (fun L => m.getLsbD L && p (opA c .i32 f L) (opB c .i32 f L))) (fun _ _ => 0)

/-- Instruction `k`, with an S2 of `n2` registers, writes the scalar of the active lanes in which `P` holds of its operands (R187). -/
def Collects (k : TF → Instr) (n2 : Nat) (P : Word → Word → Prop) : Prop :=
  ∃ p : Word → Word → Bool, (∀ f s, exec (k f) s = issue (k f) (lanesCore f n2 p) s) ∧ ∀ a b, p a b = true ↔ P a b

theorem IsAlu1.congr {k : TF → Instr} {g g' : Word → Word} (h : IsAlu1 k g) (e : ∀ a, g a = g' a) : IsAlu1 k g' :=
  (funext e : g = g') ▸ h

theorem IsAlu2.congr {k : TF → Instr} {g g' : Word → Word → Word} (h : IsAlu2 k g) (e : ∀ a b, g a b = g' a b) : IsAlu2 k g' :=
  (funext₂ e : g = g') ▸ h

section
variable {k : TF → Instr} {f : TF} {s : State} {c : Crew}

/-- What an instruction of one operand leaves (R180). -/
theorem IsAlu1.result {g : Word → Word} (hk : IsAlu1 k g) (h : Clear s c (k f) (tUses f 1 0 1 false)) (hb : BankIdle c f) :
    ∃ t, exec (k f) s = .next t ∧ VectorResult s t c (nextPc s c (k f)) f.d.toNat (fun L => ([g (opA (seen s c) .i32 f L)], 0)) :=
  exec_laneCore _ (hk f s) h hb (oddConst_one ..) (oddConst_zero ..) (fun _ _ _ => rfl)

/-- What an instruction of two operands leaves (R180). -/
theorem IsAlu2.result {g : Word → Word → Word} (hk : IsAlu2 k g) (h : Clear s c (k f) (tUses f 1 1 1 false)) (hb : BankIdle c f) :
    ∃ t, exec (k f) s = .next t ∧ VectorResult s t c (nextPc s c (k f)) f.d.toNat
      (fun L => ([g (opA (seen s c) .i32 f L) (opB (seen s c) .i32 f L)], 0)) := by
  obtain ⟨cyc, he⟩ := hk
  exact exec_laneCore _ (he f s) h hb (oddConst_one ..) (oddConst_one ..) (fun _ _ _ => rfl)

/-- What a three-source instruction leaves (R179, R180). -/
theorem IsAlu3.result {g : Word → Word → Word → Word} (hk : IsAlu3 k g) (h : Clear s c (k f) (tUses f 1 1 1 true)) (hb : BankIdle c f) :
    ∃ t, exec (k f) s = .next t ∧ VectorResult s t c (nextPc s c (k f)) f.d.toNat
      (fun L => ([g (opA (seen s c) .i32 f L) (opB (seen s c) .i32 f L) (vget (seen s c) f.d.toNat L)], 0)) :=
  exec_laneCore _ (hk f s) h hb (oddConst_one ..) (oddConst_one ..) (fun _ _ _ => rfl)

theorem b2w_cases {b : Bool} {P : Prop} (h : b = true ↔ P) : (P ∧ b2w b = 1) ∨ (¬ P ∧ b2w b = 0) := by
  cases b with
  | true => exact .inl ⟨h.mp rfl, rfl⟩
  | false => exact .inr ⟨fun hP => Bool.false_ne_true (h.mpr hP), rfl⟩

/-- What a set form leaves (R187). -/
theorem Sets.result {P : Word → Word → Prop} (hk : Sets k P) (h : Clear s c (k f) (tUses f 1 1 1 false)) (hb : BankIdle c f) :
    ∃ t, exec (k f) s = .next t ∧ ∃ g : Nat → Word, VectorResult s t c (nextPc s c (k f)) f.d.toNat (fun L => ([g L], 0)) ∧
      ∀ L, (P (opA (seen s c) .i32 f L) (opB (seen s c) .i32 f L) ∧ g L = 1) ∨ (¬ P (opA (seen s c) .i32 f L) (opB (seen s c) .i32 f L) ∧ g L = 0) := by
  obtain ⟨p, halu, hp⟩ := hk
  obtain ⟨t, ht, hv⟩ := halu.result h hb
  exact ⟨t, ht, _, hv, fun _ => b2w_cases (hp ..)⟩

/-- What a mask form leaves (R187). -/
theorem Collects.result {n2 : Nat} {P : Word → Word → Prop} (hk : Collects k n2 P) (h : Clear s c (k f) (tUsesS f n2)) (hb : BankIdle c f) :
    ∃ t, exec (k f) s = .next t ∧ ∃ w : Mask, ScalarResult s t c (nextPc s c (k f)) f.d.toNat w (fun _ => 0) ∧
      ∀ L < 32, w.getLsbD L = true ↔ c.exm.getLsbD L = true ∧ P (opA (seen s c) .i32 f L) (opB (seen s c) .i32 f L) := by
  obtain ⟨p, he, hp⟩ := hk
  obtain ⟨t, ht, hw⟩ := exec_scalarCore (he f s) h hb
  refine ⟨t, ht, _, hw, fun L hL => ?_⟩
  rw [maskOf_getLsbD, ← hp]
  simp [hL]

end

/-! ## Word functions -/

theorem sltW_iff (a b : Word) : sltW a b = true ↔ a.toInt < b.toInt := decide_eq_true_iff
theorem sleW_iff (a b : Word) : sleW a b = true ↔ a.toInt ≤ b.toInt := decide_eq_true_iff
theorem ultW_iff (a b : Word) : ultW a b = true ↔ a.toNat < b.toNat := decide_eq_true_iff
theorem uleW_iff (a b : Word) : uleW a b = true ↔ a.toNat ≤ b.toNat := decide_eq_true_iff

theorem idivW_eq (a b : Word) : idivW a b = if b = 0 then 0 else BitVec.ofInt 32 (a.toInt.tdiv b.toInt) := by
  simp only [idivW, W32, S32, beq_iff_eq]
theorem iremW_eq (a b : Word) : iremW a b = if b = 0 then 0 else BitVec.ofInt 32 (a.toInt.tmod b.toInt) := by
  simp only [iremW, W32, S32, beq_iff_eq]
theorem udivW_eq (a b : Word) : udivW a b = if b = 0 then 0 else BitVec.ofNat 32 (a.toNat / b.toNat) := by
  simp only [udivW, beq_iff_eq]
theorem uremW_eq (a b : Word) : uremW a b = if b = 0 then 0 else BitVec.ofNat 32 (a.toNat % b.toNat) := by
  simp only [uremW, beq_iff_eq]

/-- An arithmetic shift right by the whole width leaves copies of the sign bit. -/
theorem sshiftRight_width (a : Word) : a.sshiftRight 32 = if a.msb then BitVec.allOnes 32 else 0 := by
  apply BitVec.eq_of_getLsbD_eq
  intro i hi
  have hpast : ¬ 32 + i < 32 := by omega
  rw [BitVec.getLsbD_sshiftRight, if_neg hpast]
  cases a.msb with
  | true => rw [if_pos rfl, BitVec.getLsbD_allOnes]; simp [hi]
  | false => simp

/-- R184's SAR: a shift below 32, and copies of the sign from 32 on. -/
theorem sarW_eq (a n : Word) : sarW a n = if n.toNat < 32 then a.sshiftRight n.toNat else if a.msb then BitVec.allOnes 32 else 0 := by
  unfold sarW
  split
  next h => rw [Nat.min_eq_left h.le]
  next h => rw [Nat.min_eq_right (not_lt.mp h), sshiftRight_width]

theorem popcW_eq (a : Word) : popcW a = BitVec.ofNat 32 ((List.range 32).countP (fun i => a.getLsbD i)) := by
  rw [List.countP_eq_length_filter]; rfl

/-- The leading zeros of a nonzero word fix its highest 1 bit, which `Nat.log2` finds. -/
theorem log2_of_ne_zero (a : Word) (h : a ≠ 0) : Nat.log2 a.toNat = 31 - a.clz.toNat := by
  have hlo := BitVec.two_pow_sub_clz_le_toNat_of_ne_zero (by omega) h
  have hhi := BitVec.toNat_lt_two_pow_sub_clz (x := a)
  have hlt : a.clz.toNat < 32 := BitVec.clz_lt_iff_ne_zero.mpr h
  have hsucc : 31 - a.clz.toNat + 1 = 32 - a.clz.toNat := by omega
  exact (Nat.log2_eq_iff (fun e => h (BitVec.eq_of_toNat_eq e))).mpr ⟨hlo, hsucc ▸ hhi⟩

theorem clzW_eq (a : Word) : clzW a = BitVec.clz a := by
  unfold clzW
  by_cases h : a = 0
  · subst h; decide
  · have hlt : a.clz.toNat < 32 := BitVec.clz_lt_iff_ne_zero.mpr h
    have hlead : 31 - (31 - a.clz.toNat) = a.clz.toNat := by omega
    rw [if_neg (by simpa using h), log2_of_ne_zero a h, hlead, BitVec.ofNat_toNat, BitVec.setWidth_eq]

theorem brevW_eq (a : Word) : brevW a = a.reverse := by
  apply BitVec.eq_of_getLsbD_eq
  intro i hi
  rw [brevW, maskOf_getLsbD, BitVec.getLsbD_reverse, BitVec.getMsbD]

end Sys2Proof.Machine
end

