-- ==== Sys2Proof/Proofs/IntegerArithmetic.lean ====
section
/-! The integer, logic, shift, count and move instructions (R183, R184): the form of each, and what each leaves. -/

namespace Sys2Proof.Machine

theorem isAlu2_imin : IsAlu2 .imin (fun a b => if b.toInt < a.toInt then b else a) :=
  IsAlu2.congr ⟨1, fun _ _ => rfl⟩ (fun a b => by simp only [sltW_iff])
theorem isAlu2_imax : IsAlu2 .imax (fun a b => if a.toInt < b.toInt then b else a) :=
  IsAlu2.congr ⟨1, fun _ _ => rfl⟩ (fun a b => by simp only [sltW_iff])
theorem isAlu2_umin : IsAlu2 .umin (fun a b => if b.toNat < a.toNat then b else a) :=
  IsAlu2.congr ⟨1, fun _ _ => rfl⟩ (fun a b => by simp only [ultW_iff])
theorem isAlu2_umax : IsAlu2 .umax (fun a b => if a.toNat < b.toNat then b else a) :=
  IsAlu2.congr ⟨1, fun _ _ => rfl⟩ (fun a b => by simp only [ultW_iff])

theorem isAlu2_idiv : IsAlu2 .idiv (fun a b => if b = 0 then 0 else BitVec.ofInt 32 (a.toInt.tdiv b.toInt)) :=
  IsAlu2.congr ⟨8, fun _ _ => rfl⟩ idivW_eq
theorem isAlu2_irem : IsAlu2 .irem (fun a b => if b = 0 then 0 else BitVec.ofInt 32 (a.toInt.tmod b.toInt)) :=
  IsAlu2.congr ⟨8, fun _ _ => rfl⟩ iremW_eq
theorem isAlu2_udiv : IsAlu2 .udiv (fun a b => if b = 0 then 0 else BitVec.ofNat 32 (a.toNat / b.toNat)) :=
  IsAlu2.congr ⟨8, fun _ _ => rfl⟩ udivW_eq
theorem isAlu2_urem : IsAlu2 .urem (fun a b => if b = 0 then 0 else BitVec.ofNat 32 (a.toNat % b.toNat)) :=
  IsAlu2.congr ⟨8, fun _ _ => rfl⟩ uremW_eq

theorem isAlu1_iabs : IsAlu1 .iabs (fun a => if a.toInt < 0 then -a else a) :=
  IsAlu1.congr (fun _ _ => rfl) (fun a => by simp only [sltW_iff, BitVec.ofNat_eq_ofNat, BitVec.toInt_zero, BitVec.zero_sub])

theorem isAlu2_sar :
    IsAlu2 .sar (fun a b => if b.toNat < 32 then a.sshiftRight b.toNat else if a.msb then BitVec.allOnes 32 else 0) :=
  IsAlu2.congr ⟨1, fun _ _ => rfl⟩ sarW_eq

theorem isAlu1_popc : IsAlu1 .popc (fun a => BitVec.ofNat 32 ((List.range 32).countP (fun i => a.getLsbD i))) :=
  IsAlu1.congr (fun _ _ => rfl) popcW_eq
theorem isAlu1_clz : IsAlu1 .clz (fun a => BitVec.clz a) := IsAlu1.congr (fun _ _ => rfl) clzW_eq
theorem isAlu1_brev : IsAlu1 .brev (fun a => a.reverse) := IsAlu1.congr (fun _ _ => rfl) brevW_eq

/-- Settles O1: each row of R183 is a per-lane form. Most rows are the model's own function; the comparisons and divisions take their lemma. -/
theorem integerArithmeticWritesItsRow : Obligations.IntegerArithmeticWritesItsRow := by
  unfold Obligations.IntegerArithmeticWritesItsRow
  refine ⟨fun p hp f s c => IsAlu2.result ?rows, fun f s c => IsAlu3.result (g := fun a b d => a * b + d) (fun _ _ => rfl),
    fun f s c => isAlu1_iabs.result⟩
  case rows =>
    revert p
    simp only [List.forall_mem_cons]
    exact
      ⟨⟨1, fun _ _ => rfl⟩, ⟨1, fun _ _ => rfl⟩, ⟨1, fun _ _ => rfl⟩, ⟨2, fun _ _ => rfl⟩, ⟨2, fun _ _ => rfl⟩, -- IADD, ISUB, IMUL, IMULH, UMULH
        isAlu2_imin, isAlu2_imax, isAlu2_umin, isAlu2_umax, isAlu2_idiv, isAlu2_udiv, isAlu2_irem, isAlu2_urem,
        ⟨1, fun _ _ => rfl⟩, List.forall_mem_nil _⟩ -- IADDS

/-- Settles O2: each row of R184 is a per-lane form; SAR, POPC, CLZ and BREV take the lemma on their function. -/
theorem logicShiftsAndMovesWriteTheirRow : Obligations.LogicShiftsAndMovesWriteTheirRow := by
  unfold Obligations.LogicShiftsAndMovesWriteTheirRow
  refine ⟨fun p hp f s c => IsAlu2.result ?rows2, fun p hp f s c => IsAlu1.result ?rows1⟩
  case rows2 =>
    revert p
    simp only [List.forall_mem_cons]
    exact
      ⟨⟨1, fun _ _ => rfl⟩, ⟨1, fun _ _ => rfl⟩, ⟨1, fun _ _ => rfl⟩, ⟨1, fun _ _ => rfl⟩, -- AND, OR, XOR, ANDN
        ⟨1, fun _ _ => rfl⟩, ⟨1, fun _ _ => rfl⟩, isAlu2_sar, ⟨1, fun _ _ => rfl⟩, -- SHL, SHR, SAR, ROTL
        List.forall_mem_nil _⟩
  case rows1 =>
    revert p
    simp only [List.forall_mem_cons]
    exact ⟨isAlu1_popc, isAlu1_clz, isAlu1_brev, fun _ _ => rfl, List.forall_mem_nil _⟩

end Sys2Proof.Machine
end

