-- ==== Sys2Proof/Proofs/Comparisons.lean ====
section
/-! The comparisons (R187): the condition that each tests, and what its set form or mask form leaves. -/

namespace Sys2Proof.Machine

/-- Settles O4: each form tests its condition lane by lane; the set forms write it per lane, the mask forms and BALLOT collect the active lanes. -/
theorem comparisonsAndLaneMasks : Obligations.ComparisonsAndLaneMasks := by
  unfold Obligations.ComparisonsAndLaneMasks
  refine ⟨fun p hp f s c => Sets.result ?sets, fun p hp f s c => Collects.result ?masks⟩
  case sets =>
    revert p
    simp only [List.forall_mem_cons]
    exact
      ⟨⟨fun a b => a == b, ⟨1, fun _ _ => rfl⟩, fun _ _ => beq_iff_eq⟩, ⟨fun a b => a != b, ⟨1, fun _ _ => rfl⟩, fun _ _ => bne_iff_ne⟩,
        ⟨sltW, ⟨1, fun _ _ => rfl⟩, sltW_iff⟩, ⟨sleW, ⟨1, fun _ _ => rfl⟩, sleW_iff⟩,
        ⟨ultW, ⟨1, fun _ _ => rfl⟩, ultW_iff⟩, ⟨uleW, ⟨1, fun _ _ => rfl⟩, uleW_iff⟩, List.forall_mem_nil _⟩
  case masks =>
    revert p
    simp only [List.forall_mem_cons]
    exact
      ⟨⟨fun a b => a == b, fun _ _ => rfl, fun _ _ => beq_iff_eq⟩, ⟨fun a b => a != b, fun _ _ => rfl, fun _ _ => bne_iff_ne⟩,
        ⟨sltW, fun _ _ => rfl, sltW_iff⟩, ⟨sleW, fun _ _ => rfl, sleW_iff⟩, ⟨ultW, fun _ _ => rfl, ultW_iff⟩, ⟨fun a _ => a != 0, fun _ _ => rfl, fun _ _ => bne_iff_ne⟩,
        List.forall_mem_nil _⟩

end Sys2Proof.Machine
end
